-- ==== Sys2Proof/Word.lean ====
section
/-! DEFINITION. The widths the KL7 manual counts in (R3, R5): bytes, 32-bit lanes and 64-bit words. -/

namespace Sys2Proof

/-- A byte (R3). -/
abbrev Byte := BitVec 8

/-- A 64-bit word (R5: a word is 8 bytes). -/
abbrev Word := BitVec 64

/-- A 32-bit lane of a vector register (R25), or half a bundle (R70). -/
abbrev Lane := BitVec 32

end Sys2Proof
end

