-- ==== Sys2Proof/Config.lean ====
section
/-! DEFINITION. What the manual leaves open, as constants without a body: nothing can be proved of their values, so a
claim about the model holds for every value of them. Each names the rule that leaves it open and its log entry. -/

namespace Sys2Proof.Config

/-- Free 32-bit values: the lanes of a grant that VCLAIM leaves undefined (R36; log entry 8). -/
opaque freeLane : Nat → BitVec 32

/-- Free bits: the lane poison of undefined lanes (R36), by a fresh number (log entry 8). -/
opaque freeBool : Nat → Bool

/-- Which of a word's open reads a joinable load joins, by a fresh number; one past them joins it to none (R207; log entry
9). -/
opaque joinPick : Nat → Nat

/-- Whether a flit that a matrix unit fetches shows the words as they were when the command was accepted, by a fresh number
and the flit (R234; log entry 23). -/
opaque flitOld : Nat → Nat → Bool

/-- The place of a contribution in the order in which a matrix unit adds a block's contributions, by a fresh number and the
contribution (R61; log entry 24). -/
opaque accRank : Nat → Nat → Nat

/-- Which of a vector access's elements left goes next, by a fresh number (R137; log entry 25). -/
opaque elementOrder : Nat → Nat

/-- Whether the hardware drops an entry of a TLB, by cycle and TLB (R161; log entry 11). -/
opaque tlbDrop : Nat → Option Nat

/-- The wick that a hop finds where it does not match, by a fresh number (R406, R407; log entry 26). -/
opaque badWick : Nat → Nat
/-- Why a peer refuses an access that is made at once, when it is one of the reasons of R386 (log entry 5). -/
opaque peerRefusal : Nat → Nat
/-- What the check of a chunk that a key-value port decodes finds: 0 good, 1 good on the second attempt, else a mismatch (R406;
log entry 60). -/
opaque decodeCheck : Nat → Nat

/-- How many bundles a thread has fetched ahead after an issue, by a fresh number (R86: up to two; log entry 29). -/
opaque fetchedAhead : Nat → Nat

/-- How many cycles a message spends in flight beyond the next cycle (R141: latencies do not bind; log entry 2). -/
opaque delay : Nat → Nat

/-- The bank agent of a physical address in HBM4E (R140: a fixed hash programs cannot observe; log entry 10). -/
opaque hbmAgent : Nat → Nat

/-- The bank agent of a physical address in LPDDR6 (R140; log entry 10). -/
opaque lpddrAgent : Nat → Nat

/-- Which 64 KiB page of a die's HBM4E, and which of LPDDR6, service firmware takes when it needs one, by a fresh number, when
it has one (R284; log entry 28). -/
opaque hbmPage : Nat → Option Nat
opaque lpddrPage : Nat → Option Nat

/-- Which entry a TLB fill replaces when the TLB is full (R161, R426; log entry 11). -/
opaque tlbVictim : Nat → Nat

/-- The keyed check of a capability over its bits 39:0, by the draw of the module key (R245; log entry 12). -/
opaque capCheck : Nat → Nat → BitVec 24

/-- Word 0 of the layer directory of a model image: NLAYER, KVW and NBLK (R322; log entry 13). -/
opaque imageDir : Nat → BitVec 64

/-- Where the Chandler's firmware takes device memory for directories and token strings: a base (log entry 14). -/
opaque heapBase : Nat

/-- How many bytes of device memory the Chandler's firmware may take beyond the least it has (log entry 14). -/
opaque heapSize : Nat

/-- Where key-value blocks lie in the upper half of the HBM4E of a die, in MiB (log entry 14). -/
opaque kvBase : Nat → Nat

/-- How many blocks of 1 MiB beyond the first the key-value memory of a die holds (log entry 14). -/
opaque kvBlocks : Nat → Nat

/-- The coded size of a raw block in units of 256 bytes, less 1 (R325: only the size is architectural; log entry 15). -/
opaque codedSize : List (BitVec 8) → Nat

/-- The cause of the report of a key-value command that ends with a STATUS and fills no word (R327; log entry 27). -/
opaque kvCause : Nat → BitVec 8

/-- A value from which a new SHAREID is sought, by a fresh number (R306, R356, R359; log entry 16). -/
opaque freshShare : Nat → BitVec 64

/-- The bytes of the image of stage `n` of an image set, and the digest and the signature its header carries (R437; log entry
17). -/
opaque imageBytes : List (BitVec 8) → Nat → List (BitVec 8)
opaque imageDigest : List (BitVec 8) → Nat → List (BitVec 8)
opaque imageSignature : List (BitVec 8) → Nat → List (BitVec 8)

/-- Whether a signature over a digest is one by the key whose digest is fused into the module (R437; log entry 17). -/
opaque signedBy : List (BitVec 8) → List (BitVec 8) → Bool

/-- The 114-byte Ed448 signature over a message by the key of a key material (R437, R439; log entry 17). -/
opaque quoteSignature : List (BitVec 8) → List (BitVec 8) → Vector (BitVec 8) 114

/-- The public half of the attestation key of a key material, and the identity key's signature over it (R439; log entry 17).
-/
opaque attestationKey : List (BitVec 8) → Vector (BitVec 8) 57
opaque attestationSignature : List (BitVec 8) → Vector (BitVec 8) 114

/-- The fused unique secret (R439; log entry 17). -/
opaque secret : List (BitVec 8)

/-- The module's serial number and identity public key (R439; log entry 17). -/
opaque serial : List (BitVec 8)
opaque identityKey : Vector (BitVec 8) 57

/-- The identity certificate (R439; log entry 17). -/
opaque certificate : List (BitVec 8)

/-- The spare that repairs a unit, when its kind has one left (R410; log entry 18). -/
opaque spareFor : BitVec 64 → Option (BitVec 64)

end Sys2Proof.Config
end

