-- ==== Sys2Proof/Syntax.lean ====
section
/-! DEFINITION. The syntax of the machine: one constructor of `Instr` for each row of spec/opcode_table.json. A-slot
instructions, V-slot instructions, Fendouk words, and the indivisible steps of the module that no instruction word names
(file 95), written as commands, stand in the table's order; those without operands follow at the end, because compiled
Lean allows no operands to a constructor past the 244th. -/

namespace Sys2Proof

/-- A general register g0 to g31 (R21). -/
abbrev Reg := Fin 32
/-- A vector register v0 to v31 (R25). -/
abbrev VReg := Fin 32
/-- A predicate p0 to p7 (R24). -/
abbrev PReg := Fin 8
/-- An accumulator tile a0 to a3 (R28). -/
abbrev Tile := Fin 4
/-- A context register c0 to c15 (R88). -/
abbrev CReg := Fin 16
/-- A Fendouk scalar register h0 to h15 (R88). -/
abbrev HReg := Fin 16

/-- The integer type codes `ity` (R75). -/
inductive Ity where
  | n8 | n16 | n32 | n64 | s8 | s16 | s32 | s64
  deriving DecidableEq, Repr

/-- The float type codes `fty` (R75). -/
inductive Fty where
  | b16 | h16 | f32 | f64
  deriving DecidableEq, Repr

/-- The fourteen legal type codes `ty`, `to` and `from` (R75). -/
inductive Ty where
  | n8 | n16 | n32 | n64 | s8 | s16 | s32 | s64 | b16 | h16 | f32 | f64 | ln6 | ln8
  deriving DecidableEq, Repr

/-- The condition codes (R75); `un` is legal on float and LN types only. -/
inductive Cond where
  | eq | ne | lt | le | gt | ge | un
  deriving DecidableEq, Repr

/-- The order codes of the AM forms (R75): sequentially consistent, relaxed, acquire, release. -/
inductive MemOrd where
  | sc | rx | acq | rel
  deriving DecidableEq, Repr

/-- The ten scopes (R75). -/
inductive Scope where
  | slot | core | cluster | district | die | device | host | peer | fabric | system
  deriving DecidableEq, Repr

/-- The five rounding modes (R53). -/
inductive Rm where
  | rne | rtz | rdn | rup | rmm
  deriving DecidableEq, Repr

/-- The full/empty modes of a copy (R79). -/
inductive CopyMode where
  | fb | ff | fe | fk | fr
  deriving DecidableEq, Repr

/-- The operand pairings of MMA (R83). -/
inductive Pairing where
  | ln6 | ln8 | ln6ln8 | ln8ln6 | s8 | b16
  deriving DecidableEq, Repr

/-- The readout targets of MRD and MST (R83). -/
inductive Target where
  | ln6 | ln8 | s8 | b16 | h16 | f32 | f64
  deriving DecidableEq, Repr

/-- The control registers that a chapter assigns (R29). -/
inductive Creg where
  | slot | threadgen | pred | flags | vl | grant | present | poison | energy | enctl | repst | tags | waitbud | dpat
  | netcap | space | sigst | cpmbx | launchid | nrctl | chkid | mbxst | guard (n : Fin 8)
  deriving DecidableEq, Repr

/-- An immediate field of `n` bits, with the 27-bit field X of the bundle's immediate extension when it has one
(R73, R76). -/
structure Imm (n : Nat) where
  ext : Option (BitVec 27) := none
  field : BitVec n
  deriving DecidableEq, Repr

/-- The last operand of HMOV, HADD, HSUB and HCMP: a register, or imm32 when I is 1 (R346). -/
inductive HSrc where
  | reg (h : HReg)
  | imm (v : BitVec 32)
  deriving DecidableEq, Repr

/-- What one hop's check of a chunk finds (R408, R409). -/
inductive CheckResult where
  | good | corrected | mismatch
  deriving DecidableEq, Repr

/-- What arrives through a Beacon port (R383, R384): an LD or an ST of the thread that a number names, at an aperture offset
with its view in bits 45:44, and whether the store is posted at its sender; or a load or store of an aligned 16 bytes (R209). -/
inductive PeerReq where
  | load (sender : Nat) (off : Nat) (size : Nat)
  | store (sender : Nat) (off : Nat) (size : Nat) (value : Word) (posted : Bool)
  | loadFlit (sender : Nat) (off : Nat)
  | storeFlit (sender : Nat) (off : Nat) (lo hi : Word) (posted : Bool)
  deriving DecidableEq, Repr

/-- The instructions and indivisible steps of the KL7: one constructor for each row of spec/opcode_table.json. -/
inductive Instr where
  -- A-slot instructions (R77 to R80); `g` is the guard
  /-- NOP_A_SLOT (R112). A-slot NOP does nothing under any guard. -/
  | nopA (g : PReg)
  /-- ADD (R94). Writes (a + b) mod 2^64 to gd. -/
  | add (d : Reg) (a : Reg) (b : Reg) (g : PReg)
  /-- SUB (R94). Writes (a - b) mod 2^64 to gd. -/
  | sub (d : Reg) (a : Reg) (b : Reg) (g : PReg)
  /-- MUL (R94). Writes the low 64 bits of a × b to gd. -/
  | mul (d : Reg) (a : Reg) (b : Reg) (g : PReg)
  /-- MULH (R94). Writes the high 64 bits of the signed 128-bit product. -/
  | mulh (d : Reg) (a : Reg) (b : Reg) (g : PReg)
  /-- MULHN (R94). Writes the high 64 bits of the unsigned 128-bit product. -/
  | mulhn (d : Reg) (a : Reg) (b : Reg) (g : PReg)
  /-- DIV (R95). Signed division truncating toward zero, with DZ and SAT cases. -/
  | div (d : Reg) (a : Reg) (b : Reg) (g : PReg)
  /-- DIVN (R95). Unsigned division, writing 0 with DZ for a zero divisor. -/
  | divn (d : Reg) (a : Reg) (b : Reg) (g : PReg)
  /-- REM (R95). Signed remainder taking the sign of a. -/
  | rem (d : Reg) (a : Reg) (b : Reg) (g : PReg)
  /-- REMN (R95). Unsigned remainder. -/
  | remn (d : Reg) (a : Reg) (b : Reg) (g : PReg)
  /-- AND (R94). Bitwise and. -/
  | and (d : Reg) (a : Reg) (b : Reg) (g : PReg)
  /-- ANDN (R94). Bitwise a and not b. -/
  | andn (d : Reg) (a : Reg) (b : Reg) (g : PReg)
  /-- OR (R94). Bitwise or. -/
  | or (d : Reg) (a : Reg) (b : Reg) (g : PReg)
  /-- XOR (R94). Bitwise exclusive or. -/
  | xor (d : Reg) (a : Reg) (b : Reg) (g : PReg)
  /-- SHL (R94). Shift left by b[5:0]. -/
  | shl (d : Reg) (a : Reg) (b : Reg) (g : PReg)
  /-- SHR (R94). Logical shift right by b[5:0]. -/
  | shr (d : Reg) (a : Reg) (b : Reg) (g : PReg)
  /-- SHRA (R94). Arithmetic shift right by b[5:0]. -/
  | shra (d : Reg) (a : Reg) (b : Reg) (g : PReg)
  /-- ROL (R94). Rotate left by b[5:0]. -/
  | rol (d : Reg) (a : Reg) (b : Reg) (g : PReg)
  /-- MIN (R94). Signed minimum. -/
  | min (d : Reg) (a : Reg) (b : Reg) (g : PReg)
  /-- MAX (R94). Signed maximum. -/
  | max (d : Reg) (a : Reg) (b : Reg) (g : PReg)
  /-- MINN (R94). Unsigned minimum. -/
  | minn (d : Reg) (a : Reg) (b : Reg) (g : PReg)
  /-- MAXN (R94). Unsigned maximum. -/
  | maxn (d : Reg) (a : Reg) (b : Reg) (g : PReg)
  /-- MOV (R94). Copies a to gd. -/
  | mov (d : Reg) (a : Reg) (g : PReg)
  /-- CLZ (R94). Counts leading zero bits of a. -/
  | clz (d : Reg) (a : Reg) (g : PReg)
  /-- CTZ (R94). Counts trailing zero bits of a. -/
  | ctz (d : Reg) (a : Reg) (g : PReg)
  /-- POPC (R94). Counts one bits of a. -/
  | popc (d : Reg) (a : Reg) (g : PReg)
  /-- SEXT_S8 (R94). Sign-extends a[7:0]. -/
  | sextS8 (d : Reg) (a : Reg) (g : PReg)
  /-- SEXT_S16 (R94). Sign-extends a[15:0]. -/
  | sextS16 (d : Reg) (a : Reg) (g : PReg)
  /-- SEXT_S32 (R94). Sign-extends a[31:0]. -/
  | sextS32 (d : Reg) (a : Reg) (g : PReg)
  /-- ZEXT_N8 (R94). Zero-extends a[7:0]. -/
  | zextN8 (d : Reg) (a : Reg) (g : PReg)
  /-- ZEXT_N16 (R94). Zero-extends a[15:0]. -/
  | zextN16 (d : Reg) (a : Reg) (g : PReg)
  /-- ZEXT_N32 (R94). Zero-extends a[31:0]. -/
  | zextN32 (d : Reg) (a : Reg) (g : PReg)
  /-- ADDI (R96). Adds a sign-extended immediate to a. -/
  | addi (d : Reg) (a : Reg) (imm : Imm 12) (g : PReg)
  /-- LEA (R96). Adds an immediate counted in words to a. -/
  | lea (d : Reg) (a : Reg) (imm : Imm 12) (g : PReg)
  /-- MOVI (R96). Writes a sign-extended immediate to gd. -/
  | movi (d : Reg) (imm : Imm 17) (g : PReg)
  /-- MOVHI (R96). Writes an unsigned immediate to bits 63:20 of gd, keeping bits 19:0. -/
  | movhi (d : Reg) (imm : Imm 17) (g : PReg)
  /-- ADDPC (R96). Writes the bundle address plus a byte immediate. -/
  | addpc (d : Reg) (imm : Imm 17) (g : PReg)
  /-- CMP (R97). Compares two registers at a type width and writes a predicate. -/
  | cmp (pd : PReg) (a : Reg) (c : Cond) (ty : Ity) (b : Reg) (g : PReg)
  /-- CMPI (R97). Compares a register with an immediate and writes a predicate. -/
  | cmpi (pd : PReg) (a : Reg) (c : Cond) (ty : Ity) (imm : Imm 8) (g : PReg)
  /-- SEL (R99). Selects a or b by a predicate, taking only the selected poison. -/
  | sel (d : Reg) (a : Reg) (b : Reg) (p : PReg) (g : PReg)
  /-- PAND (R100). Writes pa and pb to pd. -/
  | pand (pd : PReg) (pa : PReg) (pb : PReg) (g : PReg)
  /-- POR (R100). Writes pa or pb to pd. -/
  | por (pd : PReg) (pa : PReg) (pb : PReg) (g : PReg)
  /-- PXOR (R100). Writes pa xor pb to pd. -/
  | pxor (pd : PReg) (pa : PReg) (pb : PReg) (g : PReg)
  /-- PNOT (R100). Writes not pa to pd. -/
  | pnot (pd : PReg) (pa : PReg) (g : PReg)
  /-- FADD (R102). Scalar float addition rounded once. -/
  | fadd (d : Reg) (a : Reg) (b : Reg) (rm : Rm) (ty : Fty) (g : PReg)
  /-- FSUB (R102). Scalar float subtraction rounded once. -/
  | fsub (d : Reg) (a : Reg) (b : Reg) (rm : Rm) (ty : Fty) (g : PReg)
  /-- FMUL (R102). Scalar float multiplication rounded once. -/
  | fmul (d : Reg) (a : Reg) (b : Reg) (rm : Rm) (ty : Fty) (g : PReg)
  /-- FMA (R102). Fused a × b + gd with one rounding. -/
  | fma (d : Reg) (a : Reg) (b : Reg) (rm : Rm) (ty : Fty) (g : PReg)
  /-- FDIV (R102). Scalar float division rounded once. -/
  | fdiv (d : Reg) (a : Reg) (b : Reg) (rm : Rm) (ty : Fty) (g : PReg)
  /-- FSQRT (R102). Scalar float square root rounded once. -/
  | fsqrt (d : Reg) (a : Reg) (rm : Rm) (ty : Fty) (g : PReg)
  /-- FMIN (R103). Smaller float operand, canonical NaN on any NaN. -/
  | fmin (d : Reg) (a : Reg) (b : Reg) (ty : Fty) (g : PReg)
  /-- FMAX (R103). Larger float operand, canonical NaN on any NaN. -/
  | fmax (d : Reg) (a : Reg) (b : Reg) (ty : Fty) (g : PReg)
  /-- FCLASS (R104). Writes one class bit of a float. -/
  | fclass (d : Reg) (a : Reg) (ty : Fty) (g : PReg)
  /-- FCMP (R105). Float comparison writing a predicate. -/
  | fcmp (pd : PReg) (a : Reg) (c : Cond) (ty : Fty) (b : Reg) (g : PReg)
  /-- FCVT (R106). Converts between any two element types. -/
  | fcvt (d : Reg) (a : Reg) (dst : Ty) (src : Ty) (rm : Rm) (g : PReg)
  /-- BR (R107). PC-relative branch taken when the guard is true. -/
  | br (off : Imm 22) (g : PReg)
  /-- JMP (R107). Jump replacing bits 24:3 of the bundle address. -/
  | jmp (off : Imm 22) (g : PReg)
  /-- CALL (R107). PC-relative call writing the link to g28. -/
  | call (off : Imm 22) (g : PReg)
  /-- LOOP (R108). Decrements ga and branches while it is nonzero. -/
  | loop (a : Reg) (off : Imm 17) (g : PReg)
  /-- SIG (R114). Checks the block-signature hash and opens a new block. -/
  | sig (sg : BitVec 22) (g : PReg)
  /-- JMPR (R109). Jumps to the address in ga. -/
  | jmpr (a : Reg) (g : PReg)
  /-- CALLR (R109). Calls the address in ga, writing g28. -/
  | callr (a : Reg) (g : PReg)
  /-- RET (R109). Returns to the address in g28. -/
  | ret (g : PReg)
  /-- EXIT (R111). Ends the thread, freeing its slot and grant. -/
  | exit (g : PReg)
  /-- CRR (R116). Reads a control register into gd. -/
  | crr (d : Reg) (c : Creg) (g : PReg)
  /-- CRW (R116). Writes a control register field by field. -/
  | crw (c : Creg) (a : Reg) (g : PReg)
  /-- CRX (R116). Reads and writes a control register in one action. -/
  | crx (d : Reg) (c : Creg) (a : Reg) (g : PReg)
  /-- LD (R177). Loads 1 to 8 bytes, relaxed loads making gd absent until the reply. -/
  | ld (d : Reg) (a : Reg) (ty : Ity) (ord : MemOrd) (sc : Scope) (off : Imm 3) (g : PReg)
  /-- ST (R177). Stores 1 to 8 bytes, relaxed stores being posted. -/
  | st (d : Reg) (a : Reg) (ty : Ity) (ord : MemOrd) (sc : Scope) (off : Imm 3) (g : PReg)
  /-- LDW (R180). Waits for the word to be full and reads it. -/
  | ldw (d : Reg) (a : Reg) (ty : Ity) (ord : MemOrd) (sc : Scope) (off : Imm 3) (g : PReg)
  /-- LDC (R180). Consuming load: waits for full, reads and sets empty. -/
  | ldc (d : Reg) (a : Reg) (ty : Ity) (ord : MemOrd) (sc : Scope) (off : Imm 3) (g : PReg)
  /-- STF (R180). Filling store: waits for empty, writes and sets full. -/
  | stf (d : Reg) (a : Reg) (ty : Ity) (ord : MemOrd) (sc : Scope) (off : Imm 3) (g : PReg)
  /-- STE (R180). Waits for full and overwrites the word. -/
  | ste (d : Reg) (a : Reg) (ty : Ity) (ord : MemOrd) (sc : Scope) (off : Imm 3) (g : PReg)
  /-- FEST (R181). Sets the full/empty state and removes HOLD without parking. -/
  | fest (full : Bool) (a : Reg) (ty : Ity) (ord : MemOrd) (sc : Scope) (off : Imm 3) (g : PReg)
  /-- FEQ (R182). Writes the word's full/empty bit to a predicate. -/
  | feq (pd : PReg) (a : Reg) (ty : Ity) (ord : MemOrd) (sc : Scope) (off : Imm 3) (g : PReg)
  /-- LRW (R183). Consuming load that records the issuer as HOLD. -/
  | lrw (d : Reg) (a : Reg) (ty : Ity) (ord : MemOrd) (sc : Scope) (off : Imm 3) (g : PReg)
  /-- SCH (R184). Holder's filling store, reporting success or failure in gd. -/
  | sch (d : Reg) (a : Reg) (ty : Ity) (ord : MemOrd) (sc : Scope) (off : Imm 3) (g : PReg)
  /-- RCAN (R185). Releases the issuer's reservation without storing. -/
  | rcan (a : Reg) (ty : Ity) (ord : MemOrd) (sc : Scope) (off : Imm 3) (g : PReg)
  /-- FENCE (R187). Drains posted stores of its scope and discards prefetched bundles. -/
  | fence (sc : Scope) (g : PReg)
  /-- PUT (R188). Sends a value to a register of the named thread. -/
  | put (a : Reg) (idx : Reg) (b : Reg) (g : PReg)
  /-- ARM (R190). Makes gd absent so its next read waits for a PUT. -/
  | arm (d : Reg) (g : PReg)
  /-- CPY (R194). Drains and kicks a byte copy to the cluster copy engine. -/
  | cpy (mode : CopyMode) (d : Reg) (a : Reg) (b : Reg) (tag : Fin 64) (g : PReg)
  /-- CPYS (R195). Kicks a copy of scaled chunks into a scaled segment. -/
  | cpys (mode : CopyMode) (d : Reg) (a : Reg) (b : Reg) (tag : Fin 64) (g : PReg)
  /-- CPYD (R196). Kicks a copy dealt to the cluster TCMs under DPAT. -/
  | cpyd (mode : CopyMode) (d : Reg) (a : Reg) (b : Reg) (tag : Fin 64) (g : PReg)
  /-- TWALL (R199). Waits until every masked tag bit is set. -/
  | twall (a : Reg) (g : PReg)
  /-- TWANY (R199). Waits until any masked tag bit is set. -/
  | twany (a : Reg) (g : PReg)
  /-- TFIRST (R199). Waits as TWANY and writes the lowest set masked tag index. -/
  | tfirst (d : Reg) (a : Reg) (g : PReg)
  /-- TCLR (R199). Clears the masked bits of TAGS. -/
  | tclr (a : Reg) (g : PReg)
  /-- SPAWN (R270). Sends a new thread to a target core through the spawn buffer. -/
  | spawn (a : Reg) (b : Reg) (g : PReg)
  /-- MIG (R270). Moves the thread with registers and a TCM block to a target core. -/
  | mig (a : Reg) (b : Reg) (g : PReg)
  /-- LAUNCH (R271). Reads a launch record and sends it to the launch unit. -/
  | launch (a : Reg) (g : PReg)
  /-- BAR (R263). Drains, applies the lane rule and arrives at a barrier episode. -/
  | bar (sc : Scope) (a : Reg) (g : PReg)
  /-- WLPUSH (R273). Pushes a nonzero entry onto the core's work list. -/
  | wlpush (a : Reg) (g : PReg)
  /-- WLPOP (R273). Pops the top work-list entry, waiting while the list is empty. -/
  | wlpop (d : Reg) (g : PReg)
  /-- NRED (R274). Injects a value-and-index reduction packet. -/
  | nred (sc : Scope) (a : Reg) (b : Reg) (g : PReg)
  /-- RREC (R313). Reads one word of a batch slot's request record. -/
  | rrec (d : Reg) (a : Reg) (g : PReg)
  /-- EMIT_TOKEN (R314). Hands a drawn token of a row to the Chandler. -/
  | emitToken (a : Reg) (b : Reg) (g : PReg)
  /-- EMIT_LOGP (R314). Hands a log-probability of a row position to the Chandler. -/
  | emitLogp (a : Reg) (b : Reg) (g : PReg)
  /-- EMIT_FAULT (R314). Reports a per-request fault code for a row. -/
  | emitFault (a : Reg) (b : Reg) (g : PReg)
  /-- STEPEND (R315). Drains and reports one end of the step to the Chandler. -/
  | stepend (g : PReg)
  /-- TSTATE (R419). Reads one word of a thread's or engine's state. -/
  | tstate (d : Reg) (a : Reg) (b : Reg) (g : PReg)
  /-- TSET_STOP (R420). Stops the target thread or sets its pending stop. -/
  | tsetStop (d : Reg) (a : Reg) (b : Reg) (g : PReg)
  /-- TSET_RUN (R420). Restarts a stopped thread or clears its pending stop. -/
  | tsetRun (d : Reg) (a : Reg) (b : Reg) (g : PReg)
  /-- TSET_SETPC (R420). Sets the PC of a stopped thread. -/
  | tsetSetpc (d : Reg) (a : Reg) (b : Reg) (g : PReg)
  /-- TRESUME_RETRY (R421). Retries the faulting access or resumes a held engine command. -/
  | tresumeRetry (d : Reg) (a : Reg) (b : Reg) (g : PReg)
  /-- TRESUME_SKIP (R421). Skips the trapped bundle or aborts a held engine command. -/
  | tresumeSkip (d : Reg) (a : Reg) (b : Reg) (g : PReg)
  /-- TRESUME_GO (R421). Resumes the trapped thread at a given address. -/
  | tresumeGo (d : Reg) (a : Reg) (b : Reg) (g : PReg)
  /-- TRESUME_STOP (R421). Leaves the trapped thread STOPPED. -/
  | tresumeStop (d : Reg) (a : Reg) (b : Reg) (g : PReg)
  /-- TKILL (R422). Ends the target thread as EXIT does. -/
  | tkill (d : Reg) (a : Reg) (b : Reg) (g : PReg)
  /-- TKILL_LAUNCH (R422). Kills the target's whole launch, aborting its commands. -/
  | tkillLaunch (d : Reg) (a : Reg) (b : Reg) (g : PReg)
  /-- FLTRD (R423). Reads a word of the thread's message buffer. -/
  | fltrd (d : Reg) (a : Reg) (g : PReg)
  /-- SNUFF_DEFINE (R424). Writes a snuff-region entry. -/
  | snuffDefine (d : Reg) (a : Reg) (b : Reg) (g : PReg)
  /-- SNUFF_FENCE (R413). Fences a snuff region, completing when the fence is done. -/
  | snuffFence (d : Reg) (a : Reg) (b : Reg) (g : PReg)
  /-- SNUFF_RELEASE (R424). Opens a fenced region, returning its clusters as free. -/
  | snuffRelease (d : Reg) (a : Reg) (b : Reg) (g : PReg)
  /-- SNUFF_READ (R424). Reads a snuff-region entry with its FENCED bit. -/
  | snuffRead (d : Reg) (a : Reg) (b : Reg) (g : PReg)
  /-- ERRLOG (R425). Reads one word of a device error-log entry. -/
  | errlog (d : Reg) (a : Reg) (g : PReg)
  /-- TLBFILL (R426). Inserts one translation into the cluster TLB. -/
  | tlbfill (a : Reg) (b : Reg) (g : PReg)
  /-- TLBINV_PAGE (R427). Removes translations covering one page of an ASN in reach. -/
  | tlbinvPage (a : Reg) (b : Reg) (g : PReg)
  /-- TLBINV_ASN (R427). Removes every translation of one ASN in reach. -/
  | tlbinvAsn (a : Reg) (b : Reg) (g : PReg)
  /-- TLBINV_ALL (R427). Removes every translation in reach. -/
  | tlbinvAll (a : Reg) (b : Reg) (g : PReg)
  /-- MBXWAIT (R423). Waits for and removes the oldest matching mailbox record. -/
  | mbxwait (d : Reg) (a : Reg) (g : PReg)
  /-- PREEMPT (R430). Saves a running thread's context and holds its slot. -/
  | preempt (d : Reg) (a : Reg) (b : Reg) (g : PReg)
  /-- SAVECTX (R430). Saves a stopped thread's context. -/
  | savectx (d : Reg) (a : Reg) (b : Reg) (g : PReg)
  /-- RESTCTX (R431). Restores a held thread from its save area. -/
  | restctx (d : Reg) (a : Reg) (g : PReg)
  /-- ENBUD (R428). Sets REFILL on cores in reach, waiting until applied. -/
  | enbud (a : Reg) (b : Reg) (g : PReg)
  -- V-slot instructions (R81 to R83)
  /-- VADD (R125). Element-wise addition. -/
  | vadd (vd : VReg) (va : VReg) (vb : VReg) (ty : Ty) (rm : Rm)
  /-- VSUB (R125). Element-wise subtraction. -/
  | vsub (vd : VReg) (va : VReg) (vb : VReg) (ty : Ty) (rm : Rm)
  /-- VMUL (R125). Element-wise multiplication, log-domain for LN types. -/
  | vmul (vd : VReg) (va : VReg) (vb : VReg) (ty : Ty) (rm : Rm)
  /-- VMIN (R125). Element-wise minimum. -/
  | vmin (vd : VReg) (va : VReg) (vb : VReg) (ty : Ty)
  /-- VMAX (R125). Element-wise maximum. -/
  | vmax (vd : VReg) (va : VReg) (vb : VReg) (ty : Ty)
  /-- VABS (R125). Element-wise absolute value. -/
  | vabs (vd : VReg) (va : VReg) (ty : Ty)
  /-- VNEG (R125). Element-wise negation. -/
  | vneg (vd : VReg) (va : VReg) (ty : Ty)
  /-- VFMA_THREE_REGISTER (R126). Fused multiply-add into vd's old element. -/
  | vfma3 (vd : VReg) (va : VReg) (vb : VReg) (ty : Ty) (rm : Rm)
  /-- VDIV (R126). Long-latency element-wise division. -/
  | vdiv (vd : VReg) (va : VReg) (vb : VReg) (ty : Ty) (rm : Rm)
  /-- VSQRT (R126). Long-latency element-wise square root. -/
  | vsqrt (vd : VReg) (va : VReg) (ty : Ty) (rm : Rm)
  /-- VRCP (R126). Long-latency correctly rounded reciprocal. -/
  | vrcp (vd : VReg) (va : VReg) (ty : Ty) (rm : Rm)
  /-- VRSQ (R126). Long-latency reciprocal square root. -/
  | vrsq (vd : VReg) (va : VReg) (ty : Ty) (rm : Rm)
  /-- VEXP2 (R127). Correctly rounded 2^a per element. -/
  | vexp2 (vd : VReg) (va : VReg) (ty : Ty) (rm : Rm)
  /-- VLOG2 (R127). Correctly rounded log2 per element. -/
  | vlog2 (vd : VReg) (va : VReg) (ty : Ty) (rm : Rm)
  /-- VTANH (R127). Correctly rounded tanh per element. -/
  | vtanh (vd : VReg) (va : VReg) (ty : Ty) (rm : Rm)
  /-- VAND (R125). Element-wise bitwise and. -/
  | vand (vd : VReg) (va : VReg) (vb : VReg) (ty : Ty)
  /-- VOR (R125). Element-wise bitwise or. -/
  | vor (vd : VReg) (va : VReg) (vb : VReg) (ty : Ty)
  /-- VXOR (R125). Element-wise bitwise exclusive or. -/
  | vxor (vd : VReg) (va : VReg) (vb : VReg) (ty : Ty)
  /-- VSHL (R125). Element-wise shift left. -/
  | vshl (vd : VReg) (va : VReg) (vb : VReg) (ty : Ty)
  /-- VSHR (R125). Element-wise logical shift right. -/
  | vshr (vd : VReg) (va : VReg) (vb : VReg) (ty : Ty)
  /-- VSHRA (R125). Element-wise arithmetic shift right. -/
  | vshra (vd : VReg) (va : VReg) (vb : VReg) (ty : Ty)
  /-- VPERM (R131). Permutes elements of va by indices in vb. -/
  | vperm (vd : VReg) (va : VReg) (vb : VReg) (ty : Ty)
  /-- VREDADD (R134). Pairwise-tree sum of the active elements. -/
  | vredadd (vd : VReg) (va : VReg) (ty : Ty) (rm : Rm)
  /-- VREDMAX (R134). Pairwise-tree maximum of the active elements. -/
  | vredmax (vd : VReg) (va : VReg) (ty : Ty)
  /-- VARGMAX (R134). Pairwise-tree maximum with its index. -/
  | vargmax (vd : VReg) (va : VReg) (ty : Ty)
  /-- VCMP (R129). Writes an all-ones or zero mask per element. -/
  | vcmp (vd : VReg) (va : VReg) (vb : VReg) (ty : Ty) (c : Cond)
  /-- VFMA_FOUR_REGISTER (R126). Fused a × b + c per element with one rounding. -/
  | vfma4 (vd : VReg) (va : VReg) (vb : VReg) (vc : VReg) (ty : Ty) (rm : Rm)
  /-- VSEL (R130). Selects a or b per element by a mask. -/
  | vsel (vd : VReg) (va : VReg) (vb : VReg) (vc : VReg) (ty : Ty)
  /-- VCVT (R133). Converts elements between two types. -/
  | vcvt (vd : VReg) (va : VReg) (dst : Ty) (src : Ty) (rm : Rm)
  /-- VBCAST (R132). Broadcasts a general register into every element. -/
  | vbcast (v : VReg) (g : Reg) (ty : Ty)
  /-- VEXT (R132). Extracts one element into a general register. -/
  | vext (g : Reg) (v : VReg) (ty : Ty) (idx : BitVec 8)
  /-- VLD (R135). Loads consecutive elements, detaching until the reply. -/
  | vld (v : VReg) (g : Reg) (ty : Ty) (imm : BitVec 8)
  /-- VST (R135). Stores consecutive elements, detaching until the reply. -/
  | vst (v : VReg) (g : Reg) (ty : Ty) (imm : BitVec 8)
  /-- VGATHER (R136). Loads elements at offsets given by a vector. -/
  | vgather (v : VReg) (g : Reg) (x : VReg) (ty : Ty) (imm : BitVec 8)
  /-- VSCATTER (R136). Stores elements at offsets given by a vector. -/
  | vscatter (v : VReg) (g : Reg) (x : VReg) (ty : Ty) (imm : BitVec 8)
  /-- VCLAIM (R36). Releases the grant and claims up to n lanes from the pool. -/
  | vclaim (g : Reg) (imm : BitVec 7)
  /-- REP (R41). Empties the repetition buffer and opens capture. -/
  | rep (count : BitVec 13) (sd : Fin 8) (sa : Fin 8) (sb : Fin 8)
  /-- MMA (R240). Sends a matrix multiply-accumulate command into a tile. -/
  | mma (t : Tile) (a : Reg) (b : Reg) (c : Reg) (f : Pairing)
  /-- MMAZ (R241). Sends a command clearing a tile and setting REF. -/
  | mmaz (t : Tile) (a : Reg)
  /-- MCLR (R241). Sends a command clearing a tile, keeping REF. -/
  | mclr (t : Tile)
  /-- MRD (R243). Reads one accumulator element, retrying while the tile is owned. -/
  | mrd (t : Tile) (a : Reg) (b : Reg) (f : Target)
  /-- MST (R244). Sends a command storing a tile window to memory. -/
  | mst (t : Tile) (a : Reg) (b : Reg) (f : Target)
  /-- MFMT (R242). Sends a command setting a tile's TSHAPE. -/
  | mfmt (t : Tile) (a : Reg)
  /-- MSCALE (R242). Sends a command setting a tile's uniform scales. -/
  | mscale (t : Tile) (a : Reg) (b : Reg)
  /-- MCAP (R245). Writes a matrix capability for a target cluster. -/
  | mcap (a : Reg) (b : Reg) (c : Reg)
  /-- MSEND (R246). Sends a command record to another cluster's unit under a capability. -/
  | msend (a : Reg) (b : Reg)
  /-- MWAIT (R247). Waits until the masked tiles have no owners. -/
  | mwait (a : Reg)
  /-- RMAP (R242). Sends a command loading a tile's row map. -/
  | rmap (t : Tile) (a : Reg)
  -- Fendouk words (R89)
  /-- CNEW (R351). Binds a context register to a fresh request record. -/
  | cnew (c : CReg)
  /-- CBIND (R352). Binds a context register to an existing unheld record. -/
  | cbind (c : CReg) (h : HReg)
  /-- CFORK (R353). Binds a copy-on-write fork of a record. -/
  | cfork (cd : CReg) (cs : CReg)
  /-- CFREE (R354). Frees a context register's record and unbinds it. -/
  | cfree (c : CReg)
  /-- CSET (R355). Writes one field of a request record. -/
  | cset (c : CReg) (h : HReg) (f : BitVec 8)
  /-- CGET (R355). Reads one field of a request record. -/
  | cget (h : HReg) (c : CReg) (f : BitVec 8)
  /-- CWAIT (R350). Holds later words until earlier words naming c complete. -/
  | cwait (c : CReg)
  /-- TRUNC (R356). Shortens a request to n tokens. -/
  | trunc (c : CReg) (h : HReg)
  /-- APPEND (R360). Adds tokens to a request, computed over later steps. -/
  | append (c : CReg) (ha : HReg) (hn : HReg)
  /-- GEN (R361). Draws up to n tokens until a stop condition. -/
  | gen (c : CReg) (hn : HReg)
  /-- SCORE (R362). Appends tokens and sums their log-probabilities. -/
  | score (c : CReg) (ha : HReg) (hn : HReg) (hd : HReg)
  /-- CHOOSE (R363). Scores candidate continuations and keeps the best. -/
  | choose (c : CReg) (ha : HReg) (hn : HReg) (hd : HReg)
  /-- BEAM (R364). Keeps K beams for n steps. -/
  | beam (c : CReg) (hk : HReg) (hn : HReg)
  /-- SPEC (R365). Verifies a speculative draft tree. -/
  | spec (c : CReg) (ha : HReg) (hn : HReg)
  /-- POST (R349). Fills a word with the request's TLEN. -/
  | post (ha : HReg) (c : CReg)
  /-- RECV (R349). Consumes a word into an h register. -/
  | recv (hd : HReg) (ha : HReg)
  /-- HMOV (R346). Moves a register or immediate into hd. -/
  | hmov (hd : HReg) (src : HSrc)
  /-- HADD (R346). Adds into hd. -/
  | hadd (hd : HReg) (ha : HReg) (src : HSrc)
  /-- HSUB (R346). Subtracts into hd. -/
  | hsub (hd : HReg) (ha : HReg) (src : HSrc)
  /-- HCMP (R346). Compares as s64 and writes 1 or 0. -/
  | hcmp (c : Cond) (hd : HReg) (ha : HReg) (src : HSrc)
  /-- HBR (R347). Branches when ha is nonzero. -/
  | hbr (ha : HReg) (off : BitVec 32)
  /-- HJMP (R347). Always branches. -/
  | hjmp (off : BitVec 32)
  /-- HLD (R348). Loads a word into hd. -/
  | hld (hd : HReg) (ha : HReg) (off : BitVec 32)
  /-- HST (R348). Stores hs to a word. -/
  | hst (hs : HReg) (ha : HReg) (off : BitVec 32)
  -- Indivisible steps of the module (file 95)
  /-- REPLY_ARRIVAL (R19). A reply or release event arrives and the thread rejoins at its next turn. -/
  | replyArrival (id : Nat)
  /-- ENERGY_REFILL (R39). Every 1,024 cycles BALANCE is set to REFILL and starved slots are pre-paid. -/
  | energyRefill (core : Nat)
  /-- BANK_ACCESS_ARRIVAL (R148). An access arrives at its home bank and performs or parks. -/
  | bankAccessArrival (id : Nat)
  /-- WAIT_BUDGET_EXHAUSTED (R156). A re-park finds LEFT at 0 and raises a wait-budget fault. -/
  | waitBudgetExhausted (id : Nat)
  /-- PAGE_WALK_COMPLETE (R161). The walker finishes a walk, filling TLBs or passing a fault. -/
  | pageWalkComplete (core : Nat) (id : Nat)
  /-- POSTED_STORE_REFUSED (R456). A refusal of a posted store returns and an asynchronous record is sent. -/
  | postedStoreRefused (id : Nat)
  /-- PUT_ARRIVAL (R188). A PUT arrives at the target core and is applied or dropped. -/
  | putArrival (id : Nat)
  /-- COPY_ACCEPT (R193). The copy engine consumes a kick, checks and accepts or refuses the command. -/
  | copyAccept (id : Nat)
  /-- COPY_START (R193). The engine starts its next accepted command after the previous one ends. -/
  | copyStart (cluster : Nat)
  /-- COPY_COMPLETE (R198). A copy ends, setting its tag and filling its mailbox. -/
  | copyComplete (cluster : Nat)
  /-- SCALED_CHUNK_ARRIVAL (R69). A scaled chunk and scale packet arrive and are paired or refused. -/
  | scaledChunkArrival (cluster : Nat) (pseq : BitVec 16)
  /-- SEGFMT_WRITE (R66). A store to SEGFMTn is refused or waits for in-flight commands. -/
  | segfmtWrite (id : Nat)
  /-- SEGFMT_TAKES_EFFECT (R66). A waiting SEGFMTn store takes effect once no command names the segment. -/
  | segfmtTakesEffect (cluster : Nat) (seg : Nat)
  /-- VIGCTL_WRITE (R154). A supervisor write sets the vigil area and threads its free list. -/
  | vigctlWrite (id : Nat)
  /-- VIGSTAT_PEAK_WRITE (R154). Writing a 1 bit of PEAK sets it to USED. -/
  | vigstatPeakWrite (id : Nat)
  /-- REGISTER_WRITE (R7). A write to a register without behaviour of its own updates its RW fields. -/
  | registerWrite (off : Nat) (value : Word)
  /-- MATRIX_COMMAND_ACCEPT (R227). The matrix unit accepts or refuses a command and raises OWNERS. -/
  | matrixCommandAccept (id : Nat)
  /-- MATRIX_COMMAND_START (R228). The unit starts the next command, making its start checks. -/
  | matrixCommandStart (cluster : Nat)
  /-- OPERANDS_CONSUMED (R238). The last operand flit is fetched and the operands-consumed tag set. -/
  | operandsConsumed (cluster : Nat)
  /-- MATRIX_COMMAND_COMPLETE (R227). A command completes, lowering OWNERS and setting its completion tag. -/
  | matrixCommandComplete (cluster : Nat)
  /-- MSEND_ARRIVAL (R246). A sent command arrives and its capability is checked. -/
  | msendArrival (id : Nat)
  /-- LAUNCH_RECORD_ARRIVAL (R271). The launch unit checks a record and queues or refuses it. -/
  | launchRecordArrival (id : Nat)
  /-- SHAPE_BROADCAST_COMPLETE (R254). The shape-record broadcast ends and the cluster's threads start. -/
  | shapeBroadcastComplete (cluster : Nat)
  /-- LAUNCH_END (R255). A launch meets its end conditions, releases clusters and fills CWORD. -/
  | launchEnd (lid : Nat)
  /-- SPAWN_MESSAGE_ARRIVAL (R261). A SPAWN or MIG message reaches its target and is accepted or refused. -/
  | spawnMessageArrival (id : Nat)
  /-- SLOT_FREE_NOTICE (R261). A freed slot is reserved and its notice makes the sender resend. -/
  | slotFreeNotice (id : Nat)
  /-- NRED_PACKET_ARRIVAL (R268). A reduction packet merges into an open entry at the owner's core. -/
  | nredPacketArrival (id : Nat)
  /-- MAILBOX_RECORD_ARRIVAL (R394). A trap, fault, notice or flare record enters a core mailbox. -/
  | mailboxRecordArrival (id : Nat)
  /-- CHUNK_HOP_CHECK (R406). A hop re-forms a chunk's wick and compares it. -/
  | chunkHopCheck (hop : Nat) (loc : BitVec 32) (chunk : Nat) (result : CheckResult)
  /-- AUTO_FENCE (R402). A poison trap in an AUTO region fences that region. -/
  | autoFence (region : Nat)
  /-- STEP_FORMATION (R307). The batch former admits ready requests, writes the step area and launches the step. -/
  | stepFormation (bind : Nat)
  /-- STEP_COMMIT (R316). The step commits row outputs into request records. -/
  | stepCommit (bind : Nat)
  /-- FLARE_REEXECUTION (R408). The Chandler answers a flare with a partial re-execution of the step's rows. -/
  | flareReexecution (bind : Nat)
  /-- PAGE_MOVE (R332). The page engine moves a block between HBM4E and LPDDR6. -/
  | pageMove (ridx : Nat) (blk : Nat) (lpddr : Bool)
  /-- PROMOTION_COMPLETE (R334). A suspended request's last promotion completes and it becomes ready. -/
  | promotionComplete (ridx : Nat)
  /-- RESIDENCY_HOLD_EXPIRY (R334). A residency hold ends after two further step deadlines. -/
  | residencyHoldExpiry (bind : Nat)
  /-- KV_FETCH (R328). The key-value port decodes a block into district SRAM. -/
  | kvFetch (district : Nat)
  /-- KV_STORE (R328). The key-value port codes a block out, copying a shared one. -/
  | kvStore (district : Nat)
  /-- KV_COMMAND_COMPLETE (R327). The port fills its completion word with a status. -/
  | kvCommandComplete (district : Nat)
  /-- HOST_STORE_COMPLETION (R376). The host's completion performs a device store to host memory. -/
  | hostStoreCompletion (id : Nat)
  /-- BEACON_LINK_TRAINED (R210). A Beacon port trains and its LINKUP bit sets. -/
  | beaconLinkTrained (port : Fin 8)
  /-- PEER_ACCESS_ARRIVAL (R384). A remote access is translated in the peer window and performed. -/
  | peerAccessArrival (port : Fin 8) (req : PeerReq)
  /-- PEER_ACCESS_REFUSED (R386). A receiver's refusal returns and the sender raises cause 0x36. -/
  | peerAccessRefused (id : Nat) (reason : Fin 8) (cause : BitVec 8)
  /-- LINK_DOWN (R387). A Beacon link falls, failing its outstanding and posted accesses. -/
  | linkDown (port : Fin 8)
  /-- SYSTEM_REQUEST_ARRIVAL (R417). A system request from TSTATE, TSET, TRESUME, TKILL, PREEMPT or SAVECTX reaches the target core, is checked by generation, and is acted on or answered stale with a notice of kind 2. -/
  | systemRequestArrival (id : Nat)
  /-- TKILL_OF_THE_PROGRAM (R367). An agent program is killed from outside, acting as a program fault with STATUS 2 and no cause. -/
  | tkillOfTheProgram (prog : Nat)
  -- Instructions and steps without operands
  /-- NOP_V_SLOT (R81). V-slot NOP does nothing. -/
  | nopV
  /-- VYIELD (R124). Releases the whole lane grant. -/
  | vyield
  /-- REPGO (R43). Starts replay of the captured instructions. -/
  | repgo
  /-- REPEND (R41). Closes capture. -/
  | repend
  /-- HALT (R350). Ends the agent program after every earlier word completes. -/
  | halt
  /-- YIELD (R350). Holds later words until every earlier word completes. -/
  | yield
  /-- ILLEGAL_WORD_TURN (R90). An illegal Fendouk word takes its turn and faults the program. -/
  | illegalWordTurn
  /-- REPLAY_ISSUE (R43). A captured instruction is reissued with rewritten register fields. -/
  | replayIssue
  /-- REPLAY_COMPLETE (R139). The last replay iteration ends and ACT clears. -/
  | replayComplete
  /-- LAUNCH_PLACEMENT (R252). The launch unit places its class's head launch on free clusters. -/
  | launchPlacement
  /-- SPAWN_RESEND_TICK (R261). At each multiple of 4,096 cycles senders refused with a full list resend. -/
  | spawnResendTick
  /-- LOAD_LEVELLING (R266). Every 4,096 cycles work-list entries move to less loaded cores. -/
  | loadLevelling
  /-- STACK_GROWTH (R284). Service firmware maps a zeroed page for a fault in a growing stack. -/
  | stackGrowth
  /-- FMBX_RECORD_OFFER (R400). The launch unit offers one record to a launch's fault mailbox. -/
  | fmbxRecordOffer
  /-- AGENT_ADMISSION (R298). The Chandler consumes an admission word and admits an agent program. -/
  | agentAdmission
  /-- EVICTION (R318). The page engine drops a victim's unshared key-value pages. -/
  | eviction
  /-- HOST_PLAIN_READ (R379). A host read through the plain view acts as LD. -/
  | hostPlainRead
  /-- HOST_PLAIN_WRITE (R379). A host write through the plain view acts as ST. -/
  | hostPlainWrite
  /-- HOST_FILL_READ (R379). A host read through the fill view acts as LD. -/
  | hostFillRead
  /-- HOST_FILL_WRITE (R379). A host write through the fill view acts as STF.rel, parking if full. -/
  | hostFillWrite
  /-- HOST_STATE_READ (R379). A host read returns F, X, HOLD and waiter bits. -/
  | hostStateRead
  /-- HOST_STATE_WRITE_EMPTY (R379). A state-view write of 1 acts as FEST 0. -/
  | hostStateWriteEmpty
  /-- HOST_STATE_WRITE_FULL (R379). A state-view write of 2 acts as FEST 1. -/
  | hostStateWriteFull
  /-- HOST_STATE_WRITE_NONE (R379). A state-view write of 0 does nothing. -/
  | hostStateWriteNone
  /-- HOST_SNOOP (R376). A host snoop is answered with a miss. -/
  | hostSnoop
  /-- HOST_LINK_TRAINED (R210). The host port trains and HOSTAT becomes 0x08. -/
  | hostLinkTrained
  /-- POWER_GLOW (R441). The host sets GLOW through the management mailbox. -/
  | powerGlow
  /-- POWER_DIM (R441). The host sets DIM with a clock divider and refill. -/
  | powerDim
  /-- POWER_EMBER (R441). The host stops the clocks if the device is quiet. -/
  | powerEmber
  /-- POWER_DARK (R441). The host powers the module off. -/
  | powerDark
  /-- CHANDLER_CONFIG (R296). Hands the Chandler its configuration block. -/
  | chandlerConfig
  /-- CHANDLER_PAUSE_ADMISSION (R443). Pauses the Chandler's admission. -/
  | chandlerPauseAdmission
  /-- CHANDLER_RESUME_ADMISSION (R443). Resumes the Chandler's admission. -/
  | chandlerResumeAdmission
  /-- LOGREAD (R443). Returns error-log entries. -/
  | logread
  /-- REPAIRS (R443). Returns repair-table and withheld-cluster counts or entries. -/
  | repairs
  /-- ATTEST (R439). Returns a quote over the measurements and a nonce. -/
  | attest
  /-- FWSTAGE (R443). Verifies and writes an image set to the inactive flash slot. -/
  | fwstage
  /-- IDENTITY (R443). Returns the serial and identity public key. -/
  | identity
  /-- MODULE_RESET (R437). The security processor verifies and starts every firmware stage. -/
  | moduleReset
  /-- HOST_PORT_LINK_DOWN (R210). The host port's link falls and HOSTAT reads 0 again until it retrains. -/
  | hostPortLinkDown
  /-- UNKNOWN_MGMT_OP (R442). A MGMTCMD write with GO and an OP that no function uses completes with RC 1. -/
  | unknownMgmtOp
  deriving DecidableEq, Repr

end Sys2Proof
end

