-- ==== Sys2Proof/Decode.lean ====
section
/-! DEFINITION. The decoder of Dzipor bundles and Fendouk words (R70 to R90, R341), total on any bits and naming the
cause of every refusal, and after it the encoder written from the same tables. -/

namespace Sys2Proof

/-! ## Fields and codes -/

/-- The `n` bits of `w` from bit `lo` up, as a number (R3: `w[lo+n-1:lo]`). -/
def bits (w lo n : Nat) : Nat := w / 2 ^ lo % 2 ^ n

/-- A 5-bit register field (R71). -/
def regAt (w lo : Nat) : Fin 32 := Fin.ofNat 32 (w / 2 ^ lo)
/-- A 3-bit field (R71). -/
def oct (w lo : Nat) : Fin 8 := Fin.ofNat 8 (w / 2 ^ lo)
/-- A 2-bit tile field (R74). -/
def tileAt (w lo : Nat) : Fin 4 := Fin.ofNat 4 (w / 2 ^ lo)
/-- A 4-bit register field of a Fendouk word (R88). -/
def hexAt (w lo : Nat) : Fin 16 := Fin.ofNat 16 (w / 2 ^ lo)
/-- A reserved field holds a nonzero value (R8, R84). -/
def rsv (w lo n : Nat) : Bool := bits w lo n != 0

/-- The causes of R85, in the order of their codes. -/
inductive Cause where
  | unassignedA | unassignedV | unassignedFn | reservedField | typeCode | rounding | scopeCode | orderCode
  | condition | range | extension | twoDestinations | repetition | notHeld
  deriving DecidableEq, Repr

/-- The cause code of R85. -/
def Cause.code : Cause → Nat
  | .unassignedA => 0x01 | .unassignedV => 0x02 | .unassignedFn => 0x03 | .reservedField => 0x04
  | .typeCode => 0x05 | .rounding => 0x06 | .scopeCode => 0x07 | .orderCode => 0x08 | .condition => 0x09
  | .range => 0x0A | .extension => 0x0B | .twoDestinations => 0x0C | .repetition => 0x0D | .notHeld => 0x0E

/-- The integer type of a 3-bit code (R75); every code is legal. -/
def Ity.ofCode : Nat → Ity
  | 0 => .n8 | 1 => .n16 | 2 => .n32 | 3 => .n64 | 4 => .s8 | 5 => .s16 | 6 => .s32 | _ => .s64
def Ity.code : Ity → Nat
  | .n8 => 0 | .n16 => 1 | .n32 => 2 | .n64 => 3 | .s8 => 4 | .s16 => 5 | .s32 => 6 | .s64 => 7
/-- The float type of a 2-bit code (R75). -/
def Fty.ofCode : Nat → Fty
  | 0 => .b16 | 1 => .h16 | 2 => .f32 | _ => .f64
def Fty.code : Fty → Nat
  | .b16 => 0 | .h16 => 1 | .f32 => 2 | .f64 => 3
/-- The type of a 4-bit code (R75); 1110 and 1111 are illegal. -/
def Ty.ofCode : Nat → Option Ty
  | 0 => some .n8 | 1 => some .n16 | 2 => some .n32 | 3 => some .n64 | 4 => some .s8 | 5 => some .s16
  | 6 => some .s32 | 7 => some .s64 | 8 => some .b16 | 9 => some .h16 | 10 => some .f32 | 11 => some .f64
  | 12 => some .ln6 | 13 => some .ln8 | _ => none
def Ty.code : Ty → Nat
  | .n8 => 0 | .n16 => 1 | .n32 => 2 | .n64 => 3 | .s8 => 4 | .s16 => 5 | .s32 => 6 | .s64 => 7
  | .b16 => 8 | .h16 => 9 | .f32 => 10 | .f64 => 11 | .ln6 => 12 | .ln8 => 13
/-- The condition of a 3-bit code (R75); 111 is illegal everywhere. -/
def Cond.ofCode : Nat → Option Cond
  | 0 => some .eq | 1 => some .ne | 2 => some .lt | 3 => some .le | 4 => some .gt | 5 => some .ge | 6 => some .un
  | _ => none
def Cond.code : Cond → Nat
  | .eq => 0 | .ne => 1 | .lt => 2 | .le => 3 | .gt => 4 | .ge => 5 | .un => 6
/-- The order of a 2-bit code (R75). -/
def MemOrd.ofCode : Nat → MemOrd
  | 0 => .sc | 1 => .rx | 2 => .acq | _ => .rel
def MemOrd.code : MemOrd → Nat
  | .sc => 0 | .rx => 1 | .acq => 2 | .rel => 3
/-- The scope of a 4-bit code (R75); 10 to 15 are illegal. -/
def Scope.ofCode : Nat → Option Scope
  | 0 => some .slot | 1 => some .core | 2 => some .cluster | 3 => some .district | 4 => some .die | 5 => some .device
  | 6 => some .host | 7 => some .peer | 8 => some .fabric | 9 => some .system | _ => none
def Scope.code : Scope → Nat
  | .slot => 0 | .core => 1 | .cluster => 2 | .district => 3 | .die => 4 | .device => 5 | .host => 6 | .peer => 7
  | .fabric => 8 | .system => 9
/-- The rounding mode of a 3-bit code (R53); 101, 110 and 111 are illegal. -/
def Rm.ofCode : Nat → Option Rm
  | 0 => some .rne | 1 => some .rtz | 2 => some .rdn | 3 => some .rup | 4 => some .rmm | _ => none
def Rm.code : Rm → Nat
  | .rne => 0 | .rtz => 1 | .rdn => 2 | .rup => 3 | .rmm => 4
/-- The copy mode of a major's bits 27:25 (R79); 101 to 111 are unassigned majors. -/
def CopyMode.ofCode : Nat → Option CopyMode
  | 0 => some .fb | 1 => some .ff | 2 => some .fe | 3 => some .fk | 4 => some .fr | _ => none
def CopyMode.code : CopyMode → Nat
  | .fb => 0 | .ff => 1 | .fe => 2 | .fk => 3 | .fr => 4
/-- The pairing of an MMA fmt code (R83). -/
def Pairing.ofCode : Nat → Option Pairing
  | 0 => some .ln6 | 1 => some .ln8 | 2 => some .ln6ln8 | 3 => some .ln8ln6 | 4 => some .s8 | 5 => some .b16 | _ => none
def Pairing.code : Pairing → Nat
  | .ln6 => 0 | .ln8 => 1 | .ln6ln8 => 2 | .ln8ln6 => 3 | .s8 => 4 | .b16 => 5
/-- The target of an MRD or MST fmt code (R83). -/
def Target.ofCode : Nat → Option Target
  | 0 => some .ln6 | 1 => some .ln8 | 2 => some .s8 | 3 => some .b16 | 4 => some .h16 | 5 => some .f32 | 6 => some .f64
  | _ => none
def Target.code : Target → Nat
  | .ln6 => 0 | .ln8 => 1 | .s8 => 2 | .b16 => 3 | .h16 => 4 | .f32 => 5 | .f64 => 6
/-- The control register of a number (R29, R115, R146, R192, R210, R258, R267, R394, R405). -/
def Creg.ofCode (n : Nat) : Option Creg :=
  match n with
  | 0x00 => some .slot | 0x01 => some .threadgen | 0x02 => some .pred | 0x03 => some .flags | 0x04 => some .vl
  | 0x05 => some .grant | 0x06 => some .present | 0x07 => some .poison | 0x08 => some .energy | 0x09 => some .enctl
  | 0x0A => some .repst | 0x0B => some .tags | 0x0C => some .waitbud | 0x0D => some .dpat | 0x0E => some .netcap
  | 0x0F => some .space | 0x10 => some .sigst | 0x11 => some .cpmbx | 0x12 => some .launchid | 0x13 => some .nrctl
  | 0x14 => some .chkid | 0x15 => some .mbxst
  | 0x18 => some (.guard 0) | 0x19 => some (.guard 1) | 0x1A => some (.guard 2) | 0x1B => some (.guard 3)
  | 0x1C => some (.guard 4) | 0x1D => some (.guard 5) | 0x1E => some (.guard 6) | 0x1F => some (.guard 7)
  | _ => none
def Creg.code : Creg → Nat
  | .slot => 0x00 | .threadgen => 0x01 | .pred => 0x02 | .flags => 0x03 | .vl => 0x04 | .grant => 0x05
  | .present => 0x06 | .poison => 0x07 | .energy => 0x08 | .enctl => 0x09 | .repst => 0x0A | .tags => 0x0B
  | .waitbud => 0x0C | .dpat => 0x0D | .netcap => 0x0E | .space => 0x0F | .sigst => 0x10 | .cpmbx => 0x11
  | .launchid => 0x12 | .nrctl => 0x13 | .chkid => 0x14 | .mbxst => 0x15 | .guard n => 0x18 + n.val

/-! ## Type classes of R120 and the AM acceptance of R80 -/

/-- Class I: the integer codes. -/
def Ty.isInt : Ty → Bool
  | .n8 | .n16 | .n32 | .n64 | .s8 | .s16 | .s32 | .s64 => true
  | _ => false
/-- Class F: the float codes. -/
def Ty.isFloat : Ty → Bool
  | .b16 | .h16 | .f32 | .f64 => true
  | _ => false
/-- Class F3. -/
def Ty.isF3 : Ty → Bool
  | .b16 | .h16 | .f32 => true
  | _ => false
/-- Class L: the LN codes. -/
def Ty.isLn : Ty → Bool
  | .ln6 | .ln8 => true
  | _ => false
/-- Class W: the types of VGATHER and VSCATTER. -/
def Ty.isW : Ty → Bool
  | .n32 | .s32 | .f32 | .n64 | .s64 | .f64 => true
  | _ => false
/-- The class "all". -/
def Ty.isAny (_ : Ty) : Bool := true
/-- The classes I and F together. -/
def Ty.isIF (t : Ty) : Bool := t.isInt || t.isFloat

/-- The word types ity 011 and 111, the only ones of the full/empty forms (R80, R179). -/
def Ity.isWord : Ity → Bool
  | .n64 | .s64 => true
  | _ => false

/-- The orders LD accepts (R80). -/
def MemOrd.okLoad : MemOrd → Bool
  | .rel => false
  | _ => true
/-- The orders ST accepts (R80). -/
def MemOrd.okStore : MemOrd → Bool
  | .acq => false
  | _ => true
/-- The orders of LDW, LDC, LRW and FEQ (R80). -/
def MemOrd.okAcq : MemOrd → Bool
  | .sc | .acq => true
  | _ => false
/-- The orders of STF, STE, SCH and FEST (R80). -/
def MemOrd.okRel : MemOrd → Bool
  | .sc | .rel => true
  | _ => false
/-- The order of RCAN (R80). -/
def MemOrd.okSc : MemOrd → Bool
  | .sc => true
  | _ => false

/-! ## The A slot -/

/-- The first cause that applies, in ascending order of code, or the instruction (R85). -/
def chk : List (Bool × Cause) → Instr → Except Cause Instr
  | [], i => .ok i
  | (true, c) :: _, _ => .error c
  | (false, _) :: r, i => chk r i

/-- An immediate field of `n` bits at bit `lo`, with the bundle's extension (R73, R76). -/
def immAt (w lo n : Nat) (x : Option (BitVec 27)) : Imm n := ⟨x, BitVec.ofNat n (w / 2 ^ lo)⟩

/-- The three-source rows of the integer group (R78). -/
def intGroup3 : Nat → Option (Reg → Reg → Reg → PReg → Instr)
  | 0x00 => some .add | 0x01 => some .sub | 0x02 => some .mul | 0x03 => some .mulh | 0x04 => some .mulhn
  | 0x05 => some .div | 0x06 => some .divn | 0x07 => some .rem | 0x08 => some .remn | 0x09 => some .and
  | 0x0A => some .andn | 0x0B => some .or | 0x0C => some .xor | 0x0D => some .shl | 0x0E => some .shr
  | 0x0F => some .shra | 0x10 => some .rol | 0x11 => some .min | 0x12 => some .max | 0x13 => some .minn
  | 0x14 => some .maxn | _ => none
/-- The one-source rows of the integer group (R78). -/
def intGroup2 : Nat → Option (Reg → Reg → PReg → Instr)
  | 0x18 => some .mov | 0x19 => some .clz | 0x1A => some .ctz | 0x1B => some .popc | 0x1C => some .sextS8
  | 0x1D => some .sextS16 | 0x1E => some .sextS32 | 0x20 => some .zextN8 | 0x21 => some .zextN16
  | 0x22 => some .zextN32 | _ => none

/-- Major 0x01: the integer group (R78). -/
def decInt (w : Nat) (d a b : Reg) (g : PReg) : Except Cause Instr :=
  match intGroup3 (bits w 3 7), intGroup2 (bits w 3 7) with
  | some mk, _ => .ok (mk d a b g)
  | none, some mk => chk [(rsv w 10 5, .reservedField)] (mk d a g)
  | none, none => .error .unassignedFn

/-- Major 0x70: the system group, with the fields each row of R416 names. -/
def decSys (w : Nat) (d a b : Reg) (g : PReg) : Except Cause Instr :=
  match bits w 3 7 with
  | 0x00 => .ok (.tstate d a b g)
  | 0x01 => .ok (.tsetStop d a b g)
  | 0x02 => .ok (.tresumeRetry d a b g)
  | 0x03 => .ok (.tkill d a b g)
  | 0x04 => chk [(rsv w 10 5, .reservedField)] (.fltrd d a g)
  | 0x05 => .ok (.snuffDefine d a b g)
  | 0x06 => chk [(rsv w 10 5, .reservedField)] (.errlog d a g)
  | 0x07 => chk [(rsv w 20 5, .reservedField)] (.tlbfill a b g)
  | 0x08 => chk [(rsv w 20 5, .reservedField)] (.tlbinvPage a b g)
  | 0x09 => chk [(rsv w 10 5, .reservedField)] (.mbxwait d a g)
  | 0x0A => .ok (.preempt d a b g)
  | 0x0B => .ok (.savectx d a b g)
  | 0x0C => chk [(rsv w 10 5, .reservedField)] (.restctx d a g)
  | 0x0D => chk [(rsv w 20 5, .reservedField)] (.enbud a b g)
  | _ => .error .unassignedFn

/-- Format AF, rounding (R72, R101). -/
def decAFr (w : Nat) (unary : Bool) (mk : Rm → Fty → Instr) : Except Cause Instr :=
  chk [(rsv w 3 2 || (unary && rsv w 10 5), .reservedField), ((Rm.ofCode (bits w 7 3)).isNone, .rounding)]
    (mk ((Rm.ofCode (bits w 7 3)).getD .rne) (Fty.ofCode (bits w 5 2)))
/-- Format AF with rm reserved: FMIN, FMAX, FCLASS (R77, R101). -/
def decAFn (w : Nat) (unary : Bool) (mk : Fty → Instr) : Except Cause Instr :=
  chk [(rsv w 3 2 || rsv w 7 3 || (unary && rsv w 10 5), .reservedField)] (mk (Fty.ofCode (bits w 5 2)))

/-- Formats AC and ACI: an integer condition (R75, R97). -/
def decCmp (w : Nat) (reserved : Bool) (mk : Cond → Ity → Instr) : Except Cause Instr :=
  chk [(reserved, .reservedField), (decide (6 ≤ bits w 14 3), .condition)]
    (mk ((Cond.ofCode (bits w 14 3)).getD .eq) (Ity.ofCode (bits w 11 3)))

/-- Format AM (R72) with the ity and ord codes a form accepts (R80). -/
def decAM (w : Nat) (reserved : Bool) (okTy : Ity → Bool) (okOrd : MemOrd → Bool)
    (mk : Ity → MemOrd → Scope → Instr) : Except Cause Instr :=
  chk [(reserved, .reservedField), (!okTy (Ity.ofCode (bits w 12 3)), .typeCode),
      ((Scope.ofCode (bits w 6 4)).isNone, .scopeCode), (!okOrd (MemOrd.ofCode (bits w 10 2)), .orderCode)]
    (mk (Ity.ofCode (bits w 12 3)) (MemOrd.ofCode (bits w 10 2)) ((Scope.ofCode (bits w 6 4)).getD .system))

/-- Format AO (R72). -/
def decAO (w : Nat) (reserved : Bool) (mk : Scope → Instr) : Except Cause Instr :=
  chk [(reserved || rsv w 3 3 || rsv w 20 5, .reservedField), ((Scope.ofCode (bits w 6 4)).isNone, .scopeCode)]
    (mk ((Scope.ofCode (bits w 6 4)).getD .system))

/-- Format AY: the copies (R79). -/
def decAY (w : Nat) (mk : CopyMode → Fin 64 → Instr) : Except Cause Instr :=
  match CopyMode.ofCode (bits w 25 3) with
  | none => .error .unassignedA
  | some m => chk [(rsv w 3 1, .reservedField)] (mk m (Fin.ofNat 64 (w / 2 ^ 4)))

/-- The A slot: the 32 bits of R70 with the bundle's immediate extension, by the map of R77. -/
def decodeA (w : Nat) (x : Option (BitVec 27)) : Except Cause Instr :=
  let d := regAt w 20; let a := regAt w 15; let b := regAt w 10; let g := oct w 0
  match bits w 25 7 with
  | 0x00 => chk [(rsv w 3 22, .reservedField)] (.nopA g)
  | 0x01 => decInt w d a b g
  | 0x02 => .ok (.addi d a (immAt w 3 12 x) g)
  | 0x03 => .ok (.lea d a (immAt w 3 12 x) g)
  | 0x04 => .ok (.movi d (immAt w 3 17 x) g)
  | 0x05 => .ok (.movhi d (immAt w 3 17 x) g)
  | 0x06 => .ok (.addpc d (immAt w 3 17 x) g)
  | 0x07 => decCmp w (rsv w 3 3) (fun c t => .cmp (oct w 22) (regAt w 17) c t (regAt w 6) g)
  | 0x08 => decCmp w false (fun c t => .cmpi (oct w 22) (regAt w 17) c t (immAt w 3 8 x) g)
  | 0x09 => chk [(rsv w 3 4, .reservedField)] (.sel d a b (oct w 7) g)
  | 0x0A =>
    match bits w 14 2 with
    | 0 => chk [(rsv w 3 11, .reservedField)] (.pand (oct w 22) (oct w 19) (oct w 16) g)
    | 1 => chk [(rsv w 3 11, .reservedField)] (.por (oct w 22) (oct w 19) (oct w 16) g)
    | 2 => chk [(rsv w 3 11, .reservedField)] (.pxor (oct w 22) (oct w 19) (oct w 16) g)
    | _ => chk [(rsv w 3 11 || rsv w 16 3, .reservedField)] (.pnot (oct w 22) (oct w 19) g)
  | 0x10 => decAFr w false (fun r t => .fadd d a b r t g)
  | 0x11 => decAFr w false (fun r t => .fsub d a b r t g)
  | 0x12 => decAFr w false (fun r t => .fmul d a b r t g)
  | 0x13 => decAFr w false (fun r t => .fma d a b r t g)
  | 0x14 => decAFr w false (fun r t => .fdiv d a b r t g)
  | 0x15 => decAFr w true (fun r t => .fsqrt d a r t g)
  | 0x16 => decAFn w false (fun t => .fmin d a b t g)
  | 0x17 => decAFn w false (fun t => .fmax d a b t g)
  | 0x18 => decAFn w true (fun t => .fclass d a t g)
  | 0x19 =>
    chk [(rsv w 3 3 || rsv w 11 1, .reservedField), ((Cond.ofCode (bits w 14 3)).isNone, .condition)]
      (.fcmp (oct w 22) (regAt w 17) ((Cond.ofCode (bits w 14 3)).getD .eq) (Fty.ofCode (bits w 12 2)) (regAt w 6) g)
  | 0x1A =>
    chk [(rsv w 3 1, .reservedField),
        ((Ty.ofCode (bits w 11 4)).isNone || (Ty.ofCode (bits w 7 4)).isNone, .typeCode),
        ((Rm.ofCode (bits w 4 3)).isNone, .rounding)]
      (.fcvt d a ((Ty.ofCode (bits w 11 4)).getD .n8) ((Ty.ofCode (bits w 7 4)).getD .n8)
        ((Rm.ofCode (bits w 4 3)).getD .rne) g)
  | 0x20 => .ok (.br (immAt w 3 22 x) g)
  | 0x21 => .ok (.jmp (immAt w 3 22 x) g)
  | 0x22 => .ok (.call (immAt w 3 22 x) g)
  | 0x23 => .ok (.loop d (immAt w 3 17 x) g)
  | 0x24 => .ok (.sig (BitVec.ofNat 22 (w / 2 ^ 3)) g)
  | 0x25 =>
    match bits w 3 2 with
    | 0 => chk [(rsv w 20 5 || rsv w 5 10, .reservedField)] (.jmpr a g)
    | 1 => chk [(rsv w 20 5 || rsv w 5 10, .reservedField)] (.callr a g)
    | 2 => chk [(rsv w 5 20, .reservedField)] (.ret g)
    | _ => chk [(rsv w 5 20, .reservedField)] (.exit g)
  | 0x26 =>
    match bits w 5 2 with
    | 0 => chk [(rsv w 3 2 || rsv w 15 5, .reservedField), ((Creg.ofCode (bits w 7 8)).isNone, .range)]
        (.crr d ((Creg.ofCode (bits w 7 8)).getD .slot) g)
    | 1 => chk [(rsv w 3 2 || rsv w 20 5, .reservedField), ((Creg.ofCode (bits w 7 8)).isNone, .range)]
        (.crw ((Creg.ofCode (bits w 7 8)).getD .slot) a g)
    | 2 => chk [(rsv w 3 2, .reservedField), ((Creg.ofCode (bits w 7 8)).isNone, .range)]
        (.crx d ((Creg.ofCode (bits w 7 8)).getD .slot) a g)
    | _ => .error .unassignedFn
  | 0x30 => decAM w false (fun _ => true) MemOrd.okLoad (fun t o s => .ld d a t o s (immAt w 3 3 x) g)
  | 0x31 => decAM w false (fun _ => true) MemOrd.okStore (fun t o s => .st d a t o s (immAt w 3 3 x) g)
  | 0x32 => decAM w false Ity.isWord MemOrd.okAcq (fun t o s => .ldw d a t o s (immAt w 3 3 x) g)
  | 0x33 => decAM w false Ity.isWord MemOrd.okAcq (fun t o s => .ldc d a t o s (immAt w 3 3 x) g)
  | 0x34 => decAM w false Ity.isWord MemOrd.okRel (fun t o s => .stf d a t o s (immAt w 3 3 x) g)
  | 0x35 => decAM w false Ity.isWord MemOrd.okRel (fun t o s => .ste d a t o s (immAt w 3 3 x) g)
  | 0x36 => decAM w (rsv w 21 4) Ity.isWord MemOrd.okRel
      (fun t o s => .fest (bits w 20 1 == 1) a t o s (immAt w 3 3 x) g)
  | 0x37 => decAM w (rsv w 23 2) Ity.isWord MemOrd.okAcq (fun t o s => .feq (oct w 20) a t o s (immAt w 3 3 x) g)
  | 0x38 => decAM w false Ity.isWord MemOrd.okAcq (fun t o s => .lrw d a t o s (immAt w 3 3 x) g)
  | 0x39 => decAM w false Ity.isWord MemOrd.okRel (fun t o s => .sch d a t o s (immAt w 3 3 x) g)
  | 0x3A => decAM w (rsv w 20 5) Ity.isWord MemOrd.okSc (fun t o s => .rcan a t o s (immAt w 3 3 x) g)
  | 0x3B => decAO w (rsv w 10 10) (fun s => .fence s g)
  | 0x3C => chk [(rsv w 3 7, .reservedField)] (.put a d b g)
  | 0x3D => chk [(rsv w 3 17, .reservedField)] (.arm d g)
  | 0x40 | 0x41 | 0x42 | 0x43 | 0x44 | 0x45 | 0x46 | 0x47 => decAY w (fun m t => .cpy m d a b t g)
  | 0x48 | 0x49 | 0x4A | 0x4B | 0x4C | 0x4D | 0x4E | 0x4F => decAY w (fun m t => .cpys m d a b t g)
  | 0x50 | 0x51 | 0x52 | 0x53 | 0x54 | 0x55 | 0x56 | 0x57 => decAY w (fun m t => .cpyd m d a b t g)
  | 0x58 =>
    match bits w 3 2 with
    | 0 => chk [(rsv w 20 5 || rsv w 5 10, .reservedField)] (.twall a g)
    | 1 => chk [(rsv w 20 5 || rsv w 5 10, .reservedField)] (.twany a g)
    | 2 => chk [(rsv w 5 10, .reservedField)] (.tfirst d a g)
    | _ => chk [(rsv w 20 5 || rsv w 5 10, .reservedField)] (.tclr a g)
  | 0x60 => chk [(rsv w 3 7 || rsv w 20 5, .reservedField)] (.spawn a b g)
  | 0x61 => chk [(rsv w 3 7 || rsv w 20 5, .reservedField)] (.mig a b g)
  | 0x62 => chk [(rsv w 3 12 || rsv w 20 5, .reservedField)] (.launch a g)
  | 0x63 => decAO w (rsv w 10 5) (fun s => .bar s a g)
  | 0x64 => chk [(rsv w 3 12 || rsv w 20 5, .reservedField)] (.wlpush a g)
  | 0x65 => chk [(rsv w 3 17, .reservedField)] (.wlpop d g)
  | 0x66 => decAO w false (fun s => .nred s a b g)
  | 0x68 => chk [(rsv w 3 12, .reservedField)] (.rrec d a g)
  | 0x69 => chk [(rsv w 3 7 || rsv w 20 5, .reservedField)] (.emitToken a b g)
  | 0x6A => chk [(rsv w 3 22, .reservedField)] (.stepend g)
  | 0x70 => decSys w d a b g
  | _ => .error .unassignedA

/-! ## The V slot -/

/-- A row of the vector group with three registers. `rounds` rows use rm; an `fOnly` row of them uses it for float types
only, and reserves it for integer and LN types (R82, R120); a code that is no type reserves nothing (DEDUCED: log entry 88). -/
def decVR (w : Nat) (rounds fOnly unary : Bool) (okTy : Ty → Bool) (mk : Ty → Rm → Instr) : Except Cause Instr :=
  let t := Ty.ofCode (bits w 8 4)
  let rounding := rounds && !(fOnly && t.any (fun t => !t.isFloat))
  chk [((unary && rsv w 12 5) || (!rounding && rsv w 5 3), .reservedField), (!t.any okTy, .typeCode),
      (rounding && (Rm.ofCode (bits w 5 3)).isNone, .rounding)]
    (mk (t.getD .n8) (if rounding then (Rm.ofCode (bits w 5 3)).getD .rne else .rne))

/-- Major 0b00001: the vector group (R82). -/
def decVec (w : Nat) : Except Cause Instr :=
  let vd := regAt w 22; let va := regAt w 17; let vb := regAt w 12
  match bits w 0 5 with
  | 0b00000 => decVR w true true false Ty.isIF (.vadd vd va vb)
  | 0b00001 => decVR w true true false Ty.isIF (.vsub vd va vb)
  | 0b00010 => decVR w true true false Ty.isAny (.vmul vd va vb)
  | 0b00011 => decVR w false false false Ty.isAny (fun t _ => .vmin vd va vb t)
  | 0b00100 => decVR w false false false Ty.isAny (fun t _ => .vmax vd va vb t)
  | 0b00101 => decVR w false false true Ty.isAny (fun t _ => .vabs vd va t)
  | 0b00110 => decVR w false false true Ty.isAny (fun t _ => .vneg vd va t)
  | 0b00111 => decVR w true false false Ty.isFloat (.vfma3 vd va vb)
  | 0b01000 => decVR w true false false Ty.isFloat (.vdiv vd va vb)
  | 0b01001 => decVR w true false true Ty.isFloat (.vsqrt vd va)
  | 0b01010 => decVR w true false true Ty.isFloat (.vrcp vd va)
  | 0b01011 => decVR w true false true Ty.isFloat (.vrsq vd va)
  | 0b01100 => decVR w true false true Ty.isF3 (.vexp2 vd va)
  | 0b01101 => decVR w true false true Ty.isF3 (.vlog2 vd va)
  | 0b01110 => decVR w true false true Ty.isF3 (.vtanh vd va)
  | 0b10000 => decVR w false false false Ty.isAny (fun t _ => .vand vd va vb t)
  | 0b10001 => decVR w false false false Ty.isAny (fun t _ => .vor vd va vb t)
  | 0b10010 => decVR w false false false Ty.isAny (fun t _ => .vxor vd va vb t)
  | 0b10011 => decVR w false false false Ty.isInt (fun t _ => .vshl vd va vb t)
  | 0b10100 => decVR w false false false Ty.isInt (fun t _ => .vshr vd va vb t)
  | 0b10101 => decVR w false false false Ty.isInt (fun t _ => .vshra vd va vb t)
  | 0b10110 => decVR w false false false Ty.isAny (fun t _ => .vperm vd va vb t)
  | 0b11000 => decVR w true true true Ty.isIF (.vredadd vd va)
  | 0b11001 => decVR w false false true Ty.isAny (fun t _ => .vredmax vd va t)
  | 0b11010 => decVR w false false true Ty.isAny (fun t _ => .vargmax vd va t)
  | _ => .error .unassignedFn

/-- Format VG (R74): `reserved` says that a field the row does not use is nonzero. -/
def decVG (w : Nat) (reserved : Bool) (okTy : Ty → Bool) (mk : Ty → Instr) : Except Cause Instr :=
  chk [(reserved, .reservedField), (!(Ty.ofCode (bits w 8 4)).any okTy, .typeCode)]
    (mk ((Ty.ofCode (bits w 8 4)).getD .n8))

/-- Major 0b11000: the matrix group (R83). -/
def decMat (w : Nat) : Except Cause Instr :=
  let a := regAt w 22; let b := regAt w 17; let c := regAt w 12; let t := tileAt w 10
  let ra := rsv w 22 5; let rb := rsv w 17 5; let rc := rsv w 12 5; let rt := rsv w 10 2
  let rf := rsv w 3 3; let r0 := rsv w 0 3
  match bits w 6 4 with
  | 0b0000 => chk [(r0, .reservedField), ((Pairing.ofCode (bits w 3 3)).isNone, .condition)]
      (.mma t a b c ((Pairing.ofCode (bits w 3 3)).getD .ln6))
  | 0b0001 => chk [(r0 || rf || rb || rc, .reservedField)] (.mmaz t a)
  | 0b0010 => chk [(r0 || rf || ra || rb || rc, .reservedField)] (.mclr t)
  | 0b0011 => chk [(r0 || rc, .reservedField), ((Target.ofCode (bits w 3 3)).isNone, .condition)]
      (.mrd t a b ((Target.ofCode (bits w 3 3)).getD .ln6))
  | 0b0100 => chk [(r0 || rc, .reservedField), ((Target.ofCode (bits w 3 3)).isNone, .condition)]
      (.mst t a b ((Target.ofCode (bits w 3 3)).getD .ln6))
  | 0b0101 => chk [(r0 || rf || rb || rc, .reservedField)] (.mfmt t a)
  | 0b0110 => chk [(r0 || rf || rc, .reservedField)] (.mscale t a b)
  | 0b0111 => chk [(r0 || rf || rt, .reservedField)] (.mcap a b c)
  | 0b1000 => chk [(r0 || rf || rt || rc, .reservedField)] (.msend a b)
  | 0b1001 => chk [(r0 || rf || rt || rb || rc, .reservedField)] (.mwait a)
  | 0b1010 => chk [(r0 || rf || rb || rc, .reservedField)] (.rmap t a)
  | _ => .error .unassignedFn

/-- The V slot, its 32 bits numbered from 0 (R74), by the map of R81. An immediate extension does nothing in the V slot
(R76), so it reads as NOP here; `extOf` gives its field X. -/
def decodeV (w : Nat) : Except Cause Instr :=
  let v := regAt w 22; let g := regAt w 17; let x := regAt w 12; let i := BitVec.ofNat 8 w
  match bits w 27 5 with
  | 0b00000 => chk [(rsv w 0 27, .reservedField)] .nopV
  | 0b00001 => decVec w
  | 0b00010 =>
    let t := Ty.ofCode (bits w 8 4)
    chk [(rsv w 3 5, .reservedField), (t.isNone, .typeCode),
        ((Cond.ofCode (bits w 0 3)).isNone || (t.any Ty.isInt && decide (6 ≤ bits w 0 3)), .condition)]
      (.vcmp v g x (t.getD .n8) ((Cond.ofCode (bits w 0 3)).getD .eq))
  | 0b00011 =>
    let t := Ty.ofCode (bits w 3 4)
    chk [(!t.any Ty.isFloat, .typeCode), ((Rm.ofCode (bits w 0 3)).isNone, .rounding)]
      (.vfma4 v g x (regAt w 7) (t.getD .n8) ((Rm.ofCode (bits w 0 3)).getD .rne))
  | 0b00100 =>
    chk [(rsv w 0 3, .reservedField), ((Ty.ofCode (bits w 3 4)).isNone, .typeCode)]
      (.vsel v g x (regAt w 7) ((Ty.ofCode (bits w 3 4)).getD .n8))
  | 0b00101 =>
    chk [(rsv w 0 1 || rsv w 12 5, .reservedField),
        ((Ty.ofCode (bits w 8 4)).isNone || (Ty.ofCode (bits w 4 4)).isNone, .typeCode),
        ((Rm.ofCode (bits w 1 3)).isNone, .rounding)]
      (.vcvt v g ((Ty.ofCode (bits w 8 4)).getD .n8) ((Ty.ofCode (bits w 4 4)).getD .n8)
        ((Rm.ofCode (bits w 1 3)).getD .rne))
  | 0b00110 => decVG w (rsv w 12 5 || rsv w 0 8) Ty.isAny (.vbcast v g)
  | 0b00111 => decVG w (rsv w 12 5) Ty.isAny (fun t => .vext g v t i)
  | 0b01000 => decVG w (rsv w 12 5) Ty.isAny (fun t => .vld v g t i)
  | 0b01001 => decVG w (rsv w 12 5) Ty.isAny (fun t => .vst v g t i)
  | 0b01010 => decVG w false Ty.isW (fun t => .vgather v g x t i)
  | 0b01011 => decVG w false Ty.isW (fun t => .vscatter v g x t i)
  | 0b01100 => chk [(rsv w 0 15, .reservedField), (decide (64 < bits w 15 7), .range)]
      (.vclaim v (BitVec.ofNat 7 (w / 2 ^ 15)))
  | 0b01101 => chk [(rsv w 0 27, .reservedField)] .vyield
  | 0b10000 => chk [(rsv w 0 5, .reservedField), (decide (4096 < bits w 14 13), .range)]
      (.rep (BitVec.ofNat 13 (w / 2 ^ 14)) (oct w 11) (oct w 8) (oct w 5))
  | 0b10001 =>
    match bits w 0 1 with
    | 0 => chk [(rsv w 1 26, .reservedField)] .repgo
    | _ => chk [(rsv w 1 26, .reservedField)] .repend
  | 0b11000 => decMat w
  | 0b11111 => .ok .nopV
  | _ => .error .unassignedV

/-- The 27-bit field X when the V slot is an immediate extension (R76). -/
def extOf (w : Nat) : Option (BitVec 27) := if bits w 27 5 = 31 then some (BitVec.ofNat 27 w) else none

/-! ## Whole bundles -/

/-- A decoded bundle: its two instructions, its extension, and the bits of its slots (R70). -/
structure Bundle where
  a : Instr
  v : Instr
  ext : Option (BitVec 27)
  aw : Lane
  vw : Lane
  deriving DecidableEq, Repr

/-- What the illegal-instruction message names: the slot field (0 A slot, 1 V slot, 2 the bundle), the second-slot bit
and the cause (R85). -/
structure Illegal where
  slot : Nat
  second : Bool
  cause : Cause
  deriving DecidableEq, Repr

/-- The A-slot instructions with an immediate field that an extension widens (R76). -/
def Instr.takesExt : Instr → Bool
  | .addi .. | .lea .. | .movi .. | .movhi .. | .addpc .. | .cmpi .. | .br .. | .jmp .. | .call .. | .loop ..
  | .ld .. | .st .. | .ldw .. | .ldc .. | .stf .. | .ste .. | .fest .. | .feq .. | .lrw .. | .sch .. | .rcan .. => true
  | _ => false

/-- SIG, beside which an extension raises cause 0x0A (R114). -/
def Instr.isSig : Instr → Bool
  | .sig .. => true
  | _ => false

/-- The general register an instruction names as a destination (R16, R108, R123, R132, R171). -/
def Instr.gdest : Instr → Option Reg
  | .add d .. | .sub d .. | .mul d .. | .mulh d .. | .mulhn d .. | .div d .. | .divn d .. | .rem d .. | .remn d ..
  | .and d .. | .andn d .. | .or d .. | .xor d .. | .shl d .. | .shr d .. | .shra d .. | .rol d .. | .min d ..
  | .max d .. | .minn d .. | .maxn d .. | .mov d .. | .clz d .. | .ctz d .. | .popc d .. | .sextS8 d ..
  | .sextS16 d .. | .sextS32 d .. | .zextN8 d .. | .zextN16 d .. | .zextN32 d .. | .addi d .. | .lea d .. | .movi d ..
  | .movhi d .. | .addpc d .. | .sel d .. | .fadd d .. | .fsub d .. | .fmul d .. | .fma d .. | .fdiv d .. | .fsqrt d ..
  | .fmin d .. | .fmax d .. | .fclass d .. | .fcvt d .. | .loop d .. | .crr d .. | .crx d .. | .ld d .. | .ldw d ..
  | .ldc d .. | .lrw d .. | .sch d .. | .tfirst d .. | .wlpop d .. | .rrec d .. | .tstate d .. | .tsetStop d ..
  | .tsetRun d .. | .tsetSetpc d .. | .tresumeRetry d .. | .tresumeSkip d .. | .tresumeGo d .. | .tresumeStop d ..
  | .tkill d .. | .tkillLaunch d .. | .fltrd d .. | .snuffDefine d .. | .snuffFence d .. | .snuffRelease d ..
  | .snuffRead d .. | .errlog d .. | .mbxwait d .. | .preempt d .. | .savectx d .. | .restctx d .. => some d
  | .call .. | .callr .. => some 28
  | .vclaim d _ | .vext d .. | .mcap d .. | .mrd _ d .. => some d
  | _ => none

/-- The instructions a service core does not hold: the copies and the matrix group (R455, cause 0x0E). -/
def Instr.notOnService : Instr → Bool
  | .cpy .. | .cpys .. | .cpyd .. | .mma .. | .mmaz .. | .mclr .. | .mrd .. | .mst .. | .mfmt .. | .mscale ..
  | .mcap .. | .msend .. | .mwait .. | .rmap .. => true
  | _ => false

/-- The cause a slot raises by itself, on a service core or not (R85). -/
def slotCause (svc : Bool) : Except Cause Instr → Option Cause
  | .error c => some c
  | .ok i => if svc && i.notOnService then some .notHeld else none

/-- The bundle-level cause (slot field 2) that the bits of the bundle raise (R16, R76, R114). -/
def bundleCause (a v : Instr) (ext : Bool) : Option Cause :=
  if ext && a.isSig then some .range
  else if ext && !a.takesExt then some .extension
  else if a.gdest.isSome && a.gdest == v.gdest then some .twoDestinations
  else none

/-- The refusal of a bundle whose slots raise `ca` and `cv` and which as a whole raises `cb`: the A slot is named before
the V slot, and the bundle-level cause is raised only when neither slot has a lower one (R85). -/
def pickIllegal (ca cv cb : Option Cause) : Option Illegal :=
  let slots : Option Illegal :=
    match ca, cv with
    | some c, v => some ⟨0, v.isSome, c⟩
    | none, some c => some ⟨1, false, c⟩
    | none, none => none
  match slots, cb with
  | some s, some c => if s.cause.code ≤ c.code then some s else some ⟨2, false, c⟩
  | some s, none => some s
  | none, some c => some ⟨2, false, c⟩
  | none, none => none

/-- The decoder of R84 and R85 on a bundle's 64 bits: both instructions, or the slot and cause of the refusal. -/
def decodeBundle (svc : Bool) (w : Word) : Except Illegal Bundle :=
  let aw := w.toNat % 2 ^ 32
  let vw := w.toNat / 2 ^ 32
  let ext := extOf vw
  let ra := decodeA aw ext
  let rv := decodeV vw
  let cb : Option Cause :=
    match ra, rv with
    | .ok a, .ok v => bundleCause a v ext.isSome
    | .ok a, .error _ => bundleCause a .nopV ext.isSome
    | _, _ => none
  match pickIllegal (slotCause svc ra) (slotCause svc rv) cb, ra, rv with
  | some e, _, _ => .error e
  | none, .ok a, .ok v => .ok ⟨a, v, ext, BitVec.ofNat 32 aw, BitVec.ofNat 32 vw⟩
  | none, _, _ => .error ⟨2, false, .unassignedA⟩

/-- The little-endian word of a list of bytes (R3); bytes that are missing read 0. -/
def wordOfBytes (l : List Byte) : Word :=
  BitVec.ofNat 64 ((l.take 8).foldr (fun b n => b.toNat + 256 * n) 0)

/-! ## Fendouk words -/

/-- A field of a Fendouk word that the instruction does not use is nonzero (R88, R341). -/
def fresv (w : Nat) (x y z u c i imm : Bool) : Bool :=
  rsv w 36 4 || (!x && rsv w 52 4) || (!y && rsv w 48 4) || (!z && rsv w 44 4) || (!u && rsv w 40 4)
    || (!c && rsv w 33 3) || (!i && rsv w 32 1) || (!imm && rsv w 0 32)

/-- The last operand of HMOV, HADD, HSUB and HCMP (R346). -/
def hsrcAt (w lo : Nat) : HSrc := if bits w 32 1 = 1 then .imm (BitVec.ofNat 32 w) else .reg (hexAt w lo)

/-- The decoder of a Fendouk word (R88, R89, R90, R341). -/
def decodeF (w : Nat) : Except Cause Instr :=
  let x := hexAt w 52; let y := hexAt w 48; let z := hexAt w 44; let u := hexAt w 40
  let imm := BitVec.ofNat 32 w
  let i1 := bits w 32 1 = 1
  match bits w 56 8 with
  | 0x01 => chk [(fresv w false false false false false false false, .reservedField)] .halt
  | 0x02 => chk [(fresv w false false false false false false false, .reservedField)] .yield
  | 0x10 => chk [(fresv w true false false false false false false, .reservedField)] (.cnew x)
  | 0x11 => chk [(fresv w true true false false false false false, .reservedField)] (.cbind x y)
  | 0x12 => chk [(fresv w true true false false false false false, .reservedField)] (.cfork x y)
  | 0x13 => chk [(fresv w true false false false false false false, .reservedField)] (.cfree x)
  | 0x14 => chk [(fresv w true true false false false false true || rsv w 8 24, .reservedField)]
      (.cset x y (BitVec.ofNat 8 w))
  | 0x15 => chk [(fresv w true true false false false false true || rsv w 8 24, .reservedField)]
      (.cget x y (BitVec.ofNat 8 w))
  | 0x16 => chk [(fresv w true false false false false false false, .reservedField)] (.cwait x)
  | 0x17 => chk [(fresv w true true false false false false false, .reservedField)] (.trunc x y)
  | 0x20 => chk [(fresv w true true true false false false false, .reservedField)] (.append x y z)
  | 0x21 => chk [(fresv w true true false false false false false, .reservedField)] (.gen x y)
  | 0x22 => chk [(fresv w true true true true false false false, .reservedField)] (.score x y z u)
  | 0x23 => chk [(fresv w true true true true false false false, .reservedField)] (.choose x y z u)
  | 0x24 => chk [(fresv w true true true false false false false, .reservedField)] (.beam x y z)
  | 0x25 => chk [(fresv w true true true false false false false, .reservedField)] (.spec x y z)
  | 0x30 => chk [(fresv w true true false false false false false, .reservedField)] (.post x y)
  | 0x31 => chk [(fresv w true true false false false false false, .reservedField)] (.recv x y)
  | 0x40 => chk [(fresv w true (decide ¬i1) false false false true (decide i1), .reservedField)] (.hmov x (hsrcAt w 48))
  | 0x41 => chk [(fresv w true true (decide ¬i1) false false true (decide i1), .reservedField)] (.hadd x y (hsrcAt w 44))
  | 0x42 => chk [(fresv w true true (decide ¬i1) false false true (decide i1), .reservedField)] (.hsub x y (hsrcAt w 44))
  | 0x43 => chk [(fresv w true true (decide ¬i1) false true true (decide i1), .reservedField),
        (decide (6 ≤ bits w 33 3), .condition)]
      (.hcmp ((Cond.ofCode (bits w 33 3)).getD .eq) x y (hsrcAt w 44))
  | 0x44 => chk [(fresv w true false false false false false true, .reservedField)] (.hbr x imm)
  | 0x45 => chk [(fresv w false false false false false false true, .reservedField)] (.hjmp imm)
  | 0x46 => chk [(fresv w true true false false false false true, .reservedField)] (.hld x y imm)
  | 0x47 => chk [(fresv w true true false false false false true, .reservedField)] (.hst x y imm)
  | _ => .error .unassignedA

/-- The instruction read from a word of the opcode table's numbering: an A-slot word where the A-slot map has one, else
a V-slot word with its bits renumbered from 0; 64 bits are a bundle, of which the A slot is answered unless it is NOP. -/
def decodeTableWord (nbits w : Nat) : Option Instr :=
  if nbits ≤ 32 then
    match decodeA (w % 2 ^ 32) none with
    | .ok i => some i
    | .error _ => (decodeV (w % 2 ^ 32)).toOption
  else
    match decodeBundle false (BitVec.ofNat 64 w) with
    | .ok ⟨.nopA _, v, _, _, _⟩ => some v
    | .ok b => some b.a
    | .error _ => none

/-! ## The encoder -/

/-- The words of an instruction: an A-slot word and the extension beside it, a V-slot word, or a Fendouk word. -/
inductive Enc where
  | a (w : Lane) (ext : Option (BitVec 27))
  | v (w : Lane)
  | f (w : Word)
  deriving DecidableEq, Repr

/-- Formats AR, AD and AS: major, d, a, b, the seven bits 9:3, guard (R72). -/
def packAR (major : Nat) (d a b : Reg) (fn : Nat) (g : PReg) : Enc :=
  .a (BitVec.ofNat 32 (major * 2 ^ 25 + d.val * 2 ^ 20 + a.val * 2 ^ 15 + b.val * 2 ^ 10 + fn * 2 ^ 3 + g.val)) none
/-- Formats AI and AM: major, d, a, the twelve bits 14:3, guard (R72). -/
def packAI (major d : Nat) (a : Reg) (f : Nat) (x : Option (BitVec 27)) (g : PReg) : Enc :=
  .a (BitVec.ofNat 32 (major * 2 ^ 25 + d * 2 ^ 20 + a.val * 2 ^ 15 + f * 2 ^ 3 + g.val)) x
/-- Formats AW and AL: major, register, the seventeen bits 19:3, guard (R72). -/
def packAW (major : Nat) (d : Reg) (f : Nat) (x : Option (BitVec 27)) (g : PReg) : Enc :=
  .a (BitVec.ofNat 32 (major * 2 ^ 25 + d.val * 2 ^ 20 + f * 2 ^ 3 + g.val)) x
/-- Formats AC, ACI and AFC: major, pd, a, the fourteen bits 16:3, guard (R72). -/
def packAC (major : Nat) (pd : PReg) (a : Reg) (f : Nat) (x : Option (BitVec 27)) (g : PReg) : Enc :=
  .a (BitVec.ofNat 32 (major * 2 ^ 25 + pd.val * 2 ^ 22 + a.val * 2 ^ 17 + f * 2 ^ 3 + g.val)) x
/-- Format AP (R72). -/
def packAP (pd pa pb : PReg) (fn : Nat) (g : PReg) : Enc :=
  .a (BitVec.ofNat 32 (0x0A * 2 ^ 25 + pd.val * 2 ^ 22 + pa.val * 2 ^ 19 + pb.val * 2 ^ 16 + fn * 2 ^ 14 + g.val)) none
/-- Formats AN and AB: major, the 22 bits 24:3, guard (R72). -/
def packAB (major f : Nat) (x : Option (BitVec 27)) (g : PReg) : Enc :=
  .a (BitVec.ofNat 32 (major * 2 ^ 25 + f * 2 ^ 3 + g.val)) x
/-- The bits 14:3 of format AM (R72). -/
def fieldAM (t : Ity) (o : MemOrd) (s : Scope) (off : Imm 3) : Nat :=
  t.code * 2 ^ 9 + o.code * 2 ^ 7 + s.code * 2 ^ 3 + off.field.toNat
/-- An AM form (R72). -/
def packAM (major d : Nat) (a : Reg) (t : Ity) (o : MemOrd) (s : Scope) (off : Imm 3) (g : PReg) : Enc :=
  packAI major d a (fieldAM t o s off) off.ext g
/-- Format AF: bits 9:3 hold rm and fty (R72). -/
def packAF (major : Nat) (d a b : Reg) (rm : Nat) (t : Fty) (g : PReg) : Enc :=
  packAR major d a b (rm * 2 ^ 4 + t.code * 2 ^ 2) g
/-- Format AK: bits 14:3 hold crn and fn (R72). -/
def packAK (d a : Reg) (c : Creg) (fn : Nat) (g : PReg) : Enc :=
  packAI 0x26 d.val a (c.code * 2 ^ 4 + fn * 2 ^ 2) none g

/-- A V-slot word of three register fields, the nibble 11:8 and the byte 7:0 (R74). -/
def packV (major : Nat) (d a b : Fin 32) (t low : Nat) : Enc :=
  .v (BitVec.ofNat 32 (major * 2 ^ 27 + d.val * 2 ^ 22 + a.val * 2 ^ 17 + b.val * 2 ^ 12 + t * 2 ^ 8 + low))
/-- Format VR of the vector group (R74, R82). -/
def packVR (fn : Nat) (d a b : VReg) (t : Ty) (rm : Nat) : Enc := packV 1 d a b t.code (rm * 2 ^ 5 + fn)
/-- Format VF (R74). -/
def packVF (major : Nat) (d a b c : VReg) (t : Ty) (rm : Nat) : Enc :=
  .v (BitVec.ofNat 32 (major * 2 ^ 27 + d.val * 2 ^ 22 + a.val * 2 ^ 17 + b.val * 2 ^ 12 + c.val * 2 ^ 7
    + t.code * 2 ^ 3 + rm))
/-- Format VM (R74, R83). -/
def packVM (fn : Nat) (a b c : Reg) (t : Tile) (fmt : Nat) : Enc :=
  .v (BitVec.ofNat 32 (0b11000 * 2 ^ 27 + a.val * 2 ^ 22 + b.val * 2 ^ 17 + c.val * 2 ^ 12 + t.val * 2 ^ 10
    + fn * 2 ^ 6 + fmt * 2 ^ 3))

/-- A Fendouk word (R88). -/
def packF (op : Nat) (x y z u : Fin 16) (c i imm : Nat) : Enc :=
  .f (BitVec.ofNat 64 (op * 2 ^ 56 + x.val * 2 ^ 52 + y.val * 2 ^ 48 + z.val * 2 ^ 44 + u.val * 2 ^ 40 + c * 2 ^ 33
    + i * 2 ^ 32 + imm))
/-- HMOV, HADD, HSUB and HCMP with either last operand (R346). -/
def packFS (op : Nat) (x : HReg) (y : Option HReg) (c : Nat) : HSrc → Enc
  | .imm v => packF op x (y.getD 0) 0 0 c 1 v.toNat
  | .reg h =>
    match y with
    | none => packF op x h 0 0 c 0 0
    | some y => packF op x y h 0 c 0 0

/-- The words of an instruction, from the tables of R72 to R89 and R416; `none` for the steps of the module, which no
instruction word names. The instructions that one word names by an operand value share that word. -/
def encode : Instr → Option Enc
  | .nopA g => some (packAB 0x00 0 none g)
  | .add d a b g => some (packAR 0x01 d a b 0x00 g)
  | .sub d a b g => some (packAR 0x01 d a b 0x01 g)
  | .mul d a b g => some (packAR 0x01 d a b 0x02 g)
  | .mulh d a b g => some (packAR 0x01 d a b 0x03 g)
  | .mulhn d a b g => some (packAR 0x01 d a b 0x04 g)
  | .div d a b g => some (packAR 0x01 d a b 0x05 g)
  | .divn d a b g => some (packAR 0x01 d a b 0x06 g)
  | .rem d a b g => some (packAR 0x01 d a b 0x07 g)
  | .remn d a b g => some (packAR 0x01 d a b 0x08 g)
  | .and d a b g => some (packAR 0x01 d a b 0x09 g)
  | .andn d a b g => some (packAR 0x01 d a b 0x0A g)
  | .or d a b g => some (packAR 0x01 d a b 0x0B g)
  | .xor d a b g => some (packAR 0x01 d a b 0x0C g)
  | .shl d a b g => some (packAR 0x01 d a b 0x0D g)
  | .shr d a b g => some (packAR 0x01 d a b 0x0E g)
  | .shra d a b g => some (packAR 0x01 d a b 0x0F g)
  | .rol d a b g => some (packAR 0x01 d a b 0x10 g)
  | .min d a b g => some (packAR 0x01 d a b 0x11 g)
  | .max d a b g => some (packAR 0x01 d a b 0x12 g)
  | .minn d a b g => some (packAR 0x01 d a b 0x13 g)
  | .maxn d a b g => some (packAR 0x01 d a b 0x14 g)
  | .mov d a g => some (packAR 0x01 d a 0 0x18 g)
  | .clz d a g => some (packAR 0x01 d a 0 0x19 g)
  | .ctz d a g => some (packAR 0x01 d a 0 0x1A g)
  | .popc d a g => some (packAR 0x01 d a 0 0x1B g)
  | .sextS8 d a g => some (packAR 0x01 d a 0 0x1C g)
  | .sextS16 d a g => some (packAR 0x01 d a 0 0x1D g)
  | .sextS32 d a g => some (packAR 0x01 d a 0 0x1E g)
  | .zextN8 d a g => some (packAR 0x01 d a 0 0x20 g)
  | .zextN16 d a g => some (packAR 0x01 d a 0 0x21 g)
  | .zextN32 d a g => some (packAR 0x01 d a 0 0x22 g)
  | .addi d a i g => some (packAI 0x02 d.val a i.field.toNat i.ext g)
  | .lea d a i g => some (packAI 0x03 d.val a i.field.toNat i.ext g)
  | .movi d i g => some (packAW 0x04 d i.field.toNat i.ext g)
  | .movhi d i g => some (packAW 0x05 d i.field.toNat i.ext g)
  | .addpc d i g => some (packAW 0x06 d i.field.toNat i.ext g)
  | .cmp pd a c t b g => some (packAC 0x07 pd a (c.code * 2 ^ 11 + t.code * 2 ^ 8 + b.val * 2 ^ 3) none g)
  | .cmpi pd a c t i g => some (packAC 0x08 pd a (c.code * 2 ^ 11 + t.code * 2 ^ 8 + i.field.toNat) i.ext g)
  | .sel d a b p g => some (packAR 0x09 d a b (p.val * 2 ^ 4) g)
  | .pand pd pa pb g => some (packAP pd pa pb 0 g)
  | .por pd pa pb g => some (packAP pd pa pb 1 g)
  | .pxor pd pa pb g => some (packAP pd pa pb 2 g)
  | .pnot pd pa g => some (packAP pd pa 0 3 g)
  | .fadd d a b r t g => some (packAF 0x10 d a b r.code t g)
  | .fsub d a b r t g => some (packAF 0x11 d a b r.code t g)
  | .fmul d a b r t g => some (packAF 0x12 d a b r.code t g)
  | .fma d a b r t g => some (packAF 0x13 d a b r.code t g)
  | .fdiv d a b r t g => some (packAF 0x14 d a b r.code t g)
  | .fsqrt d a r t g => some (packAF 0x15 d a 0 r.code t g)
  | .fmin d a b t g => some (packAF 0x16 d a b 0 t g)
  | .fmax d a b t g => some (packAF 0x17 d a b 0 t g)
  | .fclass d a t g => some (packAF 0x18 d a 0 0 t g)
  | .fcmp pd a c t b g => some (packAC 0x19 pd a (c.code * 2 ^ 11 + t.code * 2 ^ 9 + b.val * 2 ^ 3) none g)
  | .fcvt d a dst src r g =>
    some (packAI 0x1A d.val a (dst.code * 2 ^ 8 + src.code * 2 ^ 4 + r.code * 2) none g)
  | .br i g => some (packAB 0x20 i.field.toNat i.ext g)
  | .jmp i g => some (packAB 0x21 i.field.toNat i.ext g)
  | .call i g => some (packAB 0x22 i.field.toNat i.ext g)
  | .loop a i g => some (packAW 0x23 a i.field.toNat i.ext g)
  | .sig s g => some (packAB 0x24 s.toNat none g)
  | .jmpr a g => some (packAI 0x25 0 a 0 none g)
  | .callr a g => some (packAI 0x25 0 a 1 none g)
  | .ret g => some (packAB 0x25 2 none g)
  | .exit g => some (packAB 0x25 3 none g)
  | .crr d c g => some (packAK d 0 c 0 g)
  | .crw c a g => some (packAK 0 a c 1 g)
  | .crx d c a g => some (packAK d a c 2 g)
  | .ld d a t o s i g => some (packAM 0x30 d.val a t o s i g)
  | .st d a t o s i g => some (packAM 0x31 d.val a t o s i g)
  | .ldw d a t o s i g => some (packAM 0x32 d.val a t o s i g)
  | .ldc d a t o s i g => some (packAM 0x33 d.val a t o s i g)
  | .stf d a t o s i g => some (packAM 0x34 d.val a t o s i g)
  | .ste d a t o s i g => some (packAM 0x35 d.val a t o s i g)
  | .fest f a t o s i g => some (packAM 0x36 f.toNat a t o s i g)
  | .feq pd a t o s i g => some (packAM 0x37 pd.val a t o s i g)
  | .lrw d a t o s i g => some (packAM 0x38 d.val a t o s i g)
  | .sch d a t o s i g => some (packAM 0x39 d.val a t o s i g)
  | .rcan a t o s i g => some (packAM 0x3A 0 a t o s i g)
  | .fence s g => some (packAR 0x3B 0 0 0 (s.code * 2 ^ 3) g)
  | .put a idx b g => some (packAR 0x3C idx a b 0 g)
  | .arm d g => some (packAR 0x3D d 0 0 0 g)
  | .cpy m d a b t g => some (packAR (0x40 + m.code) d a b (t.val * 2) g)
  | .cpys m d a b t g => some (packAR (0x48 + m.code) d a b (t.val * 2) g)
  | .cpyd m d a b t g => some (packAR (0x50 + m.code) d a b (t.val * 2) g)
  | .twall a g => some (packAI 0x58 0 a 0 none g)
  | .twany a g => some (packAI 0x58 0 a 1 none g)
  | .tfirst d a g => some (packAI 0x58 d.val a 2 none g)
  | .tclr a g => some (packAI 0x58 0 a 3 none g)
  | .spawn a b g => some (packAR 0x60 0 a b 0 g)
  | .mig a b g => some (packAR 0x61 0 a b 0 g)
  | .launch a g => some (packAR 0x62 0 a 0 0 g)
  | .bar s a g => some (packAR 0x63 0 a 0 (s.code * 2 ^ 3) g)
  | .wlpush a g => some (packAR 0x64 0 a 0 0 g)
  | .wlpop d g => some (packAR 0x65 d 0 0 0 g)
  | .nred s a b g => some (packAR 0x66 0 a b (s.code * 2 ^ 3) g)
  | .rrec d a g => some (packAR 0x68 d a 0 0 g)
  | .emitToken a b g | .emitLogp a b g | .emitFault a b g => some (packAR 0x69 0 a b 0 g)
  | .stepend g => some (packAB 0x6A 0 none g)
  | .tstate d a b g => some (packAR 0x70 d a b 0x00 g)
  | .tsetStop d a b g | .tsetRun d a b g | .tsetSetpc d a b g => some (packAR 0x70 d a b 0x01 g)
  | .tresumeRetry d a b g | .tresumeSkip d a b g | .tresumeGo d a b g | .tresumeStop d a b g =>
    some (packAR 0x70 d a b 0x02 g)
  | .tkill d a b g | .tkillLaunch d a b g => some (packAR 0x70 d a b 0x03 g)
  | .fltrd d a g => some (packAR 0x70 d a 0 0x04 g)
  | .snuffDefine d a b g | .snuffFence d a b g | .snuffRelease d a b g | .snuffRead d a b g =>
    some (packAR 0x70 d a b 0x05 g)
  | .errlog d a g => some (packAR 0x70 d a 0 0x06 g)
  | .tlbfill a b g => some (packAR 0x70 0 a b 0x07 g)
  | .tlbinvPage a b g | .tlbinvAsn a b g | .tlbinvAll a b g => some (packAR 0x70 0 a b 0x08 g)
  | .mbxwait d a g => some (packAR 0x70 d a 0 0x09 g)
  | .preempt d a b g => some (packAR 0x70 d a b 0x0A g)
  | .savectx d a b g => some (packAR 0x70 d a b 0x0B g)
  | .restctx d a g => some (packAR 0x70 d a 0 0x0C g)
  | .enbud a b g => some (packAR 0x70 0 a b 0x0D g)
  | .nopV => some (packV 0 0 0 0 0 0)
  | .vadd d a b t r => some (packVR 0b00000 d a b t r.code)
  | .vsub d a b t r => some (packVR 0b00001 d a b t r.code)
  | .vmul d a b t r => some (packVR 0b00010 d a b t r.code)
  | .vdiv d a b t r => some (packVR 0b01000 d a b t r.code)
  | .vfma3 d a b t r => some (packVR 0b00111 d a b t r.code)
  | .vmin d a b t => some (packVR 0b00011 d a b t 0)
  | .vmax d a b t => some (packVR 0b00100 d a b t 0)
  | .vand d a b t => some (packVR 0b10000 d a b t 0)
  | .vor d a b t => some (packVR 0b10001 d a b t 0)
  | .vxor d a b t => some (packVR 0b10010 d a b t 0)
  | .vshl d a b t => some (packVR 0b10011 d a b t 0)
  | .vshr d a b t => some (packVR 0b10100 d a b t 0)
  | .vshra d a b t => some (packVR 0b10101 d a b t 0)
  | .vperm d a b t => some (packVR 0b10110 d a b t 0)
  | .vabs d a t => some (packVR 0b00101 d a 0 t 0)
  | .vneg d a t => some (packVR 0b00110 d a 0 t 0)
  | .vredmax d a t => some (packVR 0b11001 d a 0 t 0)
  | .vargmax d a t => some (packVR 0b11010 d a 0 t 0)
  | .vsqrt d a t r => some (packVR 0b01001 d a 0 t r.code)
  | .vrcp d a t r => some (packVR 0b01010 d a 0 t r.code)
  | .vrsq d a t r => some (packVR 0b01011 d a 0 t r.code)
  | .vexp2 d a t r => some (packVR 0b01100 d a 0 t r.code)
  | .vlog2 d a t r => some (packVR 0b01101 d a 0 t r.code)
  | .vtanh d a t r => some (packVR 0b01110 d a 0 t r.code)
  | .vredadd d a t r => some (packVR 0b11000 d a 0 t r.code)
  | .vcmp d a b t c => some (packV 2 d a b t.code c.code)
  | .vfma4 d a b c t r => some (packVF 3 d a b c t r.code)
  | .vsel d a b c t => some (packVF 4 d a b c t 0)
  | .vcvt d a dst src r => some (packV 5 d a 0 dst.code (src.code * 2 ^ 4 + r.code * 2))
  | .vbcast v g t => some (packV 6 v g 0 t.code 0)
  | .vext g v t i => some (packV 7 v g 0 t.code i.toNat)
  | .vld v g t i => some (packV 8 v g 0 t.code i.toNat)
  | .vst v g t i => some (packV 9 v g 0 t.code i.toNat)
  | .vgather v g x t i => some (packV 10 v g x t.code i.toNat)
  | .vscatter v g x t i => some (packV 11 v g x t.code i.toNat)
  | .vclaim g i => some (.v (BitVec.ofNat 32 (0b01100 * 2 ^ 27 + g.val * 2 ^ 22 + i.toNat * 2 ^ 15)))
  | .vyield => some (packV 0b01101 0 0 0 0 0)
  | .rep n sd sa sb =>
    some (.v (BitVec.ofNat 32 (0b10000 * 2 ^ 27 + n.toNat * 2 ^ 14 + sd.val * 2 ^ 11 + sa.val * 2 ^ 8 + sb.val * 2 ^ 5)))
  | .repgo => some (packV 0b10001 0 0 0 0 0)
  | .repend => some (packV 0b10001 0 0 0 0 1)
  | .mma t a b c f => some (packVM 0b0000 a b c t f.code)
  | .mmaz t a => some (packVM 0b0001 a 0 0 t 0)
  | .mclr t => some (packVM 0b0010 0 0 0 t 0)
  | .mrd t a b f => some (packVM 0b0011 a b 0 t f.code)
  | .mst t a b f => some (packVM 0b0100 a b 0 t f.code)
  | .mfmt t a => some (packVM 0b0101 a 0 0 t 0)
  | .mscale t a b => some (packVM 0b0110 a b 0 t 0)
  | .mcap a b c => some (packVM 0b0111 a b c 0 0)
  | .msend a b => some (packVM 0b1000 a b 0 0 0)
  | .mwait a => some (packVM 0b1001 a 0 0 0 0)
  | .rmap t a => some (packVM 0b1010 a 0 0 t 0)
  | .halt => some (packF 0x01 0 0 0 0 0 0 0)
  | .yield => some (packF 0x02 0 0 0 0 0 0 0)
  | .cnew c => some (packF 0x10 c 0 0 0 0 0 0)
  | .cbind c h => some (packF 0x11 c h 0 0 0 0 0)
  | .cfork c d => some (packF 0x12 c d 0 0 0 0 0)
  | .cfree c => some (packF 0x13 c 0 0 0 0 0 0)
  | .cset c h f => some (packF 0x14 c h 0 0 0 0 f.toNat)
  | .cget h c f => some (packF 0x15 h c 0 0 0 0 f.toNat)
  | .cwait c => some (packF 0x16 c 0 0 0 0 0 0)
  | .trunc c h => some (packF 0x17 c h 0 0 0 0 0)
  | .append c a n => some (packF 0x20 c a n 0 0 0 0)
  | .gen c n => some (packF 0x21 c n 0 0 0 0 0)
  | .score c a n d => some (packF 0x22 c a n d 0 0 0)
  | .choose c a n d => some (packF 0x23 c a n d 0 0 0)
  | .beam c k n => some (packF 0x24 c k n 0 0 0 0)
  | .spec c a n => some (packF 0x25 c a n 0 0 0 0)
  | .post a c => some (packF 0x30 a c 0 0 0 0 0)
  | .recv d a => some (packF 0x31 d a 0 0 0 0 0)
  | .hmov d s => some (packFS 0x40 d none 0 s)
  | .hadd d a s => some (packFS 0x41 d (some a) 0 s)
  | .hsub d a s => some (packFS 0x42 d (some a) 0 s)
  | .hcmp c d a s => some (packFS 0x43 d (some a) c.code s)
  | .hbr a i => some (packF 0x44 a 0 0 0 0 0 i.toNat)
  | .hjmp i => some (packF 0x45 0 0 0 0 0 0 i.toNat)
  | .hld d a i => some (packF 0x46 d a 0 0 0 0 i.toNat)
  | .hst s a i => some (packF 0x47 s a 0 0 0 0 i.toNat)
  | _ => none

/-- The decoder on the words of an instruction: what the machine reads back from them. -/
def decodeEnc : Enc → Option Instr
  | .a w x => (decodeA w.toNat x).toOption
  | .v w => (decodeV w.toNat).toOption
  | .f w => (decodeF w.toNat).toOption

end Sys2Proof
end

