-- ==== Sys2Proof/Machine/State.lean ====
section
/-! DEFINITION. The state of one VKL7-M module as plain data, and the state after module reset. Maps are lists of pairs
with strictly rising keys; a unit that a map does not list is as it is after reset. Fields that only the model needs
are marked MODEL. -/

namespace Sys2Proof.Machine

/-- A vector register: 64 lanes of 32 bits (R25). -/
abbrev Lanes := Vector Lane 64

/-! ## Names -/

/-- A thread: `core` is the core number of R31, or 16,384 + D for the service core of district D (R393, R455); `gen` is
the generation of R259. -/
structure TName where
  core : Nat
  slot : Nat
  gen : BitVec 12
  deriving DecidableEq, Repr

/-- Who makes an access (R155): a thread, an engine thread by its number (R395), an agent program (R342), the host port
by the place of a fill in its queue, 0 for its other accesses (R379), a Beacon port by the number of the remote access
it makes (R384), or the Chandler or the page engine, which hold count words, by the action that waits for them (R326). -/
inductive Who where
  | thread (t : TName)
  | engine (n : Nat)
  | agent (prog : Nat)
  | host (fill : Nat)
  | peer (port : Nat) (n : Nat)
  | chandler (act : Nat)
  | pager (act : Nat)
  deriving DecidableEq, Repr

/-! ## Accesses (chapters 7 to 9) -/

/-- The access forms of R148, and a copy engine's or MST's store of a destination word, with the F that its source words
give (R164). -/
inductive Form where
  | ld | st | ldw | ldc | stf | ste | lrw | sch | rcan | fest (full : Bool) | feq
  | copy (mode : CopyMode) (full : Bool)
  deriving DecidableEq, Repr

/-- One access on its way to a home bank: its form, addresses, size in bytes, the value stored, its issuer and that
issuer's launch, its order and scope, whether its next park follows a wake (R156: a re-park), whether it is posted (R173),
whether its issuer has supervisor privilege, its number as an open read of a gateway, or 0 (R207), whether its data are poisoned (R164, R409), and the bundle it comes from, 0 for none (R395). A relaxed load is
the only access with order .rx that is not posted. -/
structure Access where
  form : Form
  va : Word
  pa : Nat
  size : Nat
  data : Word
  who : Who
  ord : MemOrd
  scope : Scope
  repark : Bool
  posted : Bool
  sup : Bool
  launch : Word
  opened : Nat
  poison : Bool
  pc : Word
  deriving DecidableEq, Repr

/-- How a loaded value is placed in its destination (R177, R180, R182, R184). -/
inductive Dest where
  | none
  | reg (r : Reg) (t : Ity)
  | pred (p : PReg)
  | status (r : Reg)
  deriving DecidableEq, Repr

/-- The full/empty bit, the poison bit and the HOLD of a word (R147): the holder, the vigil record of a HOLD that found its
bank's parking table full (R153), and the bank's arrival number of the HOLD (R155). -/
structure Meta where
  full : Bool
  poison : Bool
  hold : Option Who
  holdRec : Option Nat
  holdSeq : Nat
  deriving DecidableEq, Repr

/-- A waiter of a word's vigil list (R150, R155): `spilled` is the index of its vigil record, when it is not in the
parking table; `seq` is the bank's arrival number. -/
structure Waiter where
  acc : Access
  seq : Nat
  spilled : Option Nat
  deriving DecidableEq, Repr

/-! ## A thread (chapters 2, 5, 21) -/

/-- The block-signature state (R113, R115). -/
structure Sig where
  state : BitVec 32
  exp : BitVec 22
  pv : Bool
  deriving DecidableEq, Repr

/-- The repetition buffer (R41, R45): LEN is the length of `code`. -/
structure Rep where
  count : BitVec 13
  iter : BitVec 13
  pos : Nat
  sd : Fin 8
  sa : Fin 8
  sb : Fin 8
  act : Bool
  cap : Bool
  code : List Lane
  deriving DecidableEq, Repr

/-- What a long-latency vector instruction writes when its reply arrives (R121, R122). -/
structure VWrite where
  v : VReg
  lanes : Lanes
  poison : BitVec 64
  flags : BitVec 6
  deriving DecidableEq, Repr

/-- One element of a vector access: its index, address and, for a store, its value (R135, R136). -/
structure Elem where
  idx : Nat
  va : Word
  pa : Nat
  data : Word
  poison : Bool
  deriving DecidableEq, Repr

/-- The kinds of copy (R191). -/
inductive CopyKind where
  | cpy | cpys | cpyd
  deriving DecidableEq, Repr

/-- A copy command as its kick carries it (R191, R192, R193, R405): the registers and control registers read at issue,
and the issuer; `spa` and `dpa` are the physical addresses of its ends as acceptance translated them, `word` its
slot word and `pc` its bundle. -/
structure CopyCmd where
  kind : CopyKind
  spa : Nat
  dpa : Nat
  mode : CopyMode
  dest : Word
  src : Word
  count : Word
  tag : Fin 64
  cpmbx : Word
  dpat : Word
  chkid : Word
  space : Word
  launch : Word
  name : TName
  sup : Bool
  word : Word
  pc : Word
  deriving DecidableEq, Repr

/-- A matrix command as its kick or MSEND carries it (R226, R246): fn, fmt, tile and the three register values, and the
issuer whose tags, flags and faults it uses. `cap` is the capability of MSEND, `word` the slot word or word 0 of the
record, `pc` its bundle, and `pa` the physical address of its window's first byte as acceptance translated it (R244); `old` and `oldX` are the bytes of the scratchpads it names, and their poisoned words, when it was accepted
(R234). -/
structure MatCmd where
  fn : BitVec 4
  fmt : BitVec 3
  tile : Tile
  a : Word
  b : Word
  c : Word
  space : Word
  launch : Word
  name : TName
  sup : Bool
  cap : Option Word
  word : Word
  pc : Word
  pa : Nat
  old : List (Nat × BitVec 8)
  oldX : List Nat
  deriving DecidableEq, Repr

/-- What SPAWN and MIG carry (R270); `resend` while the message waits for the next multiple of 4,096 cycles (R261);
`pc` and `word` are its bundle and slot word (R395, R396). -/
structure Carried where
  mig : Bool
  target : Nat
  entry : Word
  regs : Vector Word 10
  present : BitVec 10
  poison : BitVec 10
  pred : BitVec 8
  launch : Word
  space : Word
  priv : Bool
  coff : Nat
  words : List (Word × Bool × Bool)
  origin : TName
  resend : Bool
  pc : Word
  word : Word
  deriving DecidableEq, Repr

/-- A system request that travels to a target core or to the hub (R417). -/
inductive SysOp where
  | tstate (word : Nat)
  | tset (op : Nat) (pc : Word)
  | tresume (action : Nat) (pc : Word)
  | tkill (wholeLaunch : Bool)
  | snuff (region : Nat) (op : Nat) (rect : Word)
  | errlog (a : Word)
  | tlbinv (kind : Nat) (reach : Nat) (a : Word)
  | preempt (area : Word)
  | savectx (area : Word)
  | restctx (area : Word)
  | enbud (reach : Nat) (core : Nat) (refill : BitVec 16)
  deriving DecidableEq, Repr

/-- The output KINDs of EMIT (R314). -/
inductive EmitKind where
  | token | logp | fault
  deriving DecidableEq, Repr

/-- An output or an end that a step kernel hands to the Chandler (R314, R315). -/
structure Output where
  name : TName
  launch : Word
  bslot : Nat
  kind : EmitKind
  idx : Nat
  value : Word
  deriving DecidableEq, Repr

/-- An instruction that has issued and that the thread waits on (R18): what is still to be done. -/
inductive Op where
  | access (form : Form) (va : Word) (pa : Nat) (size : Nat) (data : Word) (ord : MemOrd) (scope : Scope) (dest : Dest)
  | vector (store : Bool) (v : VReg) (t : Ty) (todo : List Elem) (done : List Elem)
  | unit (w : VWrite)
  | put (target : Word) (idx : Reg) (value : Word) (poison : Bool)
  | fence (scope : Scope)
  | copy (c : CopyCmd)
  | tags (all : Bool) (mask : Word) (first : Option Reg)
  | spawn (c : Carried)
  | mig (c : Carried)
  | launch (addr : Word) (words : List Word)
  | bar (scope : Scope) (n : BitVec 16)
  | wlpush (v : Word) (poison : Bool)
  | wlpop (d : Reg)
  | nred (scope : Scope) (v : Word) (i : Word) (poison : Bool) (nrctl : Word)
  | rrec (d : Reg) (a : Word) (pa : Nat)
  | emit (o : Output)
  | stepend
  | sys (op : SysOp) (target : Word) (d : Option Reg)
  | mbx (d : Reg) (mask : BitVec 8)
  | matrix (c : MatCmd)
  | mwait (mask : BitVec 4)
  deriving DecidableEq, Repr

/-- Where an issued instruction stands: draining (R174), sent and awaiting its reply, parked on a word (R150), waiting
for a condition, held by a trap that service will answer (R162), or to issue again in full (R421). -/
inductive Phase where
  | drain | sent | parked | waiting | faulted | again
  deriving DecidableEq, Repr

/-- An issued instruction the thread waits on: the instruction, with the slot word it came from, for PEND of R429; `pc` is
its bundle, `next` where the thread goes on, and `sig` the signature state before the bundle (R113). -/
structure Pending where
  instr : Instr
  op : Op
  phase : Phase
  pc : Word
  next : Word
  word : Lane
  vslot : Bool
  repark : Bool
  sig : Sig
  deriving DecidableEq, Repr

/-- The outstanding relaxed load, from which its thread is not detached (R20, R178): the instruction, its bundle and slot
word; `joined` is the open read whose value it takes (R207), `faulted` when its fault waits for service, `was` whether its
destination was present before its issue (R421). -/
structure Relaxed where
  instr : Instr
  dest : Reg
  ty : Ity
  va : Word
  pa : Nat
  size : Nat
  scope : Scope
  pc : Word
  word : Lane
  joined : Option Nat
  faulted : Bool
  was : Bool
  deriving DecidableEq, Repr

/-- The states of R418 but NONE, which is an empty slot. A detached thread waits on its pending instruction, on an
absent register (3), starved (9), for replay (10), for an outstanding access, for a page walk (1) or on an MRD retry
(7); the number is WAIT of R419. A trapped thread keeps the cause of its message and TOOK. -/
inductive Run where
  | run
  | detached (wait : Nat) (object : Word)
  | trapped (cause : Nat) (took : Bool)
  | stopped
  | held
  deriving DecidableEq, Repr

/-- The registers and state of one thread (R21 to R35, R115, R157, R159, R192, R258, R267, R405, R418). `exiting`: EXIT has
issued and the thread ends once nothing of its bundle is outstanding (R111). `hold`: a PREEMPT waits for what the thread
has outstanding, and it issues nothing (R201, R430). `ahead`: the bundles fetched ahead, with their addresses (R86).
`woke`: one more than the cycle of its last release, 0 before any, since it issues only after that cycle (R19). `skipDest`:
the destination of the load in the bundle that last stopped without taking effect (R421). -/
structure Thread where
  regs : Vector Word 32
  present : BitVec 32
  poison : BitVec 32
  pred : BitVec 8
  pc : Word
  flags : BitVec 6
  vl : BitVec 7
  grant : BitVec 7
  want : BitVec 7
  gen : BitVec 12
  waitbud : BitVec 21
  space : Word
  cpmbx : Word
  launchid : Word
  nrctl : Word
  chkid : Word
  sig : Sig
  rep : Rep
  vregs : Vector Lanes 32
  vpoison : Vector (BitVec 64) 32
  priv : Bool
  run : Run
  stopq : Bool
  pend : List Pending
  relaxed : Option Relaxed
  msgbuf : Vector Word 8
  stepEnded : Bool
  prepaid : Bool
  exiting : Bool
  hold : Bool
  ahead : List (Word × Word)
  woke : Nat
  skipDest : Option Reg
  deriving DecidableEq, Repr

/-! ## A core (chapters 2, 7, 11, 21) -/

/-- A message record of eight words (R395). -/
abbrev Record := Vector Word 8

/-- A translation held in a TLB (R161, R426): its tags, the first page, the pages' size in bits, the leaf and, for a
first-level TLB, the slot. -/
structure TlbEntry where
  asn : BitVec 16
  slot : Option Nat
  page : Nat
  lg : Nat
  leaf : Word
  deriving DecidableEq, Repr

/-- A request in a core's miss mailbox (R161): the slot, the address and the kind of access that missed. -/
structure Walk where
  id : Nat
  slot : Nat
  gen : BitVec 12
  va : Word
  store : Bool
  fetch : Bool
  deriving DecidableEq, Repr

/-- An open reduction entry or a packet (R268), with the LAUNCHIDs of its contributors (R255). -/
structure NredEntry where
  key : Word
  v : Word
  i : Word
  count : Nat
  poison : Bool
  launches : List Word
  deriving DecidableEq, Repr

/-- What a HELD slot's core keeps for RESTCTX (R430): the latest PUT of each register, and whether a fence has ended the
barrier episode its thread waits in (R265). -/
structure HeldSlot where
  puts : List (Nat × (Word × Bool))
  barFault : Bool
  deriving DecidableEq, Repr

/-- The per-core state: slot generations (R259), ENERGY and ENCTL (R40), TAGS (R163), DPAT (R166), GUARD0 to GUARD7
(R146), the mailbox (R394), the spawn buffer and notice list (R261), the work list (R266), the open reductions (R268),
the first-level TLB and the miss mailbox (R161), and the slots waiting in MBXWAIT, oldest first (R423). -/
structure Core where
  slotGen : Vector (BitVec 12) 8
  held : List (Nat × HeldSlot)
  balance : BitVec 16
  starved : BitVec 7
  charges : List (Nat × Nat)
  refill : BitVec 16
  nextpp : Fin 7
  newRefill : Option (BitVec 16)
  tags : Word
  dpat : Word
  guards : Vector Word 8
  mailbox : List Record
  lost : BitVec 16
  spawnBuf : List (Nat × Carried)
  notices : List Nat
  reserved : List (Nat × Nat)
  worklist : List (Word × Bool)
  nred : List NredEntry
  tlb : List TlbEntry
  walks : List Walk
  mbxq : List Nat
  deriving DecidableEq, Repr

/-! ## A cluster (chapters 3, 8, 10) -/

/-- An accumulator element: its value as an integer of 96 bits, NAN, OVF, and its residue (R28, R58, R236). -/
structure Acc where
  x : Int
  nan : Bool
  ovf : Bool
  rho : Nat
  deriving DecidableEq, Repr

/-- The state of a tile (R224): elements by number 64 × row + column, those not listed being 0 and clear; REF; row
poison; TSHAPE; UA and UB; the row map, its poison marks; OWNERS. -/
structure TileState where
  elems : List (Nat × Acc)
  ref : Int
  rowPoison : BitVec 64
  tshape : Word
  ua : BitVec 8
  ub : BitVec 8
  rowMap : Vector (BitVec 8) 64
  mapPoison : BitVec 64
  owners : Nat
  deriving DecidableEq, Repr

/-- The fault that an engine holds its command on: cause, the reason of R386, and the virtual address (R165, R396). -/
structure HeldFault where
  cause : Nat
  reason : Nat
  va : Word
  deriving DecidableEq, Repr

/-- A running matrix command: how far it is (K-blocks done, or words stored), whether its operands are consumed, whether
only its completion is left, the operand bytes it consumed and their poisoned words, the flags it raised, and the
fault its MST is held on (R227, R235, R238, R244). -/
structure MatRun where
  cmd : MatCmd
  block : Nat
  consumed : Bool
  finished : Bool
  operands : List (Nat × (BitVec 8))
  poisoned : List Nat
  flags : BitVec 6
  held : Option HeldFault
  deriving DecidableEq, Repr

/-- The matrix unit of a cluster (R224 to R228, R237). -/
structure MatUnit where
  tiles : Vector TileState 4
  queue : List MatCmd
  run : Option MatRun
  marked : Bool
  deriving DecidableEq, Repr

/-- A running copy: destination bytes, or chunks, done; the flags raised; its wait budget (R156); the word its head waits on
(R433); source words read and not yet used, with F and X (R164, R194); for each source chunk the write counts of its sum at
the first and the last read (R406); whether its next park follows a wake; whether its
last byte has been written and its tag set (R198); the fault it is held on (R165). -/
structure CopyRun where
  cmd : CopyCmd
  done : Nat
  flags : BitVec 6
  budget : Nat
  parked : Option Word
  srcw : List (Nat × (Word × Bool × Bool))
  reads : List (Nat × (Nat × Nat))
  repark : Bool
  moved : Bool
  tagged : Bool
  held : Option HeldFault
  deriving DecidableEq, Repr

/-- The copy engine of a cluster (R193, R433). -/
structure CopyEngine where
  queue : List CopyCmd
  run : Option CopyRun
  cdone : BitVec 16
  marked : Bool
  deriving DecidableEq, Repr

/-- A store to SEGFMTn that waits until no command in flight names segment n (R66). -/
structure SegStore where
  seg : Nat
  acc : Access
  deriving DecidableEq, Repr

/-- A cluster: its second-level TLB (R161), the launch that holds it, whether it is withheld (R410), MCSTAMP (R225),
SEGFMT0 to SEGFMT15 (R65), waiting stores to them, the matrix unit and the copy engine. -/
structure Cluster where
  tlb : List TlbEntry
  holder : Option Nat
  withheld : Bool
  mcstamp : BitVec 12
  segfmt : Vector Word 16
  segWait : List SegStore
  mat : MatUnit
  copy : CopyEngine
  deriving DecidableEq, Repr

/-! ## A district (chapters 7, 15) -/

/-- A key-value port command in progress (R327): its kick, the words of its record, its issuer with that issuer's launch and bundle (R257, R395), its STATUS once it has
one, the raw bytes moved, whether it waits parked for its block's count word or with its completion, whether it next parks after a wake, and its wait budget
(R156). -/
structure KvRun where
  kick : Word
  record : List Word
  issuer : Option (TName × Word × Word)
  status : Option Nat
  moved : Nat
  parked : Bool
  repark : Bool
  budget : Nat
  deriving DecidableEq, Repr

/-- A district: VIGCTL, PEAK and the vigil records in use (R154, R155), the key-value port, whether it is marked, and the
thread that last stored to KVKICK, with its launch and bundle (R327, R411). USED is the number of records in use. -/
structure District where
  vigctl : Word
  peak : BitVec 24
  records : List Nat
  kv : Option KvRun
  kvMarked : Bool
  kickBy : Option (TName × Word × Word)
  deriving DecidableEq, Repr

/-! ## Launches (chapter 11) -/

/-- A barrier episode (R263): the scope code, the unit, the fixed N, and the arrivals. -/
structure Episode where
  scope : Nat
  place : Nat
  n : Option (BitVec 16)
  arrived : List TName
  deriving DecidableEq, Repr

/-- A live launch (R250, R253, R255, R257): its table entry's generation, stamp, record words, the issuer with the bundle and
slot word of its LAUNCH (R395, R396), flag word, clusters and their rank, whether a fault is recorded for it, whether supervisor software killed it, the binding and STEPSEQ of
the step it runs for the Chandler, and the clusters whose shape broadcast is not complete, with the bytes done, and those
whose broadcast a fault holds, with its cause (R254). -/
structure Launch where
  lgen : BitVec 12
  stamp : BitVec 12
  words : List Word
  space : Word
  cls : Nat
  priv : Bool
  issuer : TName
  pc : Word
  slotw : Word
  lflags : BitVec 6
  clusters : List (Nat × Nat)
  faulted : Bool
  killed : Bool
  step : Option (Nat × Nat)
  pendingShape : List (Nat × Nat)
  shapeHeld : List (Nat × Nat)
  episodes : List Episode
  deriving DecidableEq, Repr

/-- An accepted launch record in its class queue, or one that waits for a place (R252, R271). -/
structure LaunchRec where
  words : List Word
  space : Word
  cls : Nat
  priv : Bool
  issuer : TName
  pc : Word
  slotw : Word
  launch : Word
  step : Option (Nat × Nat)
  deriving DecidableEq, Repr

/-- A record on its way to a launch's fault mailbox (R398, R400): the mailbox, the space it is reached in, the launch's issuer, and
the district of the issuer of what faulted. -/
structure FmbxRec where
  addr : Word
  space : Word
  sup : Bool
  issuer : TName
  district : Nat
  record : Record
  deriving DecidableEq, Repr

/-- A completion word that the launch unit fills (R255, R256): the table entry that becomes free with it, its address, the
space and issuer it uses, the value, its wait budget, whether it is parked, and whether its next park follows a wake. -/
structure Cword where
  lid : Option Nat
  va : Word
  space : Word
  sup : Bool
  issuer : TName
  pc : Word
  slotw : Word
  launch : Word
  value : Word
  budget : Nat
  parked : Bool
  repark : Bool
  deriving DecidableEq, Repr

/-! ## The Chandler (chapters 14 to 18) -/

/-- The states of a word in a program's look-ahead (R304, R305). -/
inductive WordState where
  | waiting | issued
  deriving DecidableEq, Repr

/-- A word of a program's look-ahead, or one that has issued and is not complete: its address, its bits, its state, the
memory cause when its fetch faulted, and the address a RECV or POST read at its issue (R304, R305, R347). An illegal word
stands in the look-ahead as its bits (R90). `ops` are the h registers it read at its issue, and `toks` the tokens a CHOOSE
read, for one that waits for room (R305, R367). -/
structure PWord where
  addr : Word
  bits : Word
  st : WordState
  fault : Option Nat
  arg : Word
  ops : List Word
  toks : List (List Nat)
  deriving DecidableEq, Repr

/-- A binding of a context register: RIDX and RGEN (R300). -/
structure CBind where
  ridx : Nat
  rgen : BitVec 12
  deriving DecidableEq, Repr

/-- An agent program (R299, R300, R304): its descriptor, h and c registers, the next word to read, its look-ahead and
issued words, and the word at issue. -/
structure Program where
  desc : Word
  bind : Nat
  pclass : BitVec 2
  eclass : BitVec 4
  result : Word
  h : Vector Word 16
  c : Vector (Option CBind) 16
  pc : Word
  fetchStop : Bool
  words : List PWord
  atWord : Word
  deriving DecidableEq, Repr

/-- A request's row in the open step: batch slot, record, first position, tokens, its flags and the outputs held for
it (R309, R314). -/
structure Row where
  slot : Nat
  ridx : Nat
  pos0 : Nat
  ntok : Nat
  sample : Bool
  scoref : Bool
  recomp : Bool
  fault : Option Nat
  outputs : List (EmitKind × Nat × Word)
  joined : Option Nat
  deriving DecidableEq, Repr

/-- Where the launch of a step is: sent to the launch unit, placed, ended, or refused (R309, R315). -/
inductive StepLaunch where
  | none | sent | placed (lid : Nat) | ended | refused
  deriving DecidableEq, Repr

/-- A binding's step sequence (R297, R307 to R315): the STEPSEQ of the open step, or of the next; whether one is open, its
rows, its ends, its launch, whether it is a partial re-execution, the rows a flare named, the rows of a BEAM group that
wait for one of it that runs again (R317, R364), the rows of each step committed, and the requests that have committed in the
open step and that a flare has named since (R398, R408). -/
structure Bind where
  stepseq : BitVec 32
  isOpen : Bool
  rows : List Row
  ends : Nat
  st : StepLaunch
  reex : Bool
  flared : List Nat
  kept : List Row
  past : List (Nat × List Row)
  late : List Nat
  deriving DecidableEq, Repr

/-- A sharing of a common prefix (R306, R369): the request that computes it, the request that takes its blocks, and the
position it runs to. -/
structure Share where
  leader : Nat
  follower : Nat
  upto : Nat
  deriving DecidableEq, Repr

/-- A residency hold on a block (R334): its record and the deadlines still to pass. -/
structure ResHold where
  bind : Nat
  ridx : Nat
  rci : Nat
  left : Nat
  deriving DecidableEq, Repr

/-- The Chandler (R296, R298, R307, R334, R443): its configuration block, the next admission word of the rotation, whether
admission is paused, programs, the program whose word issues (MODEL), bindings, the raw contents of blocks by location,
with their poisoned words (R325), holds, planned promotions by request and count word, the device memory its firmware has
taken and the token strings by request, both as offsets (R351), the positions of each request whose tokens have not raised
their penalty counters (R359), how many positions its SHAREID covers (R306), sharings (R306), the records of each CHOOSE or BEAM (R363, R364), RESULT words on their way,
requests to abandon at a binding's next boundary (R345), the LAUNCHIDs of ended step launches with their binding and
STEPSEQ, and the records that reached it for them (R398), the identity that each identity becomes with a token, by the
number of the new one (R306, R359), the page engine's last move: from where, to where, and its bytes (R404), and what is left of
the wait budget of each of its commands, with whether its next park follows a wake (R156). -/
structure Chandler where
  config : Option (Vector Word 7)
  rotation : Nat
  paused : Bool
  programs : List (Nat × Program)
  cur : Nat
  binds : List (Nat × Bind)
  kvRaw : List (Nat × (List Byte × List Nat))
  holds : List ResHold
  promos : List (Nat × Nat)
  heap : List (Nat × Nat)
  strings : List (Nat × Nat)
  uncounted : List (Nat × List Nat)
  ident : List (Nat × Nat)
  shares : List Share
  groups : List (Nat × List Nat)
  results : List (Nat × (Word × Word))
  abandon : List (Nat × Nat)
  pastSteps : List (Word × Nat × Nat)
  lateFaults : List (Word × Record)
  shareIds : List (Nat × (Nat × Nat))
  lastMove : Option (Nat × Nat × Nat)
  pagerCmds : List (Nat × (Nat × Bool))
  deriving DecidableEq, Repr

/-! ## The host side and the hub (chapters 19, 21, 23) -/

/-- What a thread's reply brings (R19). -/
inductive Reply where
  | value (v : Word) (poison : Bool)
  | wake
  | fault (cause : Nat) (detail : Nat) (va vb vc : Word)
  | status (v : Word)
  | done
  deriving DecidableEq, Repr

/-- A snuff region entry (R412, R424). -/
structure Snuff where
  x0 : Nat
  y0 : Nat
  x1 : Nat
  y1 : Nat
  en : Bool
  auto : Bool
  fenced : Bool
  deriving DecidableEq, Repr

/-- The power states of R440. -/
inductive Power where
  | glow | dim | ember | dark
  deriving DecidableEq, Repr

/-- A remote access at its receiver, not yet answered (R384): the sender's name, whether it is posted there, the access as
it performs here, and its wait budget (R156). -/
structure Remote where
  sender : Nat
  posted : Bool
  acc : Access
  budget : Nat
  deriving DecidableEq, Repr

/-- A Beacon port: LINKUP (R210), its peer-window registers (R385), the remote accesses it makes by number, and the last
answer it sent, with the sender it went to (R384, R386). -/
structure Port where
  up : Bool
  pwbase : Word
  pwlim : Word
  pwspace : Word
  pwctl : Word
  remote : List (Nat × Remote)
  answer : Option (Nat × List Reply)
  deriving DecidableEq, Repr

/-- An entry of the Beacon holder table (R384): the port, the peer's thread, the word, and the number of the access that
took its HOLD. -/
structure Holder where
  port : Nat
  sender : Nat
  word : Nat
  n : Nat
  deriving DecidableEq, Repr

/-- A fill that the host port has parked (R379): the access and its wait budget. -/
structure Fill where
  acc : Access
  budget : Nat
  deriving DecidableEq, Repr

/-- The management mailbox (R442), the flash and its active-slot bit (R437), the measurement registers (R438), and a POWER
command that waits for the refill boundary (R441). -/
structure Mgmt where
  cmd : Word
  sts : Word
  payload : List Word
  recovery : Bool
  slotB : Bool
  flashA : List Byte
  flashB : List Byte
  mr : Vector (List Byte) 6
  powering : Option (Power × Nat)
  deriving DecidableEq, Repr

/-- A request of the host to the window: a read, or a write with its bytes as a little-endian number, at a window offset
(R377, R378). -/
inductive HostReq where
  | read (off : Nat) (size : Nat)
  | write (off : Nat) (size : Nat) (value : Nat)
  deriving DecidableEq, Repr

/-- The host port: the requests the host has sent, oldest first (R378), HWSEG0 to HWSEG31 (R377), HPSTAT (R380), whether its link has trained (R210), the parked fills by their
places (R379), the words of the last read that the port answered, with their poison marks, and those of the read it is at
(R378, R379). -/
structure HostPort where
  requests : List HostReq
  hwseg : Vector Word 32
  refcnt : BitVec 16
  reason : BitVec 4
  raddr : BitVec 39
  trained : Bool
  fills : List (Nat × Fill)
  answer : List (Word × Bool)
  part : List (Word × Bool)
  deriving DecidableEq, Repr

/-- A device error-log entry (R414). -/
abbrev LogEntry := Vector Word 4

/-! ## Messages in flight (R141, R175) -/

/-- A message on its way: to a home bank, a thread, a core, a unit or the hub. `flit` is the two words of an aligned 16-byte
pair, handled as one action (R209). `toBridge` is an access on its way to the gateway of its issuer's die, `fromBank` an
answer on its way back to it, with the word as the access left it (R207). -/
inductive Msg where
  | access (a : Access)
  | flit (a b : Access)
  | toBridge (die : Nat) (a : Access) (b : Option Access)
  | fromBank (die : Nat) (a : Access) (r : Reply) (word : Word)
  | reply (t : TName) (r : Reply)
  | relaxedReply (t : TName) (r : Reply)
  | refusedStore (t : TName) (launch : Word) (pc : Word) (cause : Nat) (reason : Nat) (va : Word) (pa : Nat)
  | refusedUnit (a : Access) (cause : Nat) (reason : Nat)
  | hostStore (a : Access)
  | put (sender : TName) (target : Word) (idx : Reg) (value : Word) (poison : Bool)
  | copyKick (c : CopyCmd)
  | matKick (c : MatCmd)
  | msend (c : MatCmd)
  | segWrite (a : Access)
  | vigctl (a : Access)
  | vigstat (a : Access)
  | unitReply (w : Who) (r : Reply)
  | sys (sender : TName) (op : SysOp) (target : Word) (begun : Bool)
  | launch (r : LaunchRec) (addr : Word)
  | spawn (sender : Nat) (seq : Nat)
  | slotFree (sender : Nat) (target : Nat) (slot : Nat)
  | nred (e : NredEntry)
  | record (core : Nat) (r : Record)
  | output (o : Output)
  | stepEnd (t : TName) (launch : Word)
  deriving DecidableEq, Repr

/-- A message in flight: its number, the cycle before which it does not arrive, and its path (R175). -/
structure Flight where
  id : Nat
  due : Nat
  path : Nat
  msg : Msg
  deriving DecidableEq, Repr

/-! ## The issue in progress and the module -/

/-- An open read of a gateway: the die, the word, and the read's number (R207). -/
structure OpenRead where
  die : Nat
  word : Nat
  id : Nat
  deriving DecidableEq, Repr

/-- MODEL. The bundle a thread issues: where, its address and bits, the instruction at issue, the thread as both slots read it (R15), the thread as
the slots have written it, where it goes on, whether it transferred control, and whether the bundle stopped without
taking effect. `active` says that `live` stands for the thread. -/
structure Issue where
  active : Bool
  core : Nat
  slot : Nat
  pc : Word
  bundle : Word
  instr : Instr
  word : Lane
  vslot : Bool
  snap : Thread
  live : Thread
  next : Word
  taken : Bool
  stopped : Bool
  deriving DecidableEq, Repr

/-- MODEL. What the outside does: a step of the module that it causes, a request to the host window, or the state of the
other modules' part of a group's barrier: GROUPID, scope, arrivals, and whether all of theirs have arrived (R263). -/
inductive Input where
  | event (i : Instr)
  | host (r : HostReq)
  | group (gid : BitVec 16) (scope : Fin 16) (arrived : Nat) (all : Bool)
  deriving DecidableEq, Repr

/-- MODEL. A move left in this cycle: a slot's turn (R14), a message's passage through a die bridge (R207), an agent
program's turn, or an indivisible step of the module. -/
inductive Move where
  | turn (core : Nat) (slot : Nat)
  | bridge (id : Nat)
  | event (i : Instr)
  | program (prog : Nat)
  deriving DecidableEq, Repr

/-- The whole module. -/
structure State where
  -- MODEL: the issue in progress, the moves left in this cycle, the outside's script, the free-value counter, and the
  -- number of the next message
  iss : Issue
  agenda : List Move
  inputs : List (Nat × Input)
  fresh : Nat
  nextId : Nat
  -- cycles since module reset (R14, R395), the clock and the power state (R440)
  cycle : Nat
  div : Nat
  power : Power
  -- threads by core × 8 + slot, cores, clusters, districts
  threads : List (Nat × Thread)
  cores : List (Nat × Core)
  clusters : List (Nat × Cluster)
  districts : List (Nat × District)
  -- memory: bytes by physical address, word metadata and vigil lists by word address (R140, R147)
  mem : List Host.Cell
  marks : List (Nat × Meta)
  waiters : List (Nat × List Waiter)
  -- the next arrival number of each bank (R150, R155)
  parkSeqs : List (Nat × Nat)
  -- MODEL: words whose cells fail their code at the next access (R409): 0 correctable, 1 once, 2 for good
  wordErrors : List (Nat × Nat)
  -- MODEL: messages whose flits fail their code when they arrive (R409), by number: the port, and whether for good
  flitErrors : List (Nat × (Nat × Bool))
  -- the write counts of the sum stores, by chunk (R406)
  sumWrites : List (Nat × Nat)
  flight : List Flight
  -- open reads at die bridges, oldest first (R207)
  openReads : List OpenRead
  -- the launch unit (R252, R253)
  queues : Vector (List LaunchRec) 4
  cwords : List Cword
  turn : Fin 15
  launches : List (Nat × Launch)
  -- MODEL: what the other modules of launch groups have brought to the episodes now open, by GROUPID × 16 + scope (R263):
  -- arrivals, and whether all of theirs have arrived
  groups : List (Nat × (Nat × Bool))
  lgens : List (Nat × BitVec 12)
  stamp : BitVec 12
  fmbxQueue : List FmbxRec
  -- snuff regions, the error log, the repair table (R410, R412, R414)
  snuffs : Vector Snuff 16
  log : List (Nat × LogEntry)
  logSeq : Nat
  -- the entries overwritten since module reset (R425)
  logLost : Nat
  repairs : List (Nat × Word)
  -- the Chandler, the host port, Beacon ports and their holder table, the management side
  chandler : Chandler
  host : HostPort
  ports : Vector Port 8
  holders : List Holder
  mgmt : Mgmt
  -- the module key of capabilities, as the number of its draw (R245)
  capKey : Nat
  deriving DecidableEq, Repr

/-! ## Reset -/

/-- The registers of a slot at allocation (R21, R30, R114, R157, R423); vector registers hold 0 before any grant (log
entry 3). -/
def Thread.init : Thread where
  regs := Vector.replicate 32 0
  present := BitVec.allOnes 32
  poison := 0
  pred := 1
  pc := 0
  flags := 0
  vl := 0
  grant := 0
  want := 0
  gen := 0
  waitbud := 0x100000#21
  space := 0
  cpmbx := 0
  launchid := 0
  nrctl := 0
  chkid := 0
  sig := ⟨0, 0, false⟩
  rep := ⟨0, 0, 0, 0, 0, 0, false, false, []⟩
  vregs := Vector.replicate 32 (Vector.replicate 64 0)
  vpoison := Vector.replicate 32 0
  priv := false
  run := .run
  stopq := false
  pend := []
  relaxed := none
  msgbuf := Vector.replicate 8 0
  stepEnded := false
  prepaid := false
  exiting := false
  hold := false
  ahead := []
  woke := 0
  skipDest := none

/-- No issue in progress. -/
def Issue.idle : Issue := ⟨false, 0, 0, 0, 0, .nopA 0, 0, false, Thread.init, Thread.init, 0, false, false⟩

/-- GUARD0 at reset: EN, X, W and RD, LIMIT 0xFFFF, BASE 0 (R146). -/
def guard0Reset : Word := 0x7_8000_FFFF_0000#64

/-- A core after module reset (R40, R146, R163, R166, R394). -/
def Core.reset : Core where
  slotGen := Vector.replicate 8 0
  held := []
  balance := 0x1000
  starved := 0
  charges := []
  refill := 0x1000
  nextpp := 0
  newRefill := none
  tags := 0
  dpat := 0
  guards := (Vector.replicate 8 0).set 0 guard0Reset
  mailbox := []
  lost := 0
  spawnBuf := []
  notices := []
  reserved := []
  worklist := []
  nred := []
  tlb := []
  walks := []
  mbxq := []

/-- A vector of `n` entries from a function of their number. -/
def vecOf {α : Type} (n : Nat) (f : Nat → α) : Vector α n := ⟨((List.range n).map f).toArray, by simp⟩

/-- The row map at reset: ACT set and SRC = n for row n (R225). -/
def rowMapReset : Vector (BitVec 8) 64 := vecOf 64 (fun n => BitVec.ofNat 8 (128 + n))

/-- A tile after reset (R224). -/
def TileState.reset : TileState := ⟨[], 0, 0, 0, 127, 127, rowMapReset, 0, 0⟩

/-- A cluster after module reset (R65, R193, R224, R433). -/
def Cluster.reset : Cluster where
  tlb := []
  holder := none
  withheld := false
  mcstamp := 0
  segfmt := Vector.replicate 16 0
  segWait := []
  mat := ⟨Vector.replicate 4 TileState.reset, [], none, false⟩
  copy := ⟨[], none, 0, false⟩

/-- A district after module reset (R154, R327). -/
def District.reset : District := ⟨0, 0, [], none, false, none⟩

/-- The state after module reset: no thread, every word 0, full and unpoisoned (R147), every unit as its `reset` says,
the module in GLOW with DIV 1 (R440), and, both slots of flash being empty, in recovery (R437; log entry 31). No program is
placed. -/
def State.reset : State where
  iss := Issue.idle
  agenda := []
  inputs := []
  fresh := 0
  nextId := 0
  cycle := 0
  div := 1
  power := .glow
  threads := []
  cores := []
  clusters := []
  districts := []
  mem := []
  marks := []
  waiters := []
  parkSeqs := []
  wordErrors := []
  flitErrors := []
  sumWrites := []
  flight := []
  openReads := []
  queues := Vector.replicate 4 []
  cwords := []
  turn := 0
  launches := []
  groups := []
  lgens := []
  stamp := 0
  fmbxQueue := []
  snuffs := Vector.replicate 16 ⟨0, 0, 0, 0, false, false, false⟩
  log := []
  logSeq := 0
  logLost := 0
  repairs := []
  chandler := ⟨none, 0, false, [], 0, [], [], [], [], [], [], [], [], [], [], [], [], [], [], [], none, []⟩
  host := ⟨[], Vector.replicate 32 0, 0, 0, 0, false, [], [], []⟩
  ports := Vector.replicate 8 ⟨false, 0, 0, 0, 0, [], none⟩
  holders := []
  mgmt := ⟨0, 0, List.replicate 128 0, true, false, [], [], Vector.replicate 6 (List.replicate 64 0), none⟩
  capKey := 0

/-! ## How a step ends otherwise -/

/-- A step that names a unit the module does not have. Safe: the module has no such unit, so no run of it takes the step.
-/
inductive Fault where
  /-- Raised by the steps of the module (file 95) when an operand numbers a core, cluster, district, port or segment
  that does not exist (R2, R144). Safe: such a step never happens. -/
  | noSuchUnit
  deriving DecidableEq, Repr

/-- Why a step is refused. -/
inductive Refusal where
  /-- Raised by `exec` for an instruction the model gives no meaning. Safe: the machine stops. -/
  | notModelled (mnemonic : String)
  /-- Raised by the steps of the module when what they name is not there: no such message is in flight, the unit has
  nothing to do, or its condition does not hold. Safe: such a step does not happen in that state. -/
  | notPending
  deriving DecidableEq, Repr

end Sys2Proof.Machine
end

