-- ==== Sys2Proof/Machine/Bits.lean ====
section
/-! DEFINITION. Bit fields of words, sorted maps, and byte lists: the helpers every other file of the machine uses. -/

namespace Sys2Proof.Machine

/-! ## Fields -/

/-- Bits `hi:lo` of a word as a number (R3). -/
def fld (w : Word) (hi lo : Nat) : Nat := bits w.toNat lo (hi + 1 - lo)
/-- Bit `n` of a word (R3). -/
def bit (w : Word) (n : Nat) : Bool := w.toNat / 2 ^ n % 2 == 1
/-- A number placed at bit `lo` of a word. -/
def place (n lo : Nat) : Word := BitVec.ofNat 64 (n * 2 ^ lo)
/-- A truth value as the number 1 or 0. -/
def b2n (b : Bool) : Nat := if b then 1 else 0
/-- `w` with the `n` bits from `lo` up replaced by the low bits of `v`. -/
def setFld (w : Word) (lo n v : Nat) : Word :=
  BitVec.ofNat 64 (w.toNat - bits w.toNat lo n * 2 ^ lo + v % 2 ^ n * 2 ^ lo)
/-- A number read as two's complement in `n` bits. -/
def toSigned (v n : Nat) : Int := if v % 2 ^ n < 2 ^ (n - 1) then (v % 2 ^ n : Nat) else (v % 2 ^ n : Nat) - (2 ^ n : Nat)
/-- An integer as a 64-bit word, mod 2^64. -/
def wordOf (i : Int) : Word := BitVec.ofInt 64 i

/-! ## Sorted maps -/

/-- The value at a key of a sorted map. -/
def mget {α : Type} : List (Nat × α) → Nat → Option α
  | [], _ => none
  | (k, v) :: r, n => if k = n then some v else mget r n

/-- A sorted map with a key set to a value. -/
def mset {α : Type} : List (Nat × α) → Nat → α → List (Nat × α)
  | [], n, a => [(n, a)]
  | (k, v) :: r, n, a =>
    if n < k then (n, a) :: (k, v) :: r else if n = k then (n, a) :: r else (k, v) :: mset r n a

/-- A sorted map without a key. -/
def mdel {α : Type} : List (Nat × α) → Nat → List (Nat × α)
  | [], _ => []
  | (k, v) :: r, n => if k = n then mdel r n else (k, v) :: mdel r n

/-- A sorted map with a key set, or removed when the value is the one an unlisted key stands for. -/
def mput {α : Type} [DecidableEq α] (dflt : α) (m : List (Nat × α)) (n : Nat) (a : α) : List (Nat × α) :=
  if a = dflt then mdel m n else mset m n a

/-- A list with its element at an index changed. -/
def lmod {α : Type} (f : α → α) : Nat → List α → List α
  | _, [] => []
  | 0, a :: r => f a :: r
  | n + 1, a :: r => a :: lmod f n r

/-- The lowest of `n` numbers from one on that satisfies a test. -/
def lowestFrom : Nat → Nat → (Nat → Bool) → Option Nat
  | 0, _, _ => none
  | n + 1, k, p => if p k then some k else lowestFrom n (k + 1) p
/-- The lowest number below a bound that satisfies a test. -/
def lowest (bound : Nat) (p : Nat → Bool) : Option Nat := lowestFrom bound 0 p

/-! ## Bytes -/

/-- The little-endian bytes of a number (R3). -/
def bytesOf : Nat → Nat → List Byte
  | 0, _ => []
  | k + 1, n => BitVec.ofNat 8 n :: bytesOf k (n / 256)

/-- The number of a little-endian byte list (R3). -/
def natOfBytes (l : List Byte) : Nat := l.foldr (fun b n => b.toNat + 256 * n) 0

/-! ## Vectors by number -/

/-- Lane `i` of a vector register; lanes beyond the register read 0. -/
def laneAt (v : Lanes) (i : Nat) : Lane := v.toList.getD i 0
/-- A word of a list; words beyond it read 0. -/
def wordAt (l : List Word) (i : Nat) : Word := l.getD i 0

end Sys2Proof.Machine
end

