-- ==== Sys2Proof/Machine/Float.lean ====
section
/-! DEFINITION. Number formats (R46 to R57), exact values and their rounding, the float operations of chapters 5 and 6,
and the accumulator's arithmetic (R59, R60, R62). Every operation gives its result's bits as a number and the flags it
raises. -/

namespace Sys2Proof

open Machine

/-- The flags of R33. -/
abbrev FlagBits := BitVec 6
def nxFlag : FlagBits := 0x01#6
def ufFlag : FlagBits := 0x02#6
def ofFlag : FlagBits := 0x04#6
def dzFlag : FlagBits := 0x08#6
def nvFlag : FlagBits := 0x10#6
def satFlag : FlagBits := 0x20#6
/-- A flag raised on a condition. -/
def flagIf (b : Bool) (f : FlagBits) : FlagBits := if b then f else 0

/-- The value of an element: a NaN, an infinity, or exactly (−1)^neg × m × 2^e. -/
inductive Val where
  | nan (signaling : Bool)
  | inf (neg : Bool)
  | fin (neg : Bool) (m : Nat) (e : Int)
  deriving DecidableEq, Repr

/-! ## The binary formats (R46, R49) -/

/-- The width of a float type in bits. -/
def Fty.width : Fty → Nat
  | .b16 | .h16 => 16
  | .f32 => 32
  | .f64 => 64
/-- Its precision. -/
def Fty.prec : Fty → Nat
  | .b16 => 8 | .h16 => 11 | .f32 => 24 | .f64 => 53
/-- Its exponent bias, which is also its greatest exponent. -/
def Fty.bias : Fty → Nat
  | .b16 => 127 | .h16 => 15 | .f32 => 127 | .f64 => 1023
/-- The canonical quiet NaN (R49). -/
def Fty.qnan : Fty → Nat
  | .b16 => 0x7FC0 | .h16 => 0x7E00 | .f32 => 0x7FC00000 | .f64 => 0x7FF8000000000000
/-- The infinity of a sign. -/
def Fty.infBits (t : Fty) (neg : Bool) : Nat := b2n neg * 2 ^ (t.width - 1) + (2 * t.bias + 1) * 2 ^ (t.prec - 1)
/-- The largest finite value of a sign. -/
def Fty.maxBits (t : Fty) (neg : Bool) : Nat := t.infBits neg - 1

/-- The value of a float's bits (R49). -/
def Fty.val (t : Fty) (n : Nat) : Val :=
  let f := bits n 0 (t.prec - 1)
  let x := bits n (t.prec - 1) (t.width - t.prec)
  let s := bits n (t.width - 1) 1 == 1
  if x = 2 * t.bias + 1 then
    if f = 0 then .inf s else .nan (bits n (t.prec - 2) 1 == 0)
  else if x = 0 then .fin s f (2 - (t.bias : Int) - t.prec)
  else .fin s (2 ^ (t.prec - 1) + f) ((x : Int) - t.bias - t.prec + 1)

/-- Whether a magnitude rounds up: `kept` quanta, a remainder of `rem` out of `2 * half`, and whether more lies below it
(R53). -/
def roundsUp (rm : Rm) (neg : Bool) (kept rem half : Nat) (sticky : Bool) : Bool :=
  match rm with
  | .rne => decide (half < rem) || (rem == half && (sticky || kept % 2 == 1))
  | .rtz => false
  | .rdn => neg && (rem != 0 || sticky)
  | .rup => !neg && (rem != 0 || sticky)
  | .rmm => decide (half ≤ rem)

/-- A magnitude m × 2^e (and a little more when `sticky`) cut to multiples of 2^q: the rounded count and whether it is
inexact. -/
def roundAt (rm : Rm) (neg : Bool) (m : Nat) (e q : Int) (sticky : Bool) : Nat × Bool :=
  if q ≤ e then (m * 2 ^ (e - q).toNat, sticky)
  else
    let k := (q - e).toNat
    let kept := m / 2 ^ k
    let rem := m % 2 ^ k
    (kept + b2n (roundsUp rm neg kept rem (2 ^ (k - 1)) sticky), rem != 0 || sticky)

/-- The result of an overflow by mode (R54). -/
def Fty.overflow (t : Fty) (rm : Rm) (neg : Bool) : Nat :=
  match rm with
  | .rne | .rmm => t.infBits neg
  | .rtz => t.maxBits neg
  | .rdn => if neg then t.infBits neg else t.maxBits neg
  | .rup => if neg then t.maxBits neg else t.infBits neg

/-- rnd of a finite value to a binary format (R54): overflow by mode, gradual underflow, tininess after rounding. The
exact value is (−1)^neg × m × 2^e, and a little more in magnitude when `sticky`. -/
def rndFin (t : Fty) (rm : Rm) (neg : Bool) (m : Nat) (e : Int) (sticky : Bool) : Nat × FlagBits :=
  if m = 0 then (b2n neg * 2 ^ (t.width - 1), 0)
  else
    let p : Int := t.prec
    let emin : Int := 1 - (t.bias : Int)
    let lead : Int := e + Nat.log2 m
    let q := max (lead - p + 1) (emin - p + 1)
    let (k, inexact) := roundAt rm neg m e q sticky
    let (free, _) := roundAt rm neg m e (lead - p + 1) sticky
    let tiny := decide (lead < emin) && !(decide (lead + 1 = emin) && decide (2 ^ t.prec ≤ free))
    let top := 2 ^ t.prec
    let (k, q) := if k = top then (k / 2, q + 1) else (k, q)
    let sgn := b2n neg * 2 ^ (t.width - 1)
    if k < 2 ^ (t.prec - 1) then (sgn + k, flagIf (inexact) nxFlag ||| flagIf (inexact && tiny) ufFlag)
    else if (t.bias : Int) < q + p - 1 then (t.overflow rm neg, ofFlag ||| nxFlag)
    else (sgn + (q + p - 1 + t.bias).toNat * 2 ^ (t.prec - 1) + (k - 2 ^ (t.prec - 1)),
      flagIf inexact nxFlag ||| flagIf (inexact && tiny) ufFlag)

/-- rnd of a value to a binary format (R54). -/
def rndVal (t : Fty) (rm : Rm) : Val → Nat × FlagBits
  | .nan s => (t.qnan, flagIf s nvFlag)
  | .inf neg => (t.infBits neg, 0)
  | .fin neg m e => rndFin t rm neg m e false

/-! ## Integer square root, exact sums and comparisons -/

/-- The largest r with r² ≤ n, built from bit `i` down. -/
def isqrtFrom (n : Nat) : Nat → Nat → Nat
  | 0, r => if (r + 1) * (r + 1) ≤ n then r + 1 else r
  | i + 1, r => isqrtFrom n i (if (r + 2 ^ (i + 1)) * (r + 2 ^ (i + 1)) ≤ n then r + 2 ^ (i + 1) else r)
/-- The integer square root. -/
def isqrt (n : Nat) : Nat := isqrtFrom n (Nat.log2 n / 2 + 1) 0

/-- A finite value as an integer count of 2^q, for q not above its exponent. -/
def scaled (neg : Bool) (m : Nat) (e q : Int) : Int :=
  let v : Int := (m * 2 ^ (e - q).toNat : Nat)
  if neg then -v else v

/-- Whether any of the values is a NaN, and whether one is signaling. -/
def Val.isNan : Val → Bool
  | .nan _ => true
  | _ => false
def Val.isSig : Val → Bool
  | .nan s => s
  | _ => false
/-- The sign of a value that is not a NaN. -/
def Val.neg : Val → Bool
  | .nan _ => false
  | .inf n => n
  | .fin n _ _ => n
def Val.isZero : Val → Bool
  | .fin _ 0 _ => true
  | _ => false
def Val.negate : Val → Val
  | .nan s => .nan s
  | .inf n => .inf !n
  | .fin n m e => .fin (!n) m e

/-- The exact sum of two finite values, with the sign of a zero sum by mode (R102). -/
def addFin (rm : Rm) (n1 : Bool) (m1 : Nat) (e1 : Int) (n2 : Bool) (m2 : Nat) (e2 : Int) : Val :=
  let q := min e1 e2
  let v := scaled n1 m1 e1 q + scaled n2 m2 e2 q
  if v = 0 then .fin (if m1 = 0 && m2 = 0 && n1 == n2 then n1 else rm == .rdn) 0 0
  else .fin (decide (v < 0)) v.natAbs q

/-- The order of two values that are not NaNs: the sign of a − b. -/
def cmpVal : Val → Val → Int
  | .inf true, .inf true => 0
  | .inf false, .inf false => 0
  | .inf true, _ => -1
  | .inf false, _ => 1
  | _, .inf true => 1
  | _, .inf false => -1
  | .fin n1 m1 e1, .fin n2 m2 e2 => scaled n1 m1 e1 (min e1 e2) - scaled n2 m2 e2 (min e1 e2)
  | _, _ => 0

/-! ## The operations of R102, R103 and R126 -/

/-- A result of an operation on values: rounded once, a NaN for an invalid operation, or a result without rounding. -/
inductive Res where
  | val (v : Val)
  | sticky (neg : Bool) (m : Nat) (e : Int)
  | invalid
  | divZero (neg : Bool)
  deriving DecidableEq, Repr

/-- Round a result, raising NV for a signaling operand (R49, R54, R102). -/
def finish (t : Fty) (rm : Rm) (sig : Bool) : Res → Nat × FlagBits
  | .val v => let r := rndVal t rm v; (r.1, r.2 ||| flagIf sig nvFlag)
  | .sticky neg m e => let r := rndFin t rm neg m e true; (r.1, r.2 ||| flagIf sig nvFlag)
  | .invalid => (t.qnan, nvFlag)
  | .divZero neg => (t.infBits neg, dzFlag)

/-- a + b. -/
def addRes (rm : Rm) : Val → Val → Res
  | .nan _, _ => .val (.nan false)
  | _, .nan _ => .val (.nan false)
  | .inf n1, .inf n2 => if n1 = n2 then .val (.inf n1) else .invalid
  | .inf n, _ => .val (.inf n)
  | _, .inf n => .val (.inf n)
  | .fin n1 m1 e1, .fin n2 m2 e2 => .val (addFin rm n1 m1 e1 n2 m2 e2)

/-- a × b. -/
def mulRes : Val → Val → Res
  | .nan _, _ => .val (.nan false)
  | _, .nan _ => .val (.nan false)
  | .inf n1, .inf n2 => .val (.inf (n1 != n2))
  | .inf n1, .fin n2 m _ => if m = 0 then .invalid else .val (.inf (n1 != n2))
  | .fin n1 m _, .inf n2 => if m = 0 then .invalid else .val (.inf (n1 != n2))
  | .fin n1 m1 e1, .fin n2 m2 e2 => .val (.fin (n1 != n2) (m1 * m2) (e1 + e2))

/-- a × b + c with one rounding: an infinity times zero is invalid even beside a quiet NaN addend (R102). -/
def fmaRes (rm : Rm) (a b c : Val) : Res :=
  match mulRes a b with
  | .val p => addRes rm p c
  | r => r

/-- a / b, to precision p (R102). -/
def divRes (p : Nat) : Val → Val → Res
  | .nan _, _ => .val (.nan false)
  | _, .nan _ => .val (.nan false)
  | .inf _, .inf _ => .invalid
  | .inf n1, .fin n2 _ _ => .val (.inf (n1 != n2))
  | .fin n1 _ _, .inf n2 => .val (.fin (n1 != n2) 0 0)
  | .fin n1 m1 e1, .fin n2 m2 e2 =>
    if m2 = 0 then (if m1 = 0 then .invalid else .divZero (n1 != n2))
    else
      let k := Nat.log2 m2 + p + 4
      let num := m1 * 2 ^ k
      if num % m2 = 0 then .val (.fin (n1 != n2) (num / m2) (e1 - e2 - k))
      else .sticky (n1 != n2) (num / m2) (e1 - e2 - k)

/-- sqrt(a), to precision p (R102). -/
def sqrtRes (p : Nat) : Val → Res
  | .nan _ => .val (.nan false)
  | .inf n => if n then .invalid else .val (.inf false)
  | .fin n m e =>
    if m = 0 then .val (.fin n 0 0)
    else if n then .invalid
    else
      let odd := (e % 2).toNat
      let k := p + 4
      let big := m * 2 ^ (2 * k + odd)
      let r := isqrt big
      if r * r = big then .val (.fin false r ((e - odd) / 2 - k)) else .sticky false r ((e - odd) / 2 - k)

/-- 1 / sqrt(a), to precision p (R126, R127). -/
def rsqrtRes (p : Nat) : Val → Res
  | .nan _ => .val (.nan false)
  | .inf n => if n then .invalid else .val (.fin false 0 0)
  | .fin n m e =>
    if m = 0 then .divZero n
    else if n then .invalid
    else
      let odd := (e % 2).toNat
      let m' := m * 2 ^ odd
      let k := p + 8 + Nat.log2 m'
      let r := isqrt (2 ^ (2 * k) / m')
      let e' := -((e - odd) / 2) - k
      if r * r * m' = 2 ^ (2 * k) then .val (.fin false r e') else .sticky false r e'

/-- The smaller or larger operand (R103); −0 is below +0. -/
def pickMax (t : Fty) (wantMax : Bool) (a b : Nat) : Nat × FlagBits :=
  let va := t.val a; let vb := t.val b
  if va.isNan || vb.isNan then (t.qnan, flagIf (va.isSig || vb.isSig) nvFlag)
  else
    let c := cmpVal va vb
    let aWins := if c = 0 then va.neg != wantMax else if wantMax then decide (0 < c) else decide (c < 0)
    (bits (if aWins then a else b) 0 t.width, 0)

/-- Two- and three-operand operations on the bits of a float type (R101, R102). -/
def fadd (t : Fty) (rm : Rm) (a b : Nat) : Nat × FlagBits :=
  finish t rm ((t.val a).isSig || (t.val b).isSig) (addRes rm (t.val a) (t.val b))
def fsub (t : Fty) (rm : Rm) (a b : Nat) : Nat × FlagBits :=
  finish t rm ((t.val a).isSig || (t.val b).isSig) (addRes rm (t.val a) (t.val b).negate)
def fmul (t : Fty) (rm : Rm) (a b : Nat) : Nat × FlagBits :=
  finish t rm ((t.val a).isSig || (t.val b).isSig) (mulRes (t.val a) (t.val b))
def fdiv (t : Fty) (rm : Rm) (a b : Nat) : Nat × FlagBits :=
  finish t rm ((t.val a).isSig || (t.val b).isSig) (divRes t.prec (t.val a) (t.val b))
def ffma (t : Fty) (rm : Rm) (a b c : Nat) : Nat × FlagBits :=
  finish t rm ((t.val a).isSig || (t.val b).isSig || (t.val c).isSig) (fmaRes rm (t.val a) (t.val b) (t.val c))
def fsqrt (t : Fty) (rm : Rm) (a : Nat) : Nat × FlagBits :=
  finish t rm (t.val a).isSig (sqrtRes t.prec (t.val a))
def frcp (t : Fty) (rm : Rm) (a : Nat) : Nat × FlagBits :=
  finish t rm (t.val a).isSig (divRes t.prec (.fin false 1 0) (t.val a))
def frsq (t : Fty) (rm : Rm) (a : Nat) : Nat × FlagBits :=
  finish t rm (t.val a).isSig (rsqrtRes t.prec (t.val a))
/-- VABS and VNEG of a float (R126). -/
def fabs (t : Fty) (a : Nat) : Nat × FlagBits :=
  match t.val a with
  | .nan s => (t.qnan, flagIf s nvFlag)
  | _ => (bits a 0 (t.width - 1), 0)
def fneg (t : Fty) (a : Nat) : Nat × FlagBits :=
  match t.val a with
  | .nan s => (t.qnan, flagIf s nvFlag)
  | v => (b2n (!v.neg) * 2 ^ (t.width - 1) + bits a 0 (t.width - 1), 0)

/-- The class bit of FCLASS (R104). -/
def fclass (t : Fty) (a : Nat) : Nat :=
  match t.val a with
  | .nan s => if s then 8 else 9
  | .inf n => if n then 0 else 7
  | .fin n m _ =>
    if m = 0 then (if n then 3 else 4)
    else if m < 2 ^ (t.prec - 1) then (if n then 2 else 5)
    else if n then 1 else 6

/-- The condition between two numbers given the sign of their difference (R75). -/
def condHolds (c : Cond) (d : Int) : Bool :=
  match c with
  | .eq => decide (d = 0)
  | .ne => decide (d ≠ 0)
  | .lt => decide (d < 0)
  | .le => decide (d ≤ 0)
  | .gt => decide (0 < d)
  | .ge => decide (0 ≤ d)
  | .un => false

/-- A float comparison and the NV it raises (R105). -/
def fcmp (t : Fty) (c : Cond) (a b : Nat) : Bool × FlagBits :=
  let va := t.val a; let vb := t.val b
  if va.isNan || vb.isNan then
    let quietOk : Bool := match c with
      | .eq | .ne | .un => true
      | _ => false
    (c == .ne || c == .un, flagIf (!quietOk || va.isSig || vb.isSig) nvFlag)
  else (condHolds c (cmpVal va vb), 0)

/-! ## The LN formats (R47, R50 to R52, R55, R128) -/

/-- The parameters w, bias and Lmax of R47; `ln6 = true` for LN6. -/
def lnW (ln6 : Bool) : Nat := if ln6 then 4 else 8
def lnBias (ln6 : Bool) : Nat := if ln6 then 20 else 64
def lnMax (ln6 : Bool) : Nat := if ln6 then 31 else 127
/-- The sign and L fields of a code (R46). -/
def lnS (ln6 : Bool) (n : Nat) : Bool := bits n (if ln6 then 5 else 7) 1 == 1
def lnL (ln6 : Bool) (n : Nat) : Nat := bits n 0 (if ln6 then 5 else 7)
/-- code(s, l). -/
def lnCode (ln6 : Bool) (s : Bool) (l : Nat) : Nat := b2n s * (if ln6 then 32 else 128) + l
/-- The tables T6 and T8 of R50. -/
def lnTable (ln6 : Bool) (f : Nat) : Nat :=
  (if ln6 then [0x400, 0x4C2, 0x5A8, 0x6BA] else [0x400, 0x45D, 0x4C2, 0x530, 0x5A8, 0x62B, 0x6BA, 0x756]).getD f 0

/-- The linear value of a sign and an exponent in code steps (R51). -/
def lnLinear (ln6 : Bool) (s : Bool) (e : Int) : Val :=
  let w : Int := lnW ln6
  .fin s (lnTable ln6 (e % w).toNat) (e / w - 10)

/-- lnval (R51). -/
def lnval (ln6 : Bool) (n : Nat) : Val :=
  if lnL ln6 n = 0 then (if lnS ln6 n then .nan false else .fin false 0 0)
  else lnLinear ln6 (lnS ln6 n) ((lnL ln6 n : Int) - lnBias ln6)

/-- lnprod (R51). -/
def lnprod (ln6 : Bool) (a b : Nat) : Val :=
  let la := lnL ln6 a; let lb := lnL ln6 b
  if (lnS ln6 a && la == 0) || (lnS ln6 b && lb == 0) then .nan false
  else if la = 0 || lb = 0 then .fin false 0 0
  else lnLinear ln6 (lnS ln6 a != lnS ln6 b) ((la : Int) + lb - 2 * lnBias ln6)

/-- An LN6 code widened to LN8 (R52). -/
def widen (n : Nat) : Nat :=
  if lnL true n = 0 then lnCode false (lnS true n) 0 else lnCode false (lnS true n) (2 * lnL true n + 24)

/-- lnround (R55). With x = m × 2^e, w × log2(x) has floor `log2 (m^w) + w × e`, and it is that integer exactly when m^w
is a power of two; doubling w gives the floor of twice the logarithm, hence rounding to nearest. -/
def lnround (ln6 : Bool) (rm : Rm) : Val → Nat × FlagBits
  | .nan s => (lnCode ln6 true 0, flagIf s nvFlag)
  | .inf s => (lnCode ln6 s (lnMax ln6), ofFlag ||| nxFlag)
  | .fin s m e =>
    if m = 0 then (lnCode ln6 false 0, 0)
    else
      let w := lnW ln6
      let pw := m ^ w
      let fl : Int := Nat.log2 pw + e * w + lnBias ln6
      let exact := pw == 2 ^ Nat.log2 pw
      let near : Int := (Nat.log2 (m ^ (2 * w)) + e * (2 * w) + 2 * lnBias ln6 + 1) / 2
      let away := (rm == .rup && !s) || (rm == .rdn && s)
      let k : Int := if rm == .rne || rm == .rmm then near else if away then (if exact then fl else fl + 1) else fl
      let above := decide ((lnMax ln6 : Int) < k)
      let k := if above then (lnMax ln6 : Int) else k
      if k < 1 then
        if away then (lnCode ln6 s 1, nxFlag) else (lnCode ln6 false 0, ufFlag ||| nxFlag)
      else (lnCode ln6 s k.toNat, flagIf above ofFlag ||| flagIf (!(exact && decide (k = fl))) nxFlag)

/-- VMUL of two LN codes (R128). -/
def lnmul (ln6 : Bool) (a b : Nat) : Nat × FlagBits :=
  let la := lnL ln6 a; let lb := lnL ln6 b
  if (lnS ln6 a && la == 0) || (lnS ln6 b && lb == 0) then (lnCode ln6 true 0, 0)
  else if la = 0 || lb = 0 then (lnCode ln6 false 0, 0)
  else
    let k : Int := (la : Int) + lb - lnBias ln6
    let s := lnS ln6 a != lnS ln6 b
    if (lnMax ln6 : Int) < k then (lnCode ln6 s (lnMax ln6), ofFlag ||| nxFlag)
    else if k < 1 then (lnCode ln6 false 0, ufFlag ||| nxFlag)
    else (lnCode ln6 s k.toNat, 0)

/-- The LN NaN (R47). -/
def lnIsNan (ln6 : Bool) (n : Nat) : Bool := lnL ln6 n == 0 && lnS ln6 n
/-- The place of a code in the order of nominal values (R128). -/
def lnOrder (ln6 : Bool) (n : Nat) : Int := if lnS ln6 n then -(lnL ln6 n : Int) else lnL ln6 n

/-! ## Types in general (R6, R75) -/

/-- The width of a type in bits (R46, R101, R106). -/
def Ty.width : Ty → Nat
  | .n8 | .s8 | .ln8 => 8
  | .n16 | .s16 | .b16 | .h16 => 16
  | .n32 | .s32 | .f32 => 32
  | .n64 | .s64 | .f64 => 64
  | .ln6 => 6
/-- A signed integer type. -/
def Ty.signed : Ty → Bool
  | .s8 | .s16 | .s32 | .s64 => true
  | _ => false
/-- The float type of a float code; f64 for the others, which no caller asks for. -/
def Ty.fty : Ty → Fty
  | .b16 => .b16 | .h16 => .h16 | .f32 => .f32 | _ => .f64
def Fty.ty : Fty → Ty
  | .b16 => .b16 | .h16 => .h16 | .f32 => .f32 | .f64 => .f64
def Ty.isLn6 : Ty → Bool
  | .ln6 => true
  | _ => false
def Ity.ty : Ity → Ty
  | .n8 => .n8 | .n16 => .n16 | .n32 => .n32 | .n64 => .n64 | .s8 => .s8 | .s16 => .s16 | .s32 => .s32 | .s64 => .s64
/-- The access size of an ity in bytes (R170). -/
def Ity.size (t : Ity) : Nat := t.ty.width / 8

/-- The integer an element's bits denote. -/
def Ty.int (t : Ty) (n : Nat) : Int := if t.signed then toSigned n t.width else (n % 2 ^ t.width : Nat)

/-- The value an element's bits denote (R56, R106). -/
def Ty.val (t : Ty) (n : Nat) : Val :=
  if t.isFloat then t.fty.val (bits n 0 t.width)
  else if t.isLn then lnval t.isLn6 n
  else .fin (decide (t.int n < 0)) (t.int n).natAbs 0

/-- rnd to an integer type: to an integer by mode, then saturated (R54). The result is the low bits of the type. -/
def rndInt (t : Ty) (rm : Rm) : Val → Nat × FlagBits
  | .nan _ => (0, nvFlag)
  | .inf neg => (clampTo t (if neg then -(2 ^ 70 : Int) else 2 ^ 70), satFlag)
  | .fin neg m e =>
    let (k, inexact) := roundAt rm neg m e 0 false
    let v : Int := if neg then -(k : Int) else k
    (clampTo t v, flagIf inexact nxFlag ||| flagIf (decide (v < lo t) || decide (hi t < v)) satFlag)
where
  lo (t : Ty) : Int := if t.signed then -(2 ^ (t.width - 1) : Nat) else 0
  hi (t : Ty) : Int := if t.signed then (2 ^ (t.width - 1) : Nat) - 1 else (2 ^ t.width : Nat) - 1
  clampTo (t : Ty) (v : Int) : Nat :=
    ((if v < lo t then lo t else if hi t < v then hi t else v) % (2 ^ t.width : Nat)).toNat

/-- The conversion of R106: the low bits of a result of type `dst` from an element of type `src`. A value of a type
converted to itself is canonicalised. -/
def convert (dst src : Ty) (rm : Rm) (a : Nat) : Nat × FlagBits :=
  if dst.isLn && dst == src then (bits a 0 dst.width, 0)
  else if dst.isFloat then rndVal dst.fty rm (src.val a)
  else if dst.isLn then lnround dst.isLn6 rm (src.val a)
  else rndInt dst rm (src.val a)

/-- An element's bits as a 64-bit register value: signed integers are sign-extended, everything else is zero-extended
(R101, R106, R132). -/
def Ty.extend (t : Ty) (n : Nat) : Word :=
  if t.signed then wordOf (toSigned n t.width) else BitVec.ofNat 64 (n % 2 ^ t.width)

/-! ## VEXP2, VLOG2 and VTANH (R127): the exact value cut at 320 fraction bits, with a sticky remainder -/

/-- The fraction bits carried. -/
def fxBits : Nat := 320
/-- One, in fixed point. -/
def fxOne : Nat := 2 ^ fxBits
/-- The series z + z³/3 + z⁵/5 + … in fixed point: `n` terms from the odd number `k`, with `p` the power of z. -/
def atanhSum (z2 : Nat) : Nat → Nat → Nat → Nat
  | 0, _, _ => 0
  | n + 1, k, p => p / k + atanhSum z2 n (k + 2) (p * z2 / fxOne)
/-- ln of num/den, a number from 1 to 2, in fixed point: 2 atanh((x − 1)/(x + 1)). -/
def fxLn (num den : Nat) : Nat :=
  let z := (num - den) * fxOne / (num + den)
  2 * atanhSum (z * z / fxOne) 110 1 z
/-- ln 2 in fixed point. -/
def fxLn2 : Nat := fxLn 2 1
/-- The exponential series in fixed point: `n` terms from term `k`, with `p` the current term. -/
def expSum (x : Nat) : Nat → Nat → Nat → Nat
  | 0, _, _ => 0
  | n + 1, k, p => p + expSum x n (k + 1) (p * x / fxOne / k)
/-- e^x of a fixed-point x from 0 to 1. -/
def fxExp (x : Nat) : Nat := expSum x 90 1 fxOne

/-- 2^a (R127). -/
def exp2Res : Val → Res
  | .nan _ => .val (.nan false)
  | .inf n => .val (if n then .fin false 0 0 else .inf false)
  | .fin n m e =>
    if m = 0 then .val (.fin false 1 0)
    else if 12 < e + Nat.log2 m then (if n then .sticky false (2 ^ 64) (-9000) else .sticky false (2 ^ 64) 9000)
    else if e < -(fxBits : Int) then .sticky false (if n then 2 ^ 64 - 1 else 2 ^ 64) (-64)
    else
      let v := scaled n m e (-(fxBits : Int))
      let fr := (v % (fxOne : Int)).toNat
      let i := v / (fxOne : Int)
      if fr = 0 then .val (.fin false 1 i)
      else .sticky false (fxExp (fr * fxLn2 / fxOne) / 2 ^ 60) (i - (fxBits : Int) + 60)

/-- log2(a) (R127). -/
def log2Res : Val → Res
  | .nan _ => .val (.nan false)
  | .inf n => if n then .invalid else .val (.inf false)
  | .fin n m e =>
    if m = 0 then .divZero true
    else if n then .invalid
    else
      let l := Nat.log2 m
      let i : Int := e + l
      if m = 2 ^ l then .val (.fin (decide (i < 0)) i.natAbs 0)
      else
        let fr := fxLn m (2 ^ l) * fxOne / fxLn2
        let v := i * (fxOne : Int) + fr
        .sticky (decide (v < 0)) (v.natAbs / 2 ^ 40) (40 - (fxBits : Int))

/-- tanh(a) (R127). -/
def tanhRes : Val → Res
  | .nan _ => .val (.nan false)
  | .inf n => .val (.fin n 1 0)
  | .fin n m e =>
    if m = 0 then .val (.fin n 0 0)
    else if e + Nat.log2 m < -40 then .sticky n (m * 2 ^ 64 - 1) (e - 64)
    else if 6 < e + Nat.log2 m then .sticky n (2 ^ 64 - 1) (-64)
    else
      let y := (scaled false m e (-(fxBits : Int))).toNat * 2
      let i := y / fxLn2
      let ex := fxExp (y - i * fxLn2) * 2 ^ i
      .sticky n ((ex - fxOne) * fxOne / (ex + fxOne) / 2 ^ 40) (40 - (fxBits : Int))

def fexp2 (t : Fty) (rm : Rm) (a : Nat) : Nat × FlagBits := finish t rm (t.val a).isSig (exp2Res (t.val a))
def flog2 (t : Fty) (rm : Rm) (a : Nat) : Nat × FlagBits := finish t rm (t.val a).isSig (log2Res (t.val a))
def ftanh (t : Fty) (rm : Rm) (a : Nat) : Nat × FlagBits := finish t rm (t.val a).isSig (tanhRes (t.val a))

/-! ## The accumulator (R58 to R62) -/

/-- satmax (R60). -/
def satmax (neg : Bool) : Int := if neg then -(2 ^ 95) else 2 ^ 95 - 1

/-- contrib for a pairing (R59): elements, their scales, as an exact value; NV of the BF16 case (R235), which a signaling
NaN raises whatever the scales (R49). -/
def contrib (f : Pairing) (a b : Nat) (ka kb : BitVec 8) : Val × FlagBits :=
  let sig : FlagBits := match f with
    | .b16 => flagIf ((Fty.b16.val a).isSig || (Fty.b16.val b).isSig) nvFlag
    | _ => 0
  if ka = 255 || kb = 255 then (.nan false, sig)
  else
    let p : Val × FlagBits :=
      match f with
      | .ln6 => (lnprod true a b, 0)
      | .ln8 => (lnprod false a b, 0)
      | .ln6ln8 => (lnprod false (widen a) b, 0)
      | .ln8ln6 => (lnprod false a (widen b), 0)
      | .s8 =>
        let v := toSigned a 8 * toSigned b 8
        (.fin (decide (v < 0)) v.natAbs 0, 0)
      | .b16 =>
        let va := Fty.b16.val a; let vb := Fty.b16.val b
        match mulRes va vb with
        | .val v => (v, sig)
        | _ => (.nan false, nvFlag)
    match p with
    | (.fin n m e, fl) => (.fin n m (e + ka.toNat + kb.toNat - 254), fl)
    | r => r

/-- accadd (R60): the element after one contribution, and the NX it raises. -/
def accadd (el : Acc) (c : Val) (ref : Int) : Acc × FlagBits :=
  match c with
  | .nan _ => ({ el with nan := true }, 0)
  | .inf n =>
    if el.nan then (el, 0)
    else if el.ovf && decide (el.x < 0) != n then ({ el with nan := true }, 0)
    else ({ el with x := satmax n, ovf := true }, 0)
  | .fin n m e =>
    if el.nan || el.ovf then (el, 0)
    else
      let q : Int := if ref ≤ e then scaled n m e ref else (scaled n m e e) / (2 ^ (ref - e).toNat : Nat)
      let exact : Bool := if ref ≤ e then true else (scaled n m e e) % (2 ^ (ref - e).toNat : Nat) == 0
      let y := el.x + q
      let fl := flagIf (!exact) nxFlag
      if satmax false < y then ({ el with x := satmax false, ovf := true }, fl)
      else if y < satmax true then ({ el with x := satmax true, ovf := true }, fl)
      else ({ el with x := y }, fl)

/-- The floored contribution q of R60, as the residue tree forms it; 0 for one that adds nothing (R236). -/
def flooredQ (c : Val) (ref : Int) : Int :=
  match c with
  | .fin n m e => if ref ≤ e then scaled n m e ref else (scaled n m e e) / (2 ^ (ref - e).toNat : Nat)
  | _ => 0

/-- The type of a readout target (R83). -/
def Target.ty : Target → Ty
  | .ln6 => .ln6 | .ln8 => .ln8 | .s8 => .s8 | .b16 => .b16 | .h16 => .h16 | .f32 => .f32 | .f64 => .f64

/-- readout (R62). -/
def readout (el : Acc) (ref : Int) (f : Target) : Nat × FlagBits :=
  let t := f.ty
  if el.nan then
    if t.isFloat then (t.fty.qnan, 0)
    else if t.isLn then (lnCode t.isLn6 true 0, 0) else (0, nvFlag)
  else if el.ovf then
    let n := decide (el.x < 0)
    if t.isFloat then (t.fty.infBits n, ofFlag)
    else if t.isLn then (lnCode t.isLn6 n (lnMax t.isLn6), ofFlag)
    else (if n then 0x80 else 0x7F, satFlag)
  else
    let v : Val := .fin (decide (el.x < 0)) el.x.natAbs ref
    if t.isFloat then rndVal t.fty .rne v
    else if t.isLn then lnround t.isLn6 .rne v else rndInt t .rne v

/-- The prime of the residue tree and of chunk sums, 2^61 − 1 (R224, R404). -/
def resPrime : Nat := 2 ^ 61 - 1
/-- An integer modulo that prime. -/
def resMod (x : Int) : Nat := (x % (resPrime : Int)).toNat

end Sys2Proof
end

