-- ==== Sys2Proof/Machine/Ops.lean ====
section
/-! DEFINITION. The named operations over the module's units, its memory and a thread's registers, the messages the units
send, and taking an exception: a trap's message record and what it leaves the thread (R92, R395, R398), with the return
from one beside it (R421). -/

namespace Sys2Proof.Machine

/-- What a meaning answers. -/
abbrev Out := Host.Outcome State Fault Refusal

/-! ## Places (R31, R144, R393) -/

/-- The number of the service core of district 0; service core D is this plus D. -/
def svcBase : Nat := 16384
/-- Whether a core number names a service core (R455). -/
def isSvc (core : Nat) : Bool := decide (svcBase ≤ core)
/-- The district of a core. -/
def districtOf (core : Nat) : Nat := if isSvc core then core - svcBase else core / 128
/-- The cluster of a core. A service core is given the number 2,048 + D, for its own lane pool and second-level TLB. -/
def clusterOf (core : Nat) : Nat := if isSvc core then 2048 + (core - svcBase) else core / 8
/-- The district of a cluster number, the numbers of service cores' pools included. -/
def districtOfCluster (cl : Nat) : Nat := if cl < 2048 then cl / 16 else cl - 2048
/-- The die of a core. -/
def dieOf (core : Nat) : Nat := districtOf core / 16
/-- The cores that share a cluster's lane pool. -/
def coresOf (cl : Nat) : List Nat :=
  if cl < 2048 then (List.range 8).map (fun k => 8 * cl + k) else [svcBase + (cl - 2048)]
/-- The number of a thread's place in `State.threads`. -/
def tid (core slot : Nat) : Nat := core * 8 + slot
/-- The 14-bit core field of a name: a service core gives its district in bits 13:7 (R395). -/
def coreField (core : Nat) : Nat := if isSvc core then (core - svcBase) * 128 else core
/-- A thread's name laid out as in R188. -/
def TName.bits (n : TName) : Nat := n.gen.toNat * 2 ^ 17 + coreField n.core * 8 + n.slot

/-! ## Units -/

/-- A core; one the state does not list is as after reset. -/
def State.core (s : State) (c : Nat) : Core := (mget s.cores c).getD Core.reset
def State.setCore (s : State) (c : Nat) (k : Core) : State := { s with cores := mset s.cores c k }
def State.modCore (s : State) (c : Nat) (f : Core → Core) : State := s.setCore c (f (s.core c))
/-- A cluster. -/
def State.cluster (s : State) (c : Nat) : Cluster := (mget s.clusters c).getD Cluster.reset
def State.setCluster (s : State) (c : Nat) (k : Cluster) : State := { s with clusters := mset s.clusters c k }
def State.modCluster (s : State) (c : Nat) (f : Cluster → Cluster) : State := s.setCluster c (f (s.cluster c))
/-- A district. -/
def State.district (s : State) (d : Nat) : District := (mget s.districts d).getD District.reset
def State.setDistrict (s : State) (d : Nat) (k : District) : State := { s with districts := mset s.districts d k }
def State.modDistrict (s : State) (d : Nat) (f : District → District) : State := s.setDistrict d (f (s.district d))
/-- The thread at a place. -/
def State.thread (s : State) (t : Nat) : Option Thread := mget s.threads t
def State.setThread (s : State) (t : Nat) (th : Thread) : State := { s with threads := mset s.threads t th }
def State.modThread (s : State) (t : Nat) (f : Thread → Thread) : State :=
  match s.thread t with
  | some th => s.setThread t (f th)
  | none => s
def State.dropThread (s : State) (t : Nat) : State := { s with threads := mdel s.threads t }
/-- The place of the thread a name names, when it is live with that generation (R260). -/
def State.named (s : State) (n : TName) : Option Thread :=
  match s.thread (tid n.core n.slot) with
  | some th => if th.gen = n.gen then some th else none
  | none => none
def State.modNamed (s : State) (n : TName) (f : Thread → Thread) : State :=
  match s.named n with
  | some th => s.setThread (tid n.core n.slot) (f th)
  | none => s
/-- The threads of a core, with their slots. -/
def State.slotsOf (s : State) (core : Nat) : List (Nat × Thread) :=
  (List.range 7).filterMap (fun k => (s.thread (tid core k)).map (fun th => (k, th)))
/-- The threads that share a cluster's lane pool (R36, R455). -/
def State.poolThreads (s : State) (cl : Nat) : List Thread :=
  (coresOf cl).flatMap (fun c => (s.slotsOf c).map (fun p => p.2))
/-- A live launch. -/
def State.launch (s : State) (lid : Nat) : Option Launch := mget s.launches lid
def State.modLaunch (s : State) (lid : Nat) (f : Launch → Launch) : State :=
  match s.launch lid with
  | some l => { s with launches := mset s.launches lid (f l) }
  | none => s
/-- A LAUNCHID value's launch number, and its launch when LID and LGEN match a live one (R257, R258). -/
def lidOf (launchid : Word) : Nat := fld launchid 23 12
def State.launchOf (s : State) (launchid : Word) : Option Launch :=
  match s.launch (lidOf launchid) with
  | some l => if l.lgen.toNat = fld launchid 35 24 then some l else none
  | none => none
/-- Flags of an asynchronous operation go to LFLAGS of the launch, when it is live (R399). -/
def State.launchFlags (s : State) (launchid : Word) (f : FlagBits) : State :=
  match s.launchOf launchid with
  | some _ => s.modLaunch (lidOf launchid) (fun l => { l with lflags := l.lflags ||| f })
  | none => s

/-! ## Memory bytes (R3, R144, R147) -/

/-- What a byte that memory does not list reads as (R147; log entry 4 for host memory and peer apertures). -/
def Memory.unlisted : Byte := 0
/-- The canonical form: addresses strictly rising, and no byte equal to what an unlisted address reads as. -/
def Memory.wfFrom (lo : Nat) : List Host.Cell → Bool
  | [] => true
  | (a, b) :: r => decide (lo ≤ a) && b != Memory.unlisted && Memory.wfFrom (a + 1) r
def Memory.wf (m : List Host.Cell) : Bool := Memory.wfFrom 0 m
/-- One byte. -/
def Memory.read (m : List Host.Cell) (a : Nat) : Byte := (mget m a).getD Memory.unlisted
/-- Memory with one byte written. -/
def Memory.write : List Host.Cell → Nat → Byte → List Host.Cell
  | [], a, b => if b = Memory.unlisted then [] else [(a, b)]
  | (k, v) :: r, a, b =>
    if a < k then (if b = Memory.unlisted then (k, v) :: r else (a, b) :: (k, v) :: r)
    else if a = k then (if b = Memory.unlisted then r else (a, b) :: r)
    else (k, v) :: Memory.write r a b
/-- `n` bytes from an address up, as a little-endian number (R3). -/
def Memory.readN (m : List Host.Cell) (a : Nat) : Nat → Nat
  | 0 => 0
  | n + 1 => (Memory.read m a).toNat + 256 * Memory.readN m (a + 1) n
/-- The low `n` bytes of a number written from an address up. -/
def Memory.writeN (m : List Host.Cell) (a : Nat) : Nat → Nat → List Host.Cell
  | 0, _ => m
  | n + 1, v => Memory.writeN (Memory.write m a (BitVec.ofNat 8 v)) (a + 1) n (v / 256)

def State.readN (s : State) (a n : Nat) : Nat := Memory.readN s.mem a n
def State.readWord (s : State) (a : Nat) : Word := BitVec.ofNat 64 (s.readN a 8)
def State.writeN (s : State) (a n v : Nat) : State := { s with mem := Memory.writeN s.mem a n v }
def State.writeWord (s : State) (a : Nat) (v : Word) : State := s.writeN a 8 v.toNat

/-! ## Messages (R141, R175) -/

/-- A message on its way. It arrives in a later cycle, and never before an earlier message of its path (R175); how much
later is free (R141; log entry 2). -/
def State.send (s : State) (path : Nat) (m : Msg) : State :=
  let due := ((s.flight.filter (fun f => f.path == path)).map (fun f => f.due)).foldl Nat.max
    (s.cycle + 1 + Config.delay s.nextId)
  { s with flight := s.flight ++ [⟨s.nextId, due, path, m⟩], nextId := s.nextId + 1 }
/-- The message with a number, and the state without it. -/
def State.msg? (s : State) (id : Nat) : Option Msg := (s.flight.find? (fun f => f.id == id)).map (fun f => f.msg)
def State.take (s : State) (id : Nat) : State := { s with flight := s.flight.filter (fun f => f.id != id) }
/-- Path numbers: a kind and two ends. -/
def path (kind a b : Nat) : Nat := (a * 2 ^ 24 + b) * 16 + kind
/-- A fresh number for a free value. -/
def State.bump (s : State) : State := { s with fresh := s.fresh + 1 }
/-- A move added to those left in this cycle, before all others. -/
def State.soon (s : State) (i : Instr) : State := { s with agenda := .event i :: s.agenda }
/-- A move added after those left in this cycle. -/
def State.later (s : State) (i : Instr) : State := { s with agenda := s.agenda ++ [.event i] }

/-! ## Message records (R395) -/

/-- The fields of a message record. -/
structure RecordFields where
  cls : Nat
  cause : Nat
  detail : Nat := 0
  eng : Bool := false
  svc : Bool := false
  fenced : Bool := false
  took : Bool := false
  name : Nat := 0
  pc : Word := 0
  va : Word := 0
  vb : Word := 0
  launch : Word := 0
  time : Nat := 0
  vc : Word := 0
  vd : Word := 0
  deriving DecidableEq, Repr

/-- The eight words of a message record (R395). -/
def RecordFields.record (f : RecordFields) : Record :=
  #v[place f.cls 60 ||| place f.cause 52 ||| place (f.detail % 2 ^ 16) 36 ||| place (b2n f.eng) 35
      ||| place (b2n f.svc) 34 ||| place (b2n f.fenced) 30 ||| place (b2n f.took) 29 ||| place (f.name % 2 ^ 29) 0,
    f.pc, f.va, f.vb, f.launch, BitVec.ofNat 64 f.time, f.vc, f.vd]

/-- A record on its way to a core's mailbox (R394), from a unit of a given district. -/
def State.sendRecord (s : State) (core : Nat) (r : Record) : State := s.send (path 1 core 0) (.record core r)

/-- The mesh coordinates of a cluster (R412). -/
def meshX (cl : Nat) : Nat := 16 * (cl / 256 % 4) + 4 * (cl / 16 % 16 % 4) + cl % 16 % 4
def meshY (cl : Nat) : Nat := 16 * (cl / 256 / 4) + 4 * (cl / 16 % 16 / 4) + cl % 16 / 4
/-- Whether a snuff rectangle covers a cluster; it never covers a service core's place (R393, R412). -/
def Snuff.covers (r : Snuff) (cl : Nat) : Bool :=
  decide (cl < 2048) && decide (r.x0 ≤ meshX cl) && decide (meshX cl ≤ r.x1) && decide (r.y0 ≤ meshY cl)
    && decide (meshY cl ≤ r.y1)
/-- Whether a cluster lies in a fenced region (R413). -/
def State.isFenced (s : State) (cl : Nat) : Bool := s.snuffs.toList.any (fun r => r.fenced && r.covers cl)
/-- Whether a SNUFF release of a region is in flight. -/
def State.releasing (s : State) (n : Nat) : Bool :=
  s.flight.any (fun f => match f.msg with
    | .sys _ (.snuff r 2 _) _ _ => r == n
    | _ => false)
/-- The enabled region with AUTO that a poison trap of a cluster fences (R402): one that is open, or that a release in flight
opens first (R432). -/
def State.autoRegion (s : State) (cl : Nat) : Option Nat :=
  lowest 16 (fun n => (s.snuffs.toList[n]?.map (fun r =>
    r.en && r.auto && (!r.fenced || s.releasing n) && r.covers cl)).getD false)

/-! ## The error log (R414, R415) -/

/-- A unit's location: kind and number (R415). -/
def loc (kind n : Nat) : Nat := kind * 2 ^ 28 + n
/-- The location of a core or of a service core. -/
def coreLoc (core : Nat) : Nat := if isSvc core then loc 14 (core - svcBase) else loc 0 (core / 8 * 64 + core % 8)
/-- A name as a 64-bit value, with bit 41 for a thread of a service core (R417). -/
def TName.word (n : TName) : Word := place n.bits 0 ||| place (b2n (isSvc n.core)) 41
/-- An entry of the device error log: SEV, REPAIR, CAUSE, LOC, WHO and WHAT (R414). -/
def State.logEntry (s : State) (sev : Nat) (repair : Bool) (cause loc : Nat) (who what : Word) : State :=
  let e : LogEntry := #v[place 1 63 ||| place sev 61 ||| place (b2n repair) 60 ||| place cause 52 ||| place (loc % 2 ^ 32) 0,
    BitVec.ofNat 64 s.cycle, who, what]
  { s with
    log := mset s.log (s.logSeq % 4096) e
    logSeq := s.logSeq + 1
    logLost := s.logLost + (if s.logSeq < 4096 then 0 else 1) }

/-! ## Taking an exception (R92, R395, R398) -/

/-- A trap's fields beside the thread's: cause, DETAIL and VA, VB, VC (R396). -/
structure Trap where
  cause : Nat
  detail : Nat := 0
  va : Word := 0
  vb : Word := 0
  vc : Word := 0
  deriving DecidableEq, Repr

/-- TAKING AN EXCEPTION, the message: the record of a trap goes to the service core of the thread's district (R398). A
poison trap inside a region with AUTO fences it in the same cycle and says so (R402). -/
def State.sendTrap (s : State) (core slot : Nat) (gen : BitVec 12) (launch pc : Word) (took : Bool) (t : Trap) : State :=
  let region := if t.cause = 0x10 then s.autoRegion (clusterOf core) else none
  let r : RecordFields := {
    cls := 1, cause := t.cause, detail := t.detail, svc := isSvc core, fenced := region.isSome, took := took,
    name := TName.bits ⟨core, slot, gen⟩, pc := pc, va := t.va, vb := t.vb, launch := launch, time := s.cycle,
    vc := t.vc }
  let s := s.sendRecord (svcBase + districtOf core) r.record
  match region with
  | some n => s.soon (.autoFence n)
  | none => s

/-- TAKING AN EXCEPTION, the thread: it is TRAPPED with a cause, TOOK saying whether its bundle took effect, and discards the
bundles it has fetched ahead (R92, R86, R418). -/
def Thread.toTrap (th : Thread) (cause : Nat) (took : Bool) : Thread := { th with run := .trapped cause took, ahead := [] }

/-- TAKING AN EXCEPTION at issue, the bundle taking no effect in either slot: the message is sent, the program counter
stays at the bundle and the thread is TRAPPED until TRESUME answers (R92, R398). -/
def trap (t : Trap) (s : State) : State :=
  let s1 := s.sendTrap s.iss.core s.iss.slot s.iss.snap.gen s.iss.snap.launchid s.iss.pc false t
  { s1 with iss := { s1.iss with stopped := true, live := s1.iss.snap.toTrap t.cause false } }

/-- TAKING AN EXCEPTION after the bundle took effect (TOOK; R98, R114, R403): the thread goes on after the bundle once
service answers. -/
def trapTook (t : Trap) (s : State) : State :=
  let s1 := s.sendTrap s.iss.core s.iss.slot s.iss.snap.gen s.iss.snap.launchid s.iss.pc true t
  { s1 with iss := { s1.iss with live := s1.iss.live.toTrap t.cause true } }

/-- The first entry of a thread's pending instructions, changed. -/
def Thread.modHead (th : Thread) (f : Pending → Pending) : Thread :=
  match th.pend with
  | [] => th
  | p :: r => { th with pend := f p :: r }

/-- TAKING AN EXCEPTION of an issued access whose fault its target found (R162, R456): the thread is TRAPPED at the bundle
and the access waits for service. -/
def State.trapPending (s : State) (core slot : Nat) (t : Trap) : State :=
  match s.thread (tid core slot) with
  | none => s
  | some th =>
    match th.pend with
    | [] => s
    | p :: _ =>
      let s := s.sendTrap core slot th.gen th.launchid p.pc false t
      s.setThread (tid core slot)
        { (th.modHead (fun p => { p with phase := .faulted })).toTrap t.cause false with pc := p.pc }

/-- A thread that rejoins: a pending stop takes hold once nothing is outstanding (R420). -/
def Thread.rejoin (th : Thread) : Thread :=
  if th.stopq && th.pend.isEmpty then { th with run := .stopped, stopq := false } else { th with run := .run }

/-- Whether a pending access or a relaxed load of the thread holds a fault for service. -/
def Thread.heldAccess (th : Thread) : Bool :=
  (match th.pend with
    | p :: _ => decide (p.phase = .faulted)
    | [] => false) || (match th.relaxed with
    | some r => r.faulted
    | none => false)

/-- The access that faulted issues again in full, as a new instance, at the thread's next turn; the thread then goes on after
its bundle (R156, R171, R421). -/
def Thread.reissue (th : Thread) : Thread :=
  match th.pend with
  | p :: _ =>
    if p.phase = .faulted then { th.modHead (fun p => { p with phase := .again, repark := false }) with pc := p.next }
    else th
  | [] => th

/-- The access that faulted and the instructions of its bundle still pending are dropped, the bundle leaving the signature
state as it was (R113), and an EXIT in it having no effect (R111, R421). A pre-payment is lost (R39). -/
def Thread.dropHeld (th : Thread) : Thread :=
  match th.pend with
  | p :: _ =>
    if p.phase = .faulted then { th with pend := [], prepaid := false, exiting := false, sig := p.sig } else th
  | [] => { th with prepaid := false }

/-- The destinations of the loads of a bundle that is passed over become present (R421): those of the accesses that faulted or
are pending with it, and that of the load of a bundle that trapped at issue, whatever its guard reads (log entry 42). -/
def Thread.freeSkipped (th : Thread) : Thread :=
  match th.pend, th.skipDest with
  | p :: _, _ =>
    if p.phase = .faulted then
      { th with present := th.pend.foldl (fun b p => match p.op with
          | .access _ _ _ _ _ _ _ (.reg r _) | .access _ _ _ _ _ _ _ (.status r) => b ||| BitVec.twoPow 32 r.val
          | _ => b) th.present }
    else th
  | [], some d => { th with present := th.present ||| BitVec.twoPow 32 d.val }
  | [], none => th

/-- A relaxed load whose fault waits for service is dropped, its destination present when the test on whether it was present
before the issue says so: always for a skip, and only if it was when the bundle takes no effect (R421). -/
def Thread.dropRelaxed (th : Thread) (frees : Bool → Bool) : Thread :=
  match th.relaxed with
  | some r =>
    if r.faulted then
      { th with relaxed := none, present := if frees r.was then th.present ||| BitVec.twoPow 32 r.dest.val else th.present }
    else th
  | none => th
/-- The bundle a thread is TRAPPED or STOPPED at takes no effect, and the program counter goes elsewhere (R39, R420, R421). -/
def Thread.leaveFor (th : Thread) (pc : Word) : Thread := { th.dropHeld.dropRelaxed id with pc := pc, prepaid := false }

/-- RETURN FROM AN EXCEPTION: what a TRESUME action does to a TRAPPED thread (R421). Retry sends the faulting access again
as a new instance, or issues the bundle again; skip moves past the bundle and drops the access, a load's destination
becoming present; go sets the program counter; stop leaves the thread STOPPED at the bundle. A relaxed load whose fault
service answers leaves the program counter, which is past its bundle, unless go sets it. A pre-payment is lost when the
program counter leaves its bundle (R39); a starved slot that no refill has paid keeps its STARVED bit and its charge (log
entry 91). -/
def Thread.resume (th : Thread) (took : Bool) (action : Nat) (target : Word) : Thread :=
  let late := match th.relaxed with
    | some r => r.faulted
    | none => false
  match action with
  | 0 => if took then th.rejoin else th.reissue.rejoin
  | 1 =>
    if took then th.rejoin
    else if late then (th.dropRelaxed (fun _ => true)).rejoin
    else ({ th.freeSkipped.dropHeld with pc := th.pc + 8 }).rejoin
  | 2 =>
    if took then ({ th with pc := target, prepaid := false }).rejoin
    else (th.leaveFor target).rejoin
  | _ => { th with run := .stopped, stopq := false }

/-! ## A thread's registers (R21 to R24, R31 to R35) -/

/-- The value of a general register. -/
def Thread.reg (th : Thread) (r : Reg) : Word := th.regs[r.val]
def Thread.isPresent (th : Thread) (r : Reg) : Bool := th.present.getLsbD r.val
def Thread.isPoisoned (th : Thread) (r : Reg) : Bool := th.poison.getLsbD r.val
/-- A bit of a 32-bit mask set or cleared. -/
def setBit {n : Nat} (m : BitVec n) (i : Nat) (b : Bool) : BitVec n :=
  if b then m ||| BitVec.twoPow n i else m &&& ~~~BitVec.twoPow n i
/-- A written register becomes present; its poison bit is the one given (R22, R23). -/
def Thread.setReg (th : Thread) (r : Reg) (v : Word) (poison : Bool) : Thread :=
  { th with regs := th.regs.set r.val v, present := setBit th.present r.val true, poison := setBit th.poison r.val poison }
/-- A predicate; p0 is always true (R24). -/
def Thread.predAt (th : Thread) (p : PReg) : Bool := decide (p.val = 0) || th.pred.getLsbD p.val
/-- A predicate written; a write to p0 is discarded (R24). -/
def Thread.setPred (th : Thread) (p : PReg) (b : Bool) : Thread :=
  if p.val = 0 then th else { th with pred := setBit th.pred p.val b }
/-- The predicate word (R32). -/
def Thread.predWord (th : Thread) : BitVec 8 := th.pred ||| 1
/-- Flags ORed into FLAGS (R33). -/
def Thread.raise (th : Thread) (f : FlagBits) : Thread := { th with flags := th.flags ||| f }
/-- A thread's THREADGEN × 2^17 + SLOT name (R188). -/
def State.issName (s : State) : TName := ⟨s.iss.core, s.iss.slot, s.iss.snap.gen⟩

/-! ## The issue in progress (R15) -/

/-- The thread as the slots of the bundle write it. -/
def live (f : Thread → Thread) (s : State) : State := { s with iss := { s.iss with live := f s.iss.live } }
/-- A general register written by the issuing bundle. -/
def writeReg (d : Reg) (v : Word) (poison : Bool) (s : State) : State := live (fun th => th.setReg d v poison) s
/-- Flags the issuing bundle raises. -/
def raiseFlags (f : FlagBits) (s : State) : State := live (fun th => th.raise f) s
/-- A transfer of control (R107). -/
def transfer (target : Word) (s : State) : State := { s with iss := { s.iss with next := target, taken := true } }
/-- The bundle does not issue: the thread detaches and issues it again in full (R18, R19); the number is that of R419. -/
def stopWait (wait : Nat) (object : Word) (s : State) : State :=
  { s with iss := { s.iss with stopped := true, live := { s.iss.snap with run := .detached wait object } } }
/-- The instruction issues and the thread waits on it (R18). -/
def detach (op : Op) (ph : Phase) (s : State) : State :=
  live (fun th => { th with pend := th.pend ++ [⟨s.iss.instr, op, ph, s.iss.pc, s.iss.next, s.iss.word, s.iss.vslot, false, s.iss.snap.sig⟩] }) s

end Sys2Proof.Machine
end

