-- ==== Sys2Proof/Machine/Operands.lean ====
section
/-! DEFINITION. Every operand form of the A slot: the guard (R91, R171, R417), presence (R18, R91), poison (R23, R401) and
immediates (R73, R76), and the address forms of the AM instructions (R170) and of the transfers (R107). -/

namespace Sys2Proof.Machine

/-! ## Immediates (R73, R76) -/

/-- A two's-complement immediate, sign-extended to 64 bits; with an extension, X and the field together (R76). -/
def immSigned {n : Nat} (i : Imm n) : Word :=
  match i.ext with
  | some x => (x ++ i.field).signExtend 64
  | none => i.field.signExtend 64
/-- The immediate of MOVHI, unsigned (R73, R76). -/
def immUnsigned {n : Nat} (i : Imm n) : Word :=
  match i.ext with
  | some x => (x ++ i.field).zeroExtend 64
  | none => i.field.zeroExtend 64
/-- off3 of the AM formats: unsigned alone, signed with an extension (R73, R76). -/
def immOff (i : Imm 3) : Word :=
  match i.ext with
  | some x => (x ++ i.field).signExtend 64
  | none => i.field.zeroExtend 64
/-- The target of BR, CALL and LOOP: bundles from the bundle's own address (R107). -/
def relTarget {n : Nat} (pc : Word) (i : Imm n) : Word := pc + immSigned i * 8
/-- The target of JMP: bits 24:3 of the bundle's address replaced, or bits 51:3 with an extension (R107, R76). -/
def jmpTarget (pc : Word) (i : Imm 22) : Word :=
  match i.ext with
  | some x => setFld pc 3 49 (x ++ i.field).toNat
  | none => setFld pc 3 22 i.field.toNat
/-- The virtual address of an AM form (R170). -/
def amAddress (th : Thread) (a : Reg) (t : Ity) (off : Imm 3) : Word := th.reg a + immOff off * BitVec.ofNat 64 t.size

/-! ## Guard, presence and poison -/

/-- Whether the guard reads true (R91). -/
def guardOn (g : PReg) (s : State) : Bool := s.iss.snap.predAt g
/-- An A-slot instruction under its guard: a false guard reads nothing and does nothing (R91). -/
def guarded (g : PReg) (body : State → State) (s : State) : State := if guardOn g s then body s else s
/-- The first absent register of a list. -/
def absentOf (th : Thread) (rs : List Reg) : Option Reg := rs.find? (fun r => !th.isPresent r)
/-- A body that reads registers: an absent one detaches the thread, and the bundle issues again in full (R18, R91). -/
def needs (rs : List Reg) (body : State → State) (s : State) : State :=
  match absentOf s.iss.snap rs with
  | some r => stopWait 3 (BitVec.ofNat 64 r.val) s
  | none => body s
/-- Whether any register of a list is poisoned (R23). -/
def anyPoison (th : Thread) (rs : List Reg) : Bool := rs.any th.isPoisoned
/-- The poison message of a register and its use (R396). -/
def poisonTrap (r : Reg) (use : Nat) : Trap := { cause := 0x10, detail := r.val + 32 * use }
/-- The first poisoned operand among registers with their uses. -/
def poisonOf (th : Thread) (rs : List (Reg × Nat)) : Option (Reg × Nat) := rs.find? (fun p => th.isPoisoned p.1)
/-- A body whose operands must not be poisoned: a poisoned one traps with cause 0x10, the bundle taking no effect
(R401). -/
def clean (rs : List (Reg × Nat)) (body : State → State) (s : State) : State :=
  match poisonOf s.iss.snap rs with
  | some p => trap (poisonTrap p.1 p.2) s
  | none => body s
/-- Supervisor privilege of the issuing thread (R393). -/
def isSup (s : State) : Bool := s.iss.snap.priv
/-- A body that only a supervisor thread may issue; a user thread traps with cause 0x12 and the DETAIL given (R396,
R417). -/
def supervisor (detail : Nat) (body : State → State) (s : State) : State :=
  if isSup s then body s else trap { cause := 0x12, detail := detail } s

/-! ## Shared instruction shapes -/

/-- An A-slot instruction that reads registers and writes one: the result is poisoned when a source is (R91, R23), and its
flags are ORed into FLAGS. -/
def alu (d : Reg) (srcs : List Reg) (g : PReg) (f : Thread → Word × FlagBits) (s : State) : State :=
  guarded g (needs srcs fun s =>
    let r := f s.iss.snap
    raiseFlags r.2 (writeReg d r.1 (anyPoison s.iss.snap srcs) s)) s

/-- A comparison of two sources, or of one with an immediate, that writes a predicate (R97, R98, R105): with a poisoned
source the bundle takes effect and the thread then detaches with a poison message naming the register, the first of two
(DEDUCED: log entry 78). -/
def compare (pd : PReg) (srcs : List Reg) (g : PReg) (f : Thread → Bool × FlagBits) (s : State) : State :=
  guarded g (needs srcs fun s =>
    let r := f s.iss.snap
    let s := raiseFlags r.2 (live (fun th => th.setPred pd r.1) s)
    match poisonOf s.iss.snap (srcs.map fun r => (r, 1)) with
    | some p => trapTook (poisonTrap p.1 p.2) s
    | none => s) s

end Sys2Proof.Machine
end

