-- ==== Sys2Proof/Machine/Flags.lean ====
section
/-! DEFINITION. The flag computations of the integer group (R95) and the register maps of FLAGS, VL, WAITBUD and the other
control registers' fields as CRR reads them and CRW writes them (R7, R29 to R35, R116). The flags of float, LN and
conversion results are computed with the results, in Float.lean (R54, R55, R102 to R106). -/

namespace Sys2Proof.Machine

/-! ## Division (R95) -/

/-- DIV and REM as s64: quotient, remainder and flags. -/
def divSigned (a b : Word) : (Word × FlagBits) × (Word × FlagBits) :=
  if b = 0 then ((0, dzFlag), (a, dzFlag))
  else if a = BitVec.ofInt 64 (-2 ^ 63) ∧ b = BitVec.ofInt 64 (-1) then ((BitVec.ofNat 64 (2 ^ 63 - 1), satFlag), (0, 0))
  else
    let q := a.toInt.tdiv b.toInt
    ((wordOf q, 0), (wordOf (a.toInt - q * b.toInt), 0))
/-- DIVN and REMN as n64. -/
def divUnsigned (a b : Word) : (Word × FlagBits) × (Word × FlagBits) :=
  if b = 0 then ((0, dzFlag), (a, dzFlag))
  else ((BitVec.ofNat 64 (a.toNat / b.toNat), 0), (BitVec.ofNat 64 (a.toNat % b.toNat), 0))

/-! ## Control-register fields -/

/-- SLOT (R31). -/
def slotWord (core slot : Nat) : Word := place (b2n (isSvc core)) 17 ||| place (coreField core) 3 ||| place slot 0
/-- REPST (R45). -/
def repstWord (r : Rep) : Word :=
  place r.count.toNat 35 ||| place r.iter.toNat 22 ||| place r.code.length 17 ||| place r.pos 13 ||| place r.sd.val 10
    ||| place r.sa.val 7 ||| place r.sb.val 4 ||| place (b2n r.act) 1 ||| place (b2n r.cap) 0
/-- SIGST (R115). -/
def sigWord (g : Sig) : Word := place (b2n g.pv) 54 ||| place g.exp.toNat 32 ||| place g.state.toNat 0
/-- ENERGY (R40). -/
def energyWord (c : Core) : Word := place c.starved.toNat 16 ||| place c.balance.toNat 0
/-- ENCTL (R40). -/
def enctlWord (c : Core) : Word := place c.refill.toNat 16 ||| place c.nextpp.val 0
/-- MBXST (R394). -/
def mbxstWord (c : Core) : Word := place c.lost.toNat 32 ||| place c.mailbox.length 0
/-- NETCAP (R210). -/
def netcapWord (s : State) : Word :=
  place ((List.range 8).foldl (fun n i => n + b2n ((s.ports.toList[i]?.map (fun p => p.up)).getD false) * 2 ^ i) 0) 32
    ||| place (if s.host.trained then 8 else 0) 24 ||| 0x201001#64
/-- A write to VL: above GRANT it writes GRANT (R34). -/
def vlWrite (grant : BitVec 7) (v : Word) : BitVec 7 :=
  if grant.toNat < fld v 6 0 then grant else BitVec.ofNat 7 (fld v 6 0)
/-- A write to WAITBUD: LEFT above 0x10_0000 writes 0x10_0000 (R157). -/
def waitbudWrite (v : Word) : BitVec 21 := if 0x100000 < fld v 20 0 then 0x100000#21 else BitVec.ofNat 21 (fld v 20 0)
/-- A write of REFILL: below 64 it is written as 64 (R40, R428). -/
def refillWrite (n : Nat) : BitVec 16 := if n < 64 then 64#16 else BitVec.ofNat 16 n
/-- The writable fields of DPAT (R166), of a GUARD register (R146), of SPACE (R159), of CPMBX (R192) and
of NRCTL (R267); the fields of LAUNCHID (R258). -/
def dpatMask : Word := 0xFFFF00FFF7#64
def guardMask : Word := 0x7_8000_FFFF_FFFF#64
def spaceMask : Word := 0xFFFF00FFFFFFFFFF#64
def cpmbxMask : Word := 0x00FFFFFFFFFFFFF9#64
def nrctlMask : Word := 0xFFFFFF1F1FFFFFFF#64
def launchidMask : Word := 0x0000FFFFFFFFF003#64

end Sys2Proof.Machine
end

