-- ==== Sys2Proof/Machine/CtrlReg.lean ====
section
/-! DEFINITION. CRR, CRW and CRX (R116, R117), over every control register of R29. -/

namespace Sys2Proof.Machine

/-- The value of a control register at the reader's turn (R29 to R45, R115, R117). -/
def cregRead (s : State) (th : Thread) : Creg → Word
  | .slot => slotWord s.iss.core s.iss.slot
  | .threadgen => place th.gen.toNat 0
  | .pred => place th.predWord.toNat 0
  | .flags => place th.flags.toNat 0
  | .vl => place th.vl.toNat 0
  | .grant => place th.grant.toNat 0
  | .present => place th.present.toNat 0
  | .poison => place th.poison.toNat 0
  | .energy => energyWord (s.core s.iss.core)
  | .enctl => enctlWord (s.core s.iss.core)
  | .repst => repstWord th.rep
  | .tags => (s.core s.iss.core).tags
  | .waitbud => place th.waitbud.toNat 0
  | .dpat => (s.core s.iss.core).dpat
  | .netcap => netcapWord s
  | .space => th.space
  | .sigst => sigWord th.sig
  | .cpmbx => th.cpmbx
  | .launchid => th.launchid
  | .nrctl => th.nrctl
  | .chkid => th.chkid
  | .mbxst => mbxstWord (s.core s.iss.core)
  | .guard n => (s.core s.iss.core).guards[n.val]

/-- A control register takes a value, field by field (R7, R116); one that no instruction writes keeps its value. -/
def cregWrite (c : Creg) (v : Word) (s : State) : State :=
  match c with
  | .pred => live (fun th => { th with pred := BitVec.ofNat 8 (fld v 7 0) ||| 1 }) s
  | .flags => live (fun th => { th with flags := BitVec.ofNat 6 (fld v 5 0) }) s
  | .vl => live (fun th => { th with vl := vlWrite th.grant v }) s
  | .waitbud => live (fun th => { th with waitbud := waitbudWrite v }) s
  | .space => live (fun th => { th with space := v &&& spaceMask }) s
  | .cpmbx => live (fun th => { th with cpmbx := v &&& cpmbxMask }) s
  | .nrctl => live (fun th => { th with nrctl := v &&& nrctlMask }) s
  | .chkid => live (fun th => { th with chkid := v }) s
  | .enctl => s.modCore s.iss.core (fun k => { k with refill := refillWrite (fld v 31 16) })
  | .dpat => s.modCore s.iss.core (fun k => { k with dpat := v &&& dpatMask })
  | .guard n => s.modCore s.iss.core (fun k => { k with guards := k.guards.set n.val (v &&& guardMask) })
  | .slot | .threadgen | .grant | .present | .poison | .energy | .repst | .tags | .netcap | .sigst | .launchid
  | .mbxst => s

/-- The registers that only supervisor threads write (R29, R116). -/
def cregSup : Creg → Bool
  | .enctl | .space | .guard _ => true
  | _ => false

/-- A body that writes a control register: privilege (R116), then poison of the value (R116, use 4 of R396); the presence of
its sources comes before both (DEDUCED: log entry 78). -/
def cregGuarded (c : Creg) (a : Reg) (body : State → State) (s : State) : State :=
  if cregSup c && !isSup s then trap { cause := 0x12, detail := c.code } s else clean [(a, 4)] body s

/-- CRR (R116). -/
def execCrr (d : Reg) (c : Creg) (g : PReg) (s : State) : Out :=
  .next (guarded g (fun s => writeReg d (cregRead s s.iss.snap c) false s) s)

/-- CRW (R116). -/
def execCrw (c : Creg) (a : Reg) (g : PReg) (s : State) : Out :=
  .next (guarded g (needs [a] (cregGuarded c a fun s => cregWrite c (s.iss.snap.reg a) s)) s)

/-- CRX reads, then writes, in one action (R116, R117). -/
def execCrx (d : Reg) (c : Creg) (a : Reg) (g : PReg) (s : State) : Out :=
  .next (guarded g (needs [a] (cregGuarded c a fun s =>
    writeReg d (cregRead s s.iss.snap c) false (cregWrite c (s.iss.snap.reg a) s))) s)

end Sys2Proof.Machine
end

