-- ==== Sys2Proof/Machine/Translate.lean ====
section
/-! DEFINITION. The physical map and home banks (R140, R142 to R144), the protection unit (R146), the walk and the TLBs
(R159 to R161), and an address's checks on the way to memory (R145, R162). -/

namespace Sys2Proof.Machine

/-! ## The physical map (R144) -/

/-- What a physical address names. -/
inductive Region where
  | hbm (die : Nat)
  | lpddr
  | host
  | peer (port : Nat)
  | sram (district : Nat)
  | districtCtl (district : Nat) (off : Nat)
  | scratch (cluster : Nat)
  | tcm (core : Nat)
  | clusterCtl (cluster : Nat) (off : Nat)
  | absent
  deriving DecidableEq, Repr

/-- Bases of the map. -/
def sramBase : Nat := 0xE000000000000
def clusterBase : Nat := 0xF000000000000
def hostBase : Nat := 0x8000000000000
def peerBase : Nat := 0xC000000000000
/-- MODEL: where the TCMs of service cores stand, above every physical address; nothing but the near region of their core
reaches them (R144, R455). -/
def svcTcm (d : Nat) : Nat := 2 ^ 52 + d * 0x20000
/-- Physical bases of a core's TCM, a cluster's scratchpad and control window, and a district's slice and window. -/
def tcmBase (core : Nat) : Nat :=
  if isSvc core then svcTcm (core - svcBase) else clusterBase + core / 8 * 0x1000000 + 0x800000 + core % 8 * 0x20000
def scratchBase (cl : Nat) : Nat := clusterBase + cl * 0x1000000
def clusterCtlBase (cl : Nat) : Nat := clusterBase + cl * 0x1000000 + 0xF00000
def sramBaseOf (d : Nat) : Nat := sramBase + d * 0x800000
def districtCtlBase (d : Nat) : Nat := sramBase + d * 0x800000 + 0x400000
/-- KVKICK's offset in the district control window (R327). -/
def kvkickOff : Nat := 0x100

/-- The region of a physical address (R144). -/
def regionOf (pa : Nat) : Region :=
  if 2 ^ 52 ≤ pa then
    let x := pa - 2 ^ 52
    if x / 0x20000 < 128 ∧ x % 0x20000 < 0x18000 then .tcm (svcBase + x / 0x20000) else .absent
  else if clusterBase ≤ pa then
    let c := (pa - clusterBase) / 0x1000000
    let o := (pa - clusterBase) % 0x1000000
    if 2048 ≤ c then .absent
    else if o < 0x50000 then .scratch c
    else if 0x800000 ≤ o ∧ o < 0x900000 then
      (if (o - 0x800000) % 0x20000 < 0x18000 then .tcm (c * 8 + (o - 0x800000) / 0x20000) else .absent)
    else if 0xF00000 ≤ o ∧ o < 0xF10000 then .clusterCtl c (o - 0xF00000)
    else .absent
  else if sramBase ≤ pa then
    let d := (pa - sramBase) / 0x800000
    let o := (pa - sramBase) % 0x800000
    if 128 ≤ d then .absent
    else if o < 0x400000 then .sram d
    else if o < 0x410000 then .districtCtl d (o - 0x400000)
    else .absent
  else if peerBase ≤ pa then .peer ((pa - peerBase) / 0x400000000000)
  else if hostBase ≤ pa then .host
  else if 0x10000000000 ≤ pa ∧ pa < 0x1C000000000 then .lpddr
  else if pa < 0x8000000000 ∧ pa % 0x1000000000 < 0xC00000000 then .hbm (pa / 0x1000000000)
  else .absent

/-- Whether a word carries full/empty state (R147). A word of a peer module, reached through a view of R384, is handled
with the state the peer keeps for it (log entry 5). -/
def hasMeta (pa : Nat) : Bool :=
  match regionOf pa with
  | .hbm _ | .lpddr | .sram _ | .scratch _ | .tcm _ => true
  | .districtCtl _ off => decide (off / 8 * 8 = kvkickOff)
  | _ => false
/-- Whether an address is device memory, for drains (R174) and for a supervisor's own control windows. -/
def isDevice (pa : Nat) : Bool :=
  match regionOf pa with
  | .host | .peer _ | .absent => false
  | _ => true
/-- Whether a drain of a scope covers a posted store to an address (R174). -/
def coversStore (sc : Scope) (pa : Nat) : Bool :=
  match regionOf pa with
  | .host => decide (6 ≤ sc.code)
  | .peer _ => decide (7 ≤ sc.code)
  | _ => true
/-- The die an address lies on; none off the dies (R207). -/
def dieOfAddr (pa : Nat) : Option Nat :=
  match regionOf pa with
  | .hbm d => some d
  | .sram d | .districtCtl d _ => some (d / 16)
  | .scratch c | .clusterCtl c _ => some (c / 256)
  | .tcm c => some (dieOf c)
  | _ => none
/-- The cluster that an address's bank belongs to. -/
def clusterOfAddr (pa : Nat) : Option Nat :=
  match regionOf pa with
  | .scratch c | .clusterCtl c _ => some c
  | .tcm c => if isSvc c then none else some (c / 8)
  | _ => none
/-- Whether a region holds an address's bank: one of a cluster inside, or of a district that lies wholly inside (R413). -/
def Snuff.holdsAddr (r : Snuff) (pa : Nat) : Bool :=
  match regionOf pa with
  | .sram d | .districtCtl d _ => (List.range 16).all (fun k => r.covers (16 * d + k))
  | _ => ((clusterOfAddr pa).map r.covers).getD false
/-- Whether a fenced region holds an address's bank. -/
def State.addrFenced (s : State) (pa : Nat) : Bool := s.snuffs.toList.any (fun r => r.fenced && r.holdsAddr pa)

/-- The home bank of a word, as a number (R140). Host memory and each peer aperture are given one arrival point, and each
control window is given a bank of its own (DESIGN CHOICE: log entry 77). -/
def bankOf (pa : Nat) : Nat :=
  match regionOf pa with
  | .tcm c => 16 * (c * 8 + pa / 8 % 8)
  | .scratch c => 16 * (c * 32 + pa / 8 % 32) + 1
  | .sram d => 16 * (d * 64 + pa / 8 % 64) + 2
  | .hbm d => 16 * (d * 64 + Config.hbmAgent (pa / 16) % 64) + 3
  | .lpddr => 16 * (Config.lpddrAgent (pa / 4096) % 96) + 4
  | .host => 5
  | .peer p => 16 * p + 6
  | .clusterCtl c _ => 16 * c + 7
  | .districtCtl d _ => 16 * d + 8
  | .absent => 9
/-- The location of a home bank (R415); the words of a control window are given a bank of the scratchpad or slice beside it
(log entry 77). -/
def bankLoc (pa : Nat) : Nat :=
  match regionOf pa with
  | .tcm c => coreLoc c
  | .scratch c => loc 1 (c * 64 + pa / 8 % 32)
  | .sram d => loc 2 (d * 64 + pa / 8 % 64)
  | .hbm d => loc 3 (d * 64 + Config.hbmAgent (pa / 16) % 64)
  | .lpddr => loc 4 (Config.lpddrAgent (pa / 4096) % 96)
  | .clusterCtl c _ => loc 1 (c * 64 + pa / 8 % 32)
  | .districtCtl d _ => loc 2 (d * 64)
  | .peer p => loc 13 p
  | .host | .absent => loc 12 0
/-- The district that keeps the vigil area of a home bank (R153). -/
def vigilDistrict (pa : Nat) : Nat :=
  match regionOf pa with
  | .tcm c => districtOf c
  | .scratch c | .clusterCtl c _ => c / 16
  | .sram d | .districtCtl d _ => d
  | .hbm d => d * 16
  | _ => 0

/-! ## The near region and its protection (R142, R146) -/

/-- The near region's upper end. -/
def nearEnd : Nat := 0x1000000
/-- The physical address of a near address; none for a reserved one (R142, R455). -/
def nearPa (core va : Nat) : Option Nat :=
  if va < 0x18000 then some (tcmBase core + va)
  else if 0x100000 ≤ va ∧ va < 0x150000 ∧ !isSvc core then some (scratchBase (core / 8) + (va - 0x100000))
  else if 0x180000 ≤ va ∧ va < 0x190000 ∧ !isSvc core then some (clusterCtlBase (core / 8) + (va - 0x180000))
  else if 0x400000 ≤ va ∧ va < 0x800000 then some (sramBaseOf (districtOf core) + (va - 0x400000))
  else if 0x800000 ≤ va ∧ va < 0x810000 then some (districtCtlBase (districtOf core) + (va - 0x800000))
  else none

/-- The kinds of access that rights distinguish. -/
inductive Kind where
  | load | store | fetch
  deriving DecidableEq, Repr

/-- The right a GUARD register grants for a kind of access (R146). -/
def Kind.guardBit : Kind → Nat
  | .load => 47 | .store => 48 | .fetch => 49
/-- Whether some enabled range grants a kind of access to a 256-byte granule; an aligned access of at most 8 bytes lies in
one granule (R146). -/
def guardAllows (guards : Vector Word 8) (k : Kind) (va : Nat) : Bool :=
  guards.toList.any (fun g => bit g 50 && bit g k.guardBit && decide (fld g 15 0 ≤ va / 256) &&
    decide (va / 256 ≤ fld g 31 16))

/-! ## Word metadata (R147) -/

/-- A word no map lists is full, unpoisoned and free of HOLD; a KVKICK word is empty after reset (R147, R327). -/
def metaDefault (w : Nat) : Meta :=
  match regionOf w with
  | .districtCtl _ off => ⟨decide (off ≠ kvkickOff), false, none, none, 0⟩
  | _ => ⟨true, false, none, none, 0⟩
def State.wordMeta (s : State) (w : Nat) : Meta := (mget s.marks w).getD (metaDefault w)
def State.setMeta (s : State) (w : Nat) (m : Meta) : State := { s with marks := mput (metaDefault w) s.marks w m }

/-! ## A memory word error (R409) -/

/-- How an entry of the error log names an issuer: a thread, an engine, or a program by its number; 0 where R414 names none. -/
def Who.word : Who → Word
  | .thread t => t.word
  | .engine n => place n 0
  | .agent p => if p < 65536 then place p 0 else 0
  | .pager _ => 4224
  | .host _ | .peer _ _ | .chandler _ => 0
/-- The word's cells fail their code at an access of an issuer: corrected in place, good on the second reading, or lost, which
poisons the word and marks its row; each writes its log entry. A marked row enters the repair table. -/
def State.wordError (s : State) (w : Nat) (who : Word := 0) : State :=
  match mget s.wordErrors w with
  | none => s
  | some k =>
    let s := { s with wordErrors := mdel s.wordErrors w }
    if k < 2 then s.logEntry 1 false 0x1A (bankLoc w) who (BitVec.ofNat 64 w)
    else
      let room := decide (s.repairs.length < 256)
      let s := if room then { s with repairs := mset s.repairs w (place (bankLoc w) 0) } else s
      (s.setMeta w { s.wordMeta w with poison := true }).logEntry 2 room 0x1A (bankLoc w) who (BitVec.ofNat 64 w)

/-! ## Walks (R159, R160) -/

/-- A leaf: the first virtual page it maps, its page size in bits, and its entry. -/
structure Leaf where
  page : Nat
  lg : Nat
  word : Word
  deriving DecidableEq, Repr

/-- A memory fault: cause, DETAIL and the physical address of its message (R396). -/
structure MemFault where
  cause : Nat
  pa : Nat := 0
  detail : Nat := 0
  deriving DecidableEq, Repr

/-- The trap of a memory fault at a virtual address (R396). -/
def MemFault.trap (f : MemFault) (va : Word) : Trap :=
  { cause := f.cause, detail := f.detail, va := va, vb := BitVec.ofNat 64 f.pa }

/-- The levels of R160 from L4 down: the low address bit and the number of entries. -/
def walkLevels : List (Nat × Nat) := [(48, 256), (39, 512), (30, 512), (21, 512), (16, 32)]

/-- Whether a word's X bit is set. -/
def State.isPoisonAt (s : State) (pa : Nat) : Bool :=
  match mget s.marks (pa / 8 * 8) with
  | some m => m.poison
  | none => false

/-- The walk from a table at a physical address, through the levels left (R160). An invalid entry raises a translation
fault whatever its other bits hold (log entry 21). -/
def walkFrom (s : State) (va : Nat) : List (Nat × Nat) → Nat → Except MemFault Leaf
  | [], _ => .error { cause := 0x24 }
  | (lo, n) :: rest, table =>
    let epa := table + va / 2 ^ lo % n * 8
    if regionOf epa = .absent then .error { cause := 0x25, pa := epa }
    else if s.isPoisonAt epa then .error { cause := 0x24, pa := epa, detail := 1 }
    else
      let e := s.readWord epa
      let ty := fld e 63 62
      let bad : Except MemFault Leaf := .error { cause := 0x24, pa := epa }
      let addr := fld e 51 8 * 256
      if ty = 0 then .error { cause := 0x20 }
      else if ty = 3 ∨ fld e 58 52 ≠ 0 ∨ fld e 7 0 ≠ 0 then bad
      else if ty = 2 then
        if 30 < lo ∨ addr % 2 ^ lo ≠ 0 then bad else .ok ⟨va / 2 ^ lo, lo, e⟩
      else if rest.isEmpty then bad
      else if 21 < lo ∧ fld e 11 8 ≠ 0 then bad
      else walkFrom s va rest addr

/-- The reads of a walk's entries, with the word errors they meet (R409). -/
def touchFrom (va : Nat) (who : Word) : List (Nat × Nat) → Nat → State → State
  | [], _, s => s
  | (lo, n) :: rest, table, s =>
    let epa := table + va / 2 ^ lo % n * 8
    if regionOf epa = .absent then s
    else
      let s := s.wordError epa who
      let e := s.readWord epa
      if s.isPoisonAt epa || decide (fld e 63 62 ≠ 1) then s else touchFrom va who rest (fld e 51 8 * 256) s
def State.touchWalk (s : State) (space : Word) (va : Nat) (who : Word := 0) : State :=
  if fld space 39 0 = 0 then s else touchFrom va who walkLevels (fld space 39 0 * 4096) s
/-- The walk of an address in a space; ROOT 0 means no space (R159, R160). -/
def State.walk (s : State) (space : Word) (va : Nat) : Except MemFault Leaf :=
  if fld space 39 0 = 0 then .error { cause := 0x20 } else walkFrom s va walkLevels (fld space 39 0 * 4096)

/-- Whether a leaf denies an access: USR for users, W for stores and state changes, X for fetches (R160). -/
def leafDenies (w : Word) (k : Kind) (sup : Bool) : Bool :=
  (!sup && !bit w 59) || (k == .store && !bit w 61) || (k == .fetch && !bit w 60)
/-- The physical address a leaf gives. -/
def Leaf.addr (l : Leaf) (va : Nat) : Nat := fld l.word 51 8 * 256 + va % 2 ^ l.lg

/-! ## TLBs (R161) -/

/-- Whether an entry serves an address of a space, for a slot in a first-level TLB. -/
def TlbEntry.hits (e : TlbEntry) (slot : Option Nat) (space : Word) (va : Nat) : Bool :=
  decide (e.asn.toNat = fld space 63 48) && decide (e.slot = slot) && decide (e.page = va / 2 ^ e.lg)
/-- The leaf a list of entries holds for an address. -/
def tlbFind (l : List TlbEntry) (slot : Option Nat) (space : Word) (va : Nat) : Option Leaf :=
  (l.find? (fun e => e.hits slot space va)).map (fun e => ⟨e.page, e.lg, e.leaf⟩)
/-- A TLB with an entry filled in; in a full one the entry replaced is free (R161, R426; log entry 11). -/
def tlbFill (cap fresh : Nat) (l : List TlbEntry) (e : TlbEntry) : List TlbEntry :=
  let l := l.filter (fun x => !(x.asn == e.asn && x.slot == e.slot && x.page == e.page && x.lg == e.lg))
  let l := if l.length < cap then l else l.eraseIdx (Config.tlbVictim fresh % cap)
  l ++ [e]
/-- A leaf filled into a core's first-level and its cluster's second-level TLB (R161). -/
def State.fillTlbs (s : State) (core slot : Nat) (space : Word) (l : Leaf) : State :=
  let asn := BitVec.ofNat 16 (fld space 63 48)
  let s := s.modCore core (fun k => { k with tlb := tlbFill 128 s.fresh k.tlb ⟨asn, some slot, l.page, l.lg, l.word⟩ })
  (s.modCluster (clusterOf core) (fun k =>
    { k with tlb := tlbFill 2048 s.fresh k.tlb ⟨asn, none, l.page, l.lg, l.word⟩ })).bump

/-! ## The checks of an address (R145, R162) -/

/-- What a thread's address gives at issue. -/
inductive Trans where
  | ok (pa : Nat)
  | fault (f : MemFault)
  | miss
  deriving DecidableEq, Repr

/-- A leaf's answer for an access: its rights, then whether the page exists (R160). -/
def leafTrans (l : Leaf) (k : Kind) (sup : Bool) (va : Nat) : Trans :=
  if leafDenies l.word k sup then .fault { cause := 0x21 }
  else if regionOf (l.addr va) = .absent then .fault { cause := 0x25, pa := l.addr va }
  else .ok (l.addr va)

/-- The translation of a thread's address: bits 63:56, the near region and its guards, ROOT, the two TLBs (R142, R145,
R146, R159, R161). -/
def State.translate (s : State) (core slot : Nat) (space : Word) (sup : Bool) (k : Kind) (va : Word) : Trans :=
  if fld va 63 56 ≠ 0 then .fault { cause := 0x20 }
  else if va.toNat < nearEnd then
    match nearPa core va.toNat with
    | none => .fault { cause := 0x22 }
    | some pa => if !sup && !guardAllows (s.core core).guards k va.toNat then .fault { cause := 0x22 } else .ok pa
  else if fld space 39 0 = 0 then .fault { cause := 0x20 }
  else
    match tlbFind (s.core core).tlb (some slot) space va.toNat with
    | some l => leafTrans l k sup va.toNat
    | none =>
      match tlbFind (s.cluster (clusterOf core)).tlb none space va.toNat with
      | some l => leafTrans l k sup va.toNat
      | none => .miss

/-- The translation of an engine's address, for an issuer on a core: as a thread's but unguarded, through the second-level
TLB and its own walk (R146, R161, R163, R212). -/
def State.translateEngine (s : State) (core : Nat) (space : Word) (sup : Bool) (k : Kind) (va : Word) :
    Except MemFault Nat × State :=
  let answer : Trans → Except MemFault Nat
    | .ok pa => .ok pa
    | .fault f => .error f
    | .miss => .error { cause := 0x20 }
  if fld va 63 56 ≠ 0 then (.error { cause := 0x20 }, s)
  else if va.toNat < nearEnd then
    match nearPa core va.toNat with
    | none => (.error { cause := 0x22 }, s)
    | some pa => (.ok pa, s)
  else if fld space 39 0 = 0 then (.error { cause := 0x20 }, s)
  else
    match tlbFind (s.cluster (clusterOf core)).tlb none space va.toNat with
    | some l => (answer (leafTrans l k sup va.toNat), s)
    | none =>
      let s := s.touchWalk space va.toNat
      match s.walk space va.toNat with
      | .error f => (.error f, s)
      | .ok l =>
        (answer (leafTrans l k sup va.toNat),
          (s.modCluster (clusterOf core) (fun c =>
            { c with tlb := tlbFill 2048 s.fresh c.tlb ⟨BitVec.ofNat 16 (fld space 63 48), none, l.page, l.lg, l.word⟩ })).bump)

/-- A body that uses a thread's address: a fault traps at the bundle; a miss posts the request to the core's miss mailbox
and the thread detaches until its walk has ended (R161, R162). -/
def withAddress (k : Kind) (va : Word) (body : Nat → State → State) (s : State) : State :=
  match s.translate s.iss.core s.iss.slot s.iss.snap.space s.iss.snap.priv k va with
  | .ok pa => body pa s
  | .fault f => trap (f.trap va) s
  | .miss =>
    let w : Walk := ⟨s.nextId, s.iss.slot, s.iss.snap.gen, va, k == .store, k == .fetch⟩
    let s := { s.modCore s.iss.core (fun c => { c with walks := c.walks ++ [w] }) with nextId := s.nextId + 1 }
    stopWait 1 va s

end Sys2Proof.Machine
end

