-- ==== Sys2Proof/Machine/Bank.lean ====
section
/-! DEFINITION. What a home bank does: the words' metadata (R147), every access form's action (R148), parking, serving and
waking (R150, R151), spilling to the vigil area (R153 to R155), wait budgets (R156), control windows (R143, R154, R66),
and sending an access and its answer (R173, R175, R207). -/

namespace Sys2Proof.Machine

/-! ## Words and their waiters (R150) -/

/-- The word an address lies in. -/
def wordOfAddr (pa : Nat) : Nat := pa / 8 * 8
/-- A word's waiters, oldest first (R150). -/
def State.waitersAt (s : State) (w : Nat) : List Waiter := (mget s.waiters w).getD []
def State.setWaiters (s : State) (w : Nat) (l : List Waiter) : State := { s with waiters := mput [] s.waiters w l }

/-! ## The status window (R433) -/

/-- CESTAT. STATE is 0 until a command starts, so that the start changes the word (R434; DEDUCED: log entry 90). -/
def cestatWord (e : CopyEngine) : Word :=
  let st := match e.run with
    | none => 0
    | some r => if r.held.isSome then 3 else if r.parked.isSome && !r.moved then 2 else 1
  place st 61 ||| place e.cdone.toNat 16 ||| place (e.queue.length + b2n e.run.isSome) 0
/-- CEWAIT: the empty source word that the head command waits on; a wait for its mailbox is none (R433). -/
def cewaitWord (e : CopyEngine) : Word :=
  match e.run with
  | some r => if r.held.isSome || r.moved then 0 else (r.parked.getD 0) &&& 0x00FFFFFFFFFFFFF8#64
  | none => 0
/-- Word `i` of queue entry `k`. -/
def ceqWord (e : CopyEngine) (k i : Nat) : Word :=
  match ((e.run.map (fun r => r.cmd)).toList ++ e.queue)[k]? with
  | none => 0
  | some c =>
    match i with
    | 0 =>
      let kind := match c.kind with
        | .cpy => 0
        | .cpys => 1
        | .cpyd => 2
      place 1 63 ||| place kind 61 ||| place c.mode.code 58 ||| place c.tag.val 48 ||| place (c.name.bits % 2 ^ 29) 0
    | 1 => c.dest
    | 2 => c.src
    | _ => c.count

/-! ## The matrix unit's window (R225) -/

/-- Word `i` of a tile's registers: MTSTAT, MTPOIS, MTSHAPE. -/
def tileWord (t : TileState) (i : Nat) : Word :=
  match i with
  | 0 => place (t.ref % 2048).toNat 32 ||| place t.owners 16 ||| place t.ub.toNat 8 ||| place t.ua.toNat 0
  | 1 => t.rowPoison
  | 2 => t.tshape
  | _ => 0
/-- Word `i` of a tile's row map. -/
def mapWord (t : TileState) (i : Nat) : Word :=
  BitVec.ofNat 64 ((List.range 8).foldr (fun k n => (t.rowMap.toList.getD (8 * i + k) 0).toNat + 256 * n) 0)
/-- A tile of a cluster. -/
def Cluster.tile (c : Cluster) (t : Nat) : TileState := c.mat.tiles.toList.getD t TileState.reset

/-! ## The value of a word on the bus: memory, and the registers of the control windows (R143, R154) -/

/-- VIGSTAT (R154). -/
def vigstatWord (d : District) : Word := place d.peak.toNat 24 ||| place d.records.length 0
/-- The word at an aligned address. -/
def State.busWord (s : State) (w : Nat) : Word :=
  match regionOf w with
  | .clusterCtl c off =>
    let k := s.cluster c
    if off < 0x80 then k.segfmt.toList.getD (off / 8) 0
    else if 0x800 ≤ off ∧ off < 0x880 then tileWord (k.tile ((off - 0x800) / 0x20)) ((off - 0x800) % 0x20 / 8)
    else if 0x900 ≤ off ∧ off < 0xA00 then mapWord (k.tile ((off - 0x900) / 0x40)) ((off - 0x900) % 0x40 / 8)
    else if off = 0xA00 then place k.mcstamp.toNat 0
    else if off = 0xC00 then cestatWord k.copy
    else if off = 0xC08 then cewaitWord k.copy
    else if 0xC40 ≤ off ∧ off < 0xE40 then ceqWord k.copy ((off - 0xC40) / 32) ((off - 0xC40) % 32 / 8)
    else if 0x1000 ≤ off ∧ off < 0x5000 ∧ (off - 0x1000) % 0x400 < 640 then s.readWord w
    else 0
  | .districtCtl d off =>
    if off = 0 then (s.district d).vigctl
    else if off = 8 then vigstatWord (s.district d)
    else if off = kvkickOff then s.readWord w
    else 0
  | .absent => 0
  | _ => s.readWord w
/-- Whether a word keeps the bytes stored to it. -/
def isStorage (w : Nat) : Bool :=
  match regionOf w with
  | .clusterCtl _ off => decide (0x1000 ≤ off ∧ off < 0x5000 ∧ (off - 0x1000) % 0x400 < 640)
  | .districtCtl _ off => decide (off = kvkickOff)
  | .absent => false
  | _ => true
/-- `n` bytes at an address inside one word. -/
def State.busRead (s : State) (pa n : Nat) : Nat := bits (s.busWord (wordOfAddr pa)).toNat (pa % 8 * 8) (8 * n)
/-- A word's value with `n` bytes at an address replaced. -/
def mergeWord (old : Word) (pa n v : Nat) : Word := setFld old (pa % 8 * 8) (8 * n) v
/-- The bits of KVKICK that are not reserved: a reserved bit reads 0 and ignores writes (R7, R327). -/
def kickMask : Word := 0x3FFFE0#64
/-- Whether a word is a district's KVKICK. -/
def isKick (w : Nat) : Bool :=
  match regionOf w with
  | .districtCtl _ off => decide (off = kvkickOff)
  | _ => false
/-- Whether an address lies in the aperture of a peer module (R383). -/
def isPeer (pa : Nat) : Bool :=
  match regionOf pa with
  | .peer _ => true
  | _ => false
/-- Whether an address's bank takes a flit as one action: the words of device memory, and a peer's through view 00, whose other
views take 8-byte accesses only (R209, R384). -/
def takesFlits (pa : Nat) : Bool :=
  match regionOf pa with
  | .hbm _ | .lpddr | .sram _ | .scratch _ | .tcm _ => true
  | .peer _ => decide ((pa - peerBase) % 0x400000000000 < 2 ^ 44)
  | _ => false
/-- Whether a word's level has a sum store (R404). -/
def hasSum (w : Nat) : Bool :=
  match regionOf w with
  | .hbm _ | .lpddr | .sram _ | .scratch _ => true
  | _ => false
/-- A write of a word counted by the sum store of its chunk (R406). -/
def State.countWrite (s : State) (w : Nat) : State :=
  if hasSum w then { s with sumWrites := mset s.sumWrites (w / 4096) ((mget s.sumWrites (w / 4096)).getD 0 + 1) } else s
/-- `n` bytes stored at an address inside one word. -/
def State.busWrite (s : State) (pa n v : Nat) : State :=
  let w := wordOfAddr pa
  let s := s.countWrite w
  if isKick w then s.writeWord w (mergeWord (s.busWord w) pa n v &&& kickMask)
  else if isStorage w then s.writeN pa n v
  else s
/-- A word stored as an ordinary 8-byte store does, which clears X (R148, R155). -/
def State.storeWord (s : State) (w : Nat) (v : Word) : State :=
  ((s.countWrite w).writeWord w v).setMeta w { s.wordMeta w with poison := false }

/-! ## The forms of R148 -/

/-- "Proceeds when" (R148). -/
def holds (f : Form) (m : Meta) : Bool :=
  match f with
  | .ldw | .ldc | .ste | .lrw => m.full
  | .stf => !m.full
  | .ld | .st | .sch | .rcan | .fest _ | .feq | .copy _ _ => true

/-- The form an access performs as at its home bank: an access to a peer module performs by its view (R384). -/
def Access.asPerformed (a : Access) : Access :=
  match regionOf a.pa with
  | .peer p =>
    let o := (a.pa - peerBase) % 0x400000000000
    let view := o / 2 ^ 44
    let f : Form := match a.form, view with
      | .ld, 1 => .ldw
      | .ld, 2 => .ldc
      | .ld, 3 => .lrw
      | .st, 1 | .copy _ _, 1 => .stf
      | .st, 2 | .copy _ _, 2 => .ste
      | .st, 3 | .copy _ _, 3 => .sch
      | .copy _ _, _ => .st
      | f, _ => f
    { a with form := f, pa := peerBase + p * 0x400000000000 + o % 2 ^ 44 }
  | _ => a
/-- The reason for which a peer refuses an access whatever its window holds: a view 01 to 11 access that is not 8 bytes (4),
or a view 11 store that does not come from the holder (5) (R386). -/
def State.peerReason (s : State) (a : Access) : Option Nat :=
  match regionOf a.pa with
  | .peer _ =>
    let b := a.asPerformed
    if (a.pa - peerBase) % 0x400000000000 / 2 ^ 44 ≠ 0 ∧ a.size ≠ 8 then some 4
    else if b.form = .sch ∧ (s.wordMeta (wordOfAddr b.pa)).hold ≠ some a.who then some 5
    else none
  | _ => none

/-- The port notes who stored its kick (R257, R327). -/
def State.noteKick (s : State) (a : Access) : State :=
  match regionOf a.pa with
  | .districtCtl d off =>
    if off / 8 * 8 = kvkickOff then
      s.modDistrict d (fun k => { k with kickBy := match a.who with
        | .thread t => some (t, a.launch, a.pc)
        | _ => none })
    else s
  | _ => s
/-- The next arrival number of a word's bank (R150, R155). An access to a peer module keeps the number of a message, by which
its refusal finds it (log entry 5). -/
def State.takeSeq (s : State) (w : Nat) : Nat × State :=
  match regionOf w with
  | .peer _ => (s.nextId, { s with nextId := s.nextId + 1 })
  | _ =>
    let n := (mget s.parkSeqs (bankOf w)).getD 0
    (n, { s with parkSeqs := mset s.parkSeqs (bankOf w) (n + 1) })
/-- A destination word's F and X after a write of a copy's mode, whole or in part (R164). -/
def copyMeta (mode : CopyMode) (whole : Bool) (m : Meta) (f x : Bool) : Meta :=
  { m with
    full := match mode with
      | .fb => if whole then f else m.full
      | .ff => true
      | .fe => false
      | .fk => m.full
      | .fr => if whole then true else m.full
    poison := if whole then x else m.poison || x }
/-- What a form does to its word: the state after, and its answer (R148, R164, R177, R184). A freed HOLD frees its vigil
record elsewhere. -/
def State.apply (s : State) (a : Access) : State × Reply :=
  let w := wordOfAddr a.pa
  let m := s.wordMeta w
  let mine := decide (m.hold = some a.who)
  let value := Reply.value (BitVec.ofNat 64 (s.busRead a.pa a.size)) m.poison
  match a.form with
  | .ld | .ldw => (s, value)
  | .st =>
    ((((s.noteKick a).busWrite a.pa a.size a.data.toNat).setMeta w
      { m with poison := if a.size = 8 then a.poison else m.poison || a.poison }), .done)
  | .copy mode full =>
    let s := (s.noteKick a).busWrite a.pa a.size a.data.toNat
    (if hasMeta w then s.setMeta w (copyMeta mode (decide (a.size = 8)) m full a.poison) else s, .done)
  | .ldc => (s.setMeta w { m with full := false }, value)
  | .stf => (((s.noteKick a).busWrite a.pa 8 a.data.toNat).setMeta w ⟨true, a.poison, none, none, 0⟩, .done)
  | .ste => (((s.noteKick a).busWrite a.pa 8 a.data.toNat).setMeta w { m with poison := a.poison }, .done)
  | .lrw =>
    let (n, s) := s.takeSeq w
    (s.setMeta w { m with full := false, hold := some a.who, holdRec := none, holdSeq := n }, value)
  | .sch =>
    if mine then ((s.busWrite a.pa 8 a.data.toNat).setMeta w ⟨true, a.poison, none, none, 0⟩, .status 0)
    else (s, .status 1)
  | .rcan =>
    (if mine then s.setMeta w { m with full := true, hold := none, holdRec := none, holdSeq := 0 } else s, .done)
  | .fest f => (s.setMeta w { m with full := f, hold := none, holdRec := none, holdSeq := 0 }, .done)
  | .feq => (s, .value (place (b2n m.full) 0) false)

/-! ## Answers -/

/-- Whether an address lies off a die, behind a gateway: on another compute die or in LPDDR6 (R207). -/
def offDie (die pa : Nat) : Bool :=
  match regionOf pa with
  | .lpddr => true
  | .host | .peer _ | .absent => false
  | _ => decide (dieOfAddr pa ≠ some die)
/-- Path of replies from a bank to a die, or to issuers on no die, with `die` 0 for none and D + 1 for die D (R175, R207). -/
def replyPath (pa die : Nat) : Nat := path 2 (bankOf pa) die
/-- The reply of an access, as its thread or unit receives it. -/
def Access.replyMsg (a : Access) (r : Reply) : Msg :=
  match a.who with
  | .thread t => if a.ord = .rx then .relaxedReply t r else .reply t r
  | w => .unitReply w r
/-- An access's answer on its way back to its issuer, through the gateway of its die when the bank lies off it; a posted store
has none (R173, R207). The Chandler and its programs hear at once, so that a RECV or POST whose access has performed is
complete (R345). -/
def State.answer (s : State) (a : Access) (r : Reply) : State :=
  if a.posted then s
  else
    match a.who with
    | .thread t =>
      let die := dieOf t.core
      if offDie die a.pa then s.send (replyPath a.pa (die + 1)) (.fromBank die a r (s.busWord (wordOfAddr a.pa)))
      else s.send (replyPath a.pa 0) (a.replyMsg r)
    | .agent _ => (s.send (replyPath a.pa 0) (a.replyMsg r)).soon (.replyArrival s.nextId)
    | _ => s.send (replyPath a.pa 0) (a.replyMsg r)
/-- An access that its target refuses: a posted store is dropped and the refusal returns to its issuer (R456); any other is
answered with the fault (R162). -/
def State.refuse (s : State) (a : Access) (cause detail : Nat) (va vb vc : Word) : State :=
  if a.posted then
    let reason := if cause = 0x36 then detail else 0
    match a.who with
    | .thread t => s.send (replyPath a.pa 0) (.refusedStore t a.launch a.pc cause reason a.va a.pa)
    | _ => s.send (replyPath a.pa 0) (.refusedUnit a cause reason)
  else s.answer a (.fault cause detail va vb vc)
/-- The fault of an access with the fields of R396. -/
def State.refuseAt (s : State) (a : Access) (cause : Nat) : State := s.refuse a cause 0 a.va (BitVec.ofNat 64 a.pa) 0

/-! ## The vigil area (R153 to R155) -/

/-- The address of a vigil record. -/
def vigilAddr (d : District) (i : Nat) : Nat := fld d.vigctl 63 24 * 4096 + 32 * i
/-- The form code of a record (R155). -/
def vigilForm : Form → Nat
  | .ldw => 0 | .ldc => 1 | .stf => 2 | .ste => 3 | .lrw => 4 | _ => 5
/-- The waiter identity of a record: ENG, CORE or engine number, SLOT, GEN (R155). R395 numbers no host port, Beacon port,
agent program or Chandler; theirs are the model's (DESIGN CHOICE: log entry 73). -/
def Who.fields : Who → Nat
  | .thread t => coreField t.core * 2 ^ 17 + t.slot * 2 ^ 14 + t.gen.toNat
  | .engine n => 2 ^ 31 + n * 2 ^ 17
  | .agent p => 2 ^ 31 + p % 2 ^ 14 * 2 ^ 17
  | .host _ => 2 ^ 31 + 4226 * 2 ^ 17
  | .peer p _ => 2 ^ 31 + (4227 + p) * 2 ^ 17
  | .chandler _ => 2 ^ 31 + 4235 * 2 ^ 17
  | .pager _ => 2 ^ 31 + 4224 * 2 ^ 17
/-- The four words of a record. A service core's TCM has no physical address (R144); ADDR holds bits 51:3 of the model's. -/
def vigilWords (form : Nat) (w seq : Nat) (who : Who) (data : Word) (next : Nat) : List Word :=
  [place 1 63 ||| place form 59 ||| place (w % 2 ^ 52) 0, place (seq % 2 ^ 32) 32 ||| place who.fields 0, data, place next 40]
/-- Words stored from an address up. -/
def State.writeWords (s : State) (a : Nat) : List Word → State
  | [] => s
  | v :: r => (s.storeWord a v).writeWords (a + 8) r
/-- The chain of a word's records in arrival order: the HOLD's, then the spilled waiters'. -/
def State.chainOf (s : State) (w : Nat) : List (Nat × Nat × Nat × Who × Word) :=
  let m := s.wordMeta w
  (match m.holdRec, m.hold with
    | some i, some who => [(i, 5, m.holdSeq, who, 0)]
    | _, _ => []) ++
  (s.waitersAt w).filterMap (fun x => x.spilled.map (fun i =>
    (i, vigilForm x.acc.form, x.seq, x.acc.who, if x.acc.form = .stf || x.acc.form = .ste then x.acc.data else 0)))
/-- A word's records written into the area, each naming the next. -/
def State.writeChain (s : State) (d : District) (w : Nat) : List (Nat × Nat × Nat × Who × Word) → State
  | [] => s
  | (i, form, seq, who, data) :: r =>
    let next := match r with
      | (j, _) :: _ => j
      | [] => 0xFFFFFF
    (s.writeWords (vigilAddr d i) (vigilWords form w seq who data next)).writeChain d w r
def State.syncChain (s : State) (w : Nat) : State := s.writeChain (s.district (vigilDistrict w)) w (s.chainOf w)
/-- The number of words of a bank that have a chain (R153: up to 8 chain heads). -/
def State.chainsOf (s : State) (bank : Nat) : Nat :=
  ((s.waiters.map (fun p => p.1) ++ (s.marks.filter (fun p => p.2.holdRec.isSome)).map (fun p => p.1)).dedup.filter
    (fun w => bankOf w = bank && !(s.chainOf w).isEmpty)).length
/-- A free record for a word's chain, when the area and the bank have room (R153). -/
def State.vigilRoom (s : State) (w : Nat) : Option Nat :=
  let d := s.district (vigilDistrict w)
  if (s.chainOf w).isEmpty && decide (8 ≤ s.chainsOf (bankOf w)) then none
  else lowest (fld d.vigctl 23 0) (fun i => !d.records.contains i)
/-- A record taken from, or given back to, the free list (R154: USED and PEAK). -/
def State.takeRecord (s : State) (w i : Nat) : State :=
  s.modDistrict (vigilDistrict w) (fun d =>
    { d with records := d.records ++ [i], peak := BitVec.ofNat 24 (max d.peak.toNat (d.records.length + 1)) })
def State.freeRecord (s : State) (w i : Nat) : State :=
  let d := s.district (vigilDistrict w)
  let a := vigilAddr d i
  (s.storeWord a (setFld (s.readWord a) 63 1 0)).modDistrict (vigilDistrict w)
    (fun d => { d with records := d.records.filter (fun j => j != i) })
/-- The entries of a bank's parking table in use: its words' waiters there and their HOLDs (R150). -/
def State.tableUsed (s : State) (bank : Nat) : Nat :=
  ((s.waiters.filter (fun p => bankOf p.1 = bank)).map (fun p => (p.2.filter (fun x => x.spilled.isNone)).length)).sum +
  (s.marks.filter (fun p => bankOf p.1 = bank && p.2.hold.isSome && p.2.holdRec.isNone)).length

/-! ## Parking and budgets (R150, R153, R156) -/

/-- Where a thing that must stay at the bank goes: the table, a vigil record, or nowhere. -/
inductive Room where
  | table
  | record (i : Nat)
  | full
  deriving DecidableEq, Repr
/-- Room for a waiter (R150: the table only when the word has no spilled records) or, with `held`, for a HOLD; the entry of a
HOLD that the word already has counts as used (log entry 93). The tables of a peer module are the peer's; its refusals come back as R386 says. -/
def State.roomAt (s : State) (w : Nat) (held : Bool) : Room :=
  if (match regionOf w with
    | .peer _ => true
    | _ => false) then .table
  else if decide (s.tableUsed (bankOf w) < 16) && (held || (s.chainOf w).isEmpty) then .table
  else
    match s.vigilRoom w with
    | some i => .record i
    | none => .full

/-- A Beacon port, changed. -/
def State.modPort (s : State) (p : Nat) (f : Port → Port) : State :=
  { s with ports := vecOf 8 (fun i => let q := s.ports.toList.getD i ⟨false, 0, 0, 0, 0, [], none⟩; if i = p then f q else q) }
/-- The budget an issuer holds for its re-parks (R156, R157); an agent's accesses spend none (R342). -/
def State.budgetOf (s : State) : Who → Nat
  | .thread t => ((s.named t).map (fun th => th.waitbud.toNat)).getD 0
  | .engine n =>
    if n < 2048 then ((s.cluster n).copy.run.map (fun r => r.budget)).getD 0
    else if n = 4225 then (s.cwords.head?.map (fun c => c.budget)).getD 0
    else if 4096 ≤ n ∧ n < 4224 then ((s.district (n - 4096)).kv.map (fun k => k.budget)).getD 0
    else 2 ^ 20
  | .pager n => ((mget s.chandler.pagerCmds n).map (fun p => p.1)).getD (2 ^ 20)
  | .host n => ((mget s.host.fills n).map (fun f => f.budget)).getD 0
  | .peer p n => (((s.ports.toList[p]?).bind (fun q => mget q.remote n)).map (fun r => r.budget)).getD 0
  | .agent _ | .chandler _ => 2 ^ 20
def State.spendBudget (s : State) : Who → State
  | .thread t => s.modNamed t (fun th => { th with waitbud := th.waitbud - 1 })
  | .engine n =>
    if n = 4225 then
      match s.cwords with
      | c :: r => { s with cwords := { c with budget := c.budget - 1 } :: r }
      | [] => s
    else if 4096 ≤ n ∧ n < 4224 then
      s.modDistrict (n - 4096) (fun d => { d with kv := d.kv.map (fun k => { k with budget := k.budget - 1 }) })
    else if 2048 ≤ n then s
    else
      s.modCluster n (fun c =>
        { c with copy := { c.copy with run := c.copy.run.map (fun r => { r with budget := r.budget - 1 }) } })
  | .host n =>
    match mget s.host.fills n with
    | some f => { s with host := { s.host with fills := mset s.host.fills n { f with budget := f.budget - 1 } } }
    | none => s
  | .peer p n =>
    s.modPort p (fun q => { q with remote := match mget q.remote n with
      | some r => mset q.remote n { r with budget := r.budget - 1 }
      | none => q.remote })
  | .pager n =>
    let left := ((mget s.chandler.pagerCmds n).map (fun p => p.1)).getD (2 ^ 20)
    { s with chandler := { s.chandler with pagerCmds := mset s.chandler.pagerCmds n (left - 1, true) } }
  | .agent _ | .chandler _ => s

/-- An access that must wait is parked: with its issuer's budget spent a re-park raises a wait-budget fault, without room a
park raises a vigil-area-full fault, and a re-park that takes place spends one unit (R150, R153, R156; log entry 79). The
thread's oldest instruction is then parked, unless the access is posted or a relaxed load. -/
def State.park (s : State) (a : Access) : State :=
  let w := wordOfAddr a.pa
  if a.repark && decide (s.budgetOf a.who = 0) then s.refuseAt a 0x28
  else
    let room := s.roomAt w false
    if room = .full then s.refuseAt a 0x27
    else
      let (n, s) := (if a.repark then s.spendBudget a.who else s).takeSeq w
      let add (sp : Option Nat) : State := s.setWaiters w (s.waitersAt w ++ [⟨a, n, sp⟩])
      let s := match room with
        | .record i => ((add (some i)).takeRecord w i).syncChain w
        | _ => add none
      match a.who with
      | .thread t =>
        if a.posted || decide (a.ord = .rx) then s
        else s.modNamed t (fun th => th.modHead (fun p => { p with phase := .parked }))
      | _ => s

/-! ## feserve (R151) -/

/-- A HOLD released or replaced: its vigil record, when it had one, is free again. -/
def State.afterHold (s : State) (w : Nat) (before : Meta) : State :=
  match before.holdRec with
  | some i => if (s.wordMeta w).holdRec = some i then s else (s.freeRecord w i).syncChain w
  | none => s
/-- A HOLD that a served LRW took, put into the table or, when the table is full, into a vigil record (R150, R153). -/
def State.placeHold (s : State) (w : Nat) : State :=
  let m := s.wordMeta w
  let peer : Bool := match regionOf w with
    | .peer _ => true
    | _ => false
  if m.hold.isSome && m.holdRec.isNone && !peer && decide (16 < s.tableUsed (bankOf w)) then
    match s.vigilRoom w with
    | some i => ((s.setMeta w { m with holdRec := some i }).takeRecord w i).syncChain w
    | none => s
  else s
/-- The effect of an access at its bank, with that on the HOLD's record, and its answer; no waiter is served. -/
def State.effect (s : State) (a : Access) : State × Reply :=
  let w := wordOfAddr a.pa
  let m := s.wordMeta w
  let (s1, r) := s.apply a
  let s1 := s1.afterHold w m
  (if a.form = .lrw then s1.placeHold w else s1, r)
/-- One access performed at its bank, with its answer. -/
def State.performOnce (s : State) (a : Access) : State :=
  let (s1, r) := s.effect a
  s1.answer a r
/-- One pass over the table waiters, in arrival order: each whose condition holds takes effect, is answered and freed. -/
def servePass (w : Nat) : List Waiter → State → Bool → State × Bool
  | [], s, b => (s, b)
  | e :: r, s, b =>
    if e.spilled.isNone && holds e.acc.form (s.wordMeta w) then
      let s := s.setWaiters w ((s.waitersAt w).filter (fun x => x.seq != e.seq))
      servePass w r (s.performOnce e.acc) true
    else servePass w r s b
/-- Passes until none serves a waiter; each serving pass frees one. -/
def serveLoop (w : Nat) : Nat → State → State
  | 0, s => s
  | n + 1, s =>
    let (s1, served) := servePass w (s.waitersAt w) s false
    if served then serveLoop w n s1 else s1
/-- Spilled waiters whose condition holds are woken and their records freed, in arrival order. -/
def wakeSpilled (w : Nat) : List Waiter → State → State
  | [], s => s
  | e :: r, s =>
    match e.spilled with
    | some i =>
      if holds e.acc.form (s.wordMeta w) then
        let s := s.setWaiters w ((s.waitersAt w).filter (fun x => x.seq != e.seq))
        wakeSpilled w r (((s.freeRecord w i).syncChain w).answer e.acc .wake)
      else wakeSpilled w r s
    | none => wakeSpilled w r s
/-- feserve (R151). -/
def State.feserve (s : State) (w : Nat) : State :=
  let s := serveLoop w ((s.waitersAt w).length + 1) s
  wakeSpilled w (s.waitersAt w) s

/-- Whether an access changed F or HOLD, or is a copy's write, so that feserve follows (R151, R164). -/
def serves (f : Form) (before after : Meta) : Bool :=
  before.full != after.full || before.hold != after.hold || (match f with
    | .copy _ _ => true
    | _ => false)
/-- An access performs at its home bank, or parks: the whole effect on the word, with the serving it causes, before the
next access (R141, R148, R151). An LRW that finds no room for its HOLD takes no effect (R153); a peer may refuse an
access (R386). -/
def State.perform (s : State) (a0 : Access) : State :=
  let a := a0.asPerformed
  let w := wordOfAddr a.pa
  let m := s.wordMeta w
  match s.peerReason a0 with
  | some reason => s.refuse a 0x36 reason a.va (BitVec.ofNat 64 a0.pa) 0
  | none =>
    if !holds a.form m then s.park a
    else if a.form = .lrw && s.roomAt w true = .full then s.refuseAt a 0x27
    else
      let s1 := s.performOnce a
      if serves a.form m (s1.wordMeta w) then s1.feserve w else s1

/-- A waiter removed from its word, its vigil record freed (R158). -/
def State.dropWaiters (s : State) (w : Nat) (p : Waiter → Bool) : State :=
  let gone := (s.waitersAt w).filter p
  if gone.isEmpty then s
  else
    let s := s.setWaiters w ((s.waitersAt w).filter (fun x => !p x))
    (gone.foldl (fun s x => match x.spilled with
      | some i => s.freeRecord w i
      | none => s) s).syncChain w

/-! ## Die bridges (R207) -/

/-- The message of an access by its target: a store to a SEGFMT, VIGCTL or VIGSTAT register, a store to host memory, or an
access to a bank (R66, R154, R376). -/
def Access.msg (a : Access) : Msg :=
  let store : Bool := match a.form with
    | .st | .copy _ _ => true
    | _ => false
  match regionOf a.pa with
  | .clusterCtl _ off => if store && decide (off < 0x80) then .segWrite a else .access a
  | .districtCtl _ off =>
    if store && decide (off / 8 = 0) then .vigctl a else if store && decide (off / 8 = 1) then .vigstat a else .access a
  | .host => if store then .hostStore a else .access a
  | _ => .access a
/-- The path from a gateway to a bank (R175, R207). -/
def bridgePath (die pa : Nat) : Nat := path 3 (bankOf pa) (2 ^ 21 + die)
/-- A load that a gateway may join: a relaxed load of scope .peer, .fabric or .system (R207). -/
def Access.joinable (a : Access) : Bool := a.form == .ld && a.ord == .rx && !a.posted && decide (7 ≤ a.scope.code)
/-- An access, or the two of a flit, reaches the gateway of its issuer's die. A joinable load to a word with open reads is
joined to one of them or forwarded, which is free (log entry 9); any other load is forwarded and becomes an open read; any
other access is forwarded and closes the open reads of its word (R207). -/
def State.passOut (s : State) (die : Nat) (a : Access) (b : Option Access) : State :=
  let w := wordOfAddr a.pa
  let here (o : OpenRead) : Bool := o.die == die && o.word == w
  let reads := s.openReads.filter here
  let forward (s : State) : State :=
    match a.form, b with
    | .ld, _ =>
      { s.send (bridgePath die a.pa) (.access { a with opened := s.nextId + 1 }) with
        openReads := s.openReads ++ [⟨die, w, s.nextId + 1⟩] }
    | _, some b =>
      { s with openReads := s.openReads.filter (fun o => !here o && !(o.die == die && o.word == wordOfAddr b.pa)) }.send
        (bridgePath die a.pa) (.flit a b)
    | _, none => { s with openReads := s.openReads.filter (fun o => !here o) }.send (bridgePath die a.pa) a.msg
  match a.who with
  | .thread t =>
    if a.joinable && !reads.isEmpty then
      match reads[Config.joinPick s.fresh]? with
      | some o => s.bump.modNamed t (fun th => { th with relaxed := th.relaxed.map (fun r => { r with joined := some o.id }) })
      | none => forward s.bump
    else forward s
  | _ => forward s
/-- A thread's relaxed load that took up an open read, when it did. -/
def joinedTo (opened : Nat) (th : Thread) : Option Relaxed := th.relaxed.filter (fun r => opened != 0 && r.joined == some opened)
/-- What a joined load takes from the reply of its open read: its own bytes of the word, or the fault. -/
def Relaxed.taken (r : Relaxed) (word : Word) : Reply → Reply
  | .value _ x => .value (BitVec.ofNat 64 (bits word.toNat (r.pa % 8 * 8) (8 * r.size))) x
  | .fault c d _ _ vc => .fault c d r.va (BitVec.ofNat 64 r.pa) vc
  | a => a
/-- The path from a gateway to a thread. -/
def gatewayPath (pa core slot : Nat) : Nat := path 0 (bankOf pa) (tid core slot)
/-- The joined loads of an open read take its value when its reply passes (R207). -/
def State.answerJoined (s : State) (opened pa : Nat) (r : Reply) (word : Word) : List (Nat × Thread) → State
  | [] => s
  | (t, th) :: rest =>
    match joinedTo opened th with
    | some x =>
      let s := s.modThread t (fun th => { th with relaxed := th.relaxed.map (fun y => { y with joined := none }) })
      (s.send (gatewayPath pa (t / 8) (t % 8)) (.relaxedReply ⟨t / 8, t % 8, th.gen⟩ (x.taken word r))).answerJoined opened pa r
        word rest
    | none => s.answerJoined opened pa r word rest
/-- An answer passes back through its gateway: the open read is closed, the loads joined to it take its value, and the answer
goes on to its issuer (R207). -/
def State.passIn (s : State) (a : Access) (r : Reply) (word : Word) : State :=
  let s := { s with openReads := s.openReads.filter (fun o => o.id != a.opened) }
  let s := s.answerJoined a.opened a.pa r word s.threads
  match a.who with
  | .thread t => s.send (gatewayPath a.pa t.core t.slot) (a.replyMsg r)
  | _ => s.send (replyPath a.pa 0) (a.replyMsg r)
/-- A message passes its die bridge. -/
def State.passBridge (s : State) (id : Nat) : State :=
  match s.msg? id with
  | some (.toBridge die a b) => (s.take id).passOut die a b
  | some (.fromBank _ a r word) => (s.take id).passIn a r word
  | _ => s
/-- The answers of a bank on their way to a die's gateway pass it, oldest first. -/
def State.flushReplies (s : State) (die pa : Nat) : State :=
  (s.flight.filter (fun f => match f.msg with
    | .fromBank d a _ _ => d == die && bankOf a.pa == bankOf pa
    | _ => false)).foldl (fun s f => s.passBridge f.id) s
/-- The open reads of a word at a die's gateway are closed (R207). -/
def State.closeReads (s : State) (die w : Nat) : State :=
  { s with openReads := s.openReads.filter (fun o => !(o.die == die && o.word == w)) }
/-- A read that an engine of a die makes at once: its reply passes the gateway after every answer that the bank gave before it
(R207, R212). -/
def State.engineSees (s : State) (die pa : Nat) : State := if offDie die pa then s.flushReplies die pa else s

/-- A store or full/empty form of an engine of a die, made at once, closes the open reads of its word (R207). -/
def State.engineTouches (s : State) (die pa : Nat) : State :=
  if offDie die pa then (s.flushReplies die pa).closeReads die (wordOfAddr pa) else s

/-! ## Accesses made at once (R212) -/

/-- What a load made at once gives. -/
inductive Read where
  | value (v : Word) (full : Bool) (x : Bool)
  | parks (a : Access)
  | refused (reason : Nat)
  deriving DecidableEq, Repr
/-- Whether a peer refuses an access made at once, and why: what its window, its tables and its holder table hold is free
(R386; log entry 5). -/
def State.peerSays (s : State) (a : Access) : Option Nat × State :=
  match regionOf a.pa with
  | .peer _ =>
    match s.peerReason a with
    | some reason => (some reason, s)
    | none =>
      let reason := Config.peerRefusal s.fresh
      (if (reason = 1 ∨ reason = 2 ∨ reason = 3 ∨ reason = 6) ∨ (reason = 7 ∧ a.asPerformed.form = .lrw) then some reason else none,
        s.bump)
  | _ => (none, s)
/-- A load that an engine or unit makes at once: the word, with F and X before it; or the access that parks; or a peer's
refusal. A view of an aperture may change the word (R384). -/
def State.readNow (s : State) (a0 : Access) : Read × State :=
  let a := a0.asPerformed
  let w := wordOfAddr a.pa
  match s.peerSays a0 with
  | (some reason, s) => (.refused reason, s)
  | (none, s) =>
    let s := s.wordError w a.who.word
    let m := s.wordMeta w
    if !holds a.form m then (.parks a, s)
    else
      let v := BitVec.ofNat 64 (s.busRead a.pa a.size)
      let s1 := (s.effect a).1
      (.value v m.full m.poison, if serves a.form m (s1.wordMeta w) then s1.feserve w else s1)
/-- A store made at once: it performs at its bank, or goes to the registers and to the host's memory as any issuer's store
does. -/
def State.storeNow (s : State) (a : Access) : State :=
  match a.msg with
  | .access a => (s.wordError (wordOfAddr a.pa) a.who.word).perform a
  | m => s.send (path 15 (bankOf a.pa) 0) m

/-! ## Sending an access (R173, R175, R212) -/

/-- The path of an issuer's accesses to a bank (R175). -/
def requestPath (t : TName) (pa : Nat) : Nat := path 3 (bankOf pa) (tid t.core t.slot)
/-- An access of a thread sent to its home bank, through the gateway of its die when the bank lies off it. -/
def State.sendAccess (s : State) (t : TName) (a : Access) : State :=
  let die := dieOf t.core
  s.send (requestPath t a.pa) (if offDie die a.pa then .toBridge die a none else a.msg)
/-- A posted store of an engine of a cluster, alone or as the two words of a flit (R209, R212). -/
def State.sendEngine (s : State) (eng : Nat) (a : Access) (b : Option Access) : State :=
  let die := eng % 2048 / 256
  s.send (path 3 (bankOf a.pa) (2 ^ 20 + eng))
    (if offDie die a.pa then .toBridge die a b
    else match b with
      | some b => .flit a b
      | none => a.msg)

/-- The issuer and target of a posted store in flight, or of a refusal on its way back. -/
def Msg.postedStore : Msg → Option (Who × Nat)
  | .access a | .flit a _ | .toBridge _ a _ | .hostStore a | .segWrite a | .vigctl a | .vigstat a =>
    if a.posted then some (a.who, a.pa) else none
  | .refusedStore n _ _ _ _ _ pa => some (.thread n, pa)
  | .refusedUnit a _ _ => some (a.who, a.pa)
  | _ => none
/-- Whether an issuer has a posted store that a test covers and that is not yet performed, or a refusal not yet reported
(R174, R456). -/
def State.postedBy (s : State) (w : Who) (covers : Nat → Bool) : Bool :=
  s.flight.any (fun f => match f.msg.postedStore with
    | some (x, pa) => decide (x = w) && covers pa
    | none => false) ||
  s.clusters.any (fun p => p.2.segWait.any (fun x => x.acc.posted && decide (x.acc.who = w))) ||
  s.waiters.any (fun p => p.2.any (fun x => x.acc.posted && decide (x.acc.who = w) && covers p.1))
/-- A thread's posted stores that a drain of a scope waits for (R174, R456). -/
def State.inFlightStores (s : State) (t : TName) (sc : Scope) : Bool := s.postedBy (.thread t) (coversStore sc)

end Sys2Proof.Machine
end

