-- ==== Sys2Proof/Machine/MemInstr.lean ====
section
/-! DEFINITION. The memory instructions as they issue (R168 to R190): loads, stores, the full/empty forms, reservations,
FENCE, PUT and ARM. Each makes its checks at issue (R171, R456), reads its operands and leaves the thread waiting, or goes
on where the form is relaxed. -/

namespace Sys2Proof.Machine

/-- The outstanding access of a thread that is not detached: a relaxed load (R20). -/
def busyWith (th : Thread) : Option Word := th.relaxed.map (fun r => r.va)
/-- A body that is an access: with another access outstanding the thread detaches and the bundle issues again (R18,
R20). -/
def notBusy (body : State → State) (s : State) : State :=
  match busyWith s.iss.snap with
  | some va => stopWait 1 va s
  | none => body s

/-- Whether a form is a full/empty form, which needs a word with metadata (R147). -/
def isFullEmpty : Form → Bool
  | .ld | .st | .copy _ _ => false
  | _ => true
/-- The right a form needs (R149). -/
def formKind : Form → Kind
  | .ld | .feq => .load
  | _ => .store

/-- The checks of an access on the way to memory, and its physical address (R170, R171, R456): an outstanding access,
alignment, translation, existence and metadata. An access to a port whose link is down raises cause 0x37 (R387). -/
def accessAt (f : Form) (size : Nat) (va : Word) (body : Nat → State → State) (s : State) : State :=
  notBusy (fun s =>
    if va.toNat % size ≠ 0 then trap { cause := 0x23, va := va } s
    else
      withAddress (formKind f) va (fun pa s =>
        let at25 : Trap := { cause := 0x25, va := va, vb := BitVec.ofNat 64 pa }
        match regionOf pa with
        | .absent => trap at25 s
        | .peer p =>
          if isFullEmpty f then trap { at25 with cause := 0x26 } s
          else if !((s.ports.toList[p]?.map (fun q => q.up)).getD false) then trap { at25 with cause := 0x37 } s
          else body pa s
        | _ => if isFullEmpty f && !hasMeta pa then trap { at25 with cause := 0x26 } s else body pa s) s) s

/-- An access of the issuing thread. -/
def issAccess (s : State) (f : Form) (va : Word) (pa size : Nat) (data : Word) (ord : MemOrd) (sc : Scope) (posted : Bool) :
    Access :=
  ⟨f, va, pa, size, data, .thread s.issName, ord, sc, false, posted, s.iss.snap.priv, s.iss.snap.launchid, 0, false, s.iss.pc⟩

/-- A non-relaxed form, which drains, leaves the core and detaches the thread until its reply (R18, R174, R176). -/
def detachAccess (f : Form) (va : Word) (pa size : Nat) (data : Word) (ord : MemOrd) (sc : Scope) (dest : Dest) (s : State) :
    State :=
  detach (.access f va pa size data ord sc dest) .drain s

/-- LD: a relaxed load makes gd absent and goes on; any other drains and detaches (R20, R177, R178). -/
def execLd (d a : Reg) (ty : Ity) (ord : MemOrd) (sc : Scope) (off : Imm 3) (g : PReg) (s : State) : Out :=
  .next (guarded g (needs [a] (clean [(a, 3)] fun s =>
    let va := amAddress s.iss.snap a ty off
    accessAt .ld ty.size va (fun pa s =>
      if ord = .rx then
        let r : Relaxed := ⟨s.iss.instr, d, ty, va, pa, ty.size, sc, s.iss.pc, s.iss.word, none, false, s.iss.snap.isPresent d⟩
        (live (fun th => { th with relaxed := some r, present := setBit th.present d.val false }) s).sendAccess s.issName
          (issAccess s .ld va pa ty.size 0 .rx sc false)
      else detachAccess .ld va pa ty.size 0 ord sc (.reg d ty) s) s)) s)

/-- ST: a relaxed store is posted and the thread goes on; any other drains and detaches (R173, R177). -/
def execSt (d a : Reg) (ty : Ity) (ord : MemOrd) (sc : Scope) (off : Imm 3) (g : PReg) (s : State) : Out :=
  .next (guarded g (needs [a, d] (clean [(d, 0), (a, 3)] fun s =>
    let va := amAddress s.iss.snap a ty off
    let v := s.iss.snap.reg d
    accessAt .st ty.size va (fun pa s =>
      if ord = .rx then s.sendAccess s.issName (issAccess s .st va pa ty.size v .rx sc true)
      else detachAccess .st va pa ty.size v ord sc .none s) s)) s)

/-- A full/empty form that only reads registers for its address (R179). -/
def wordForm (f : Form) (a : Reg) (ord : MemOrd) (sc : Scope) (off : Imm 3) (dest : Dest) (g : PReg) (s : State) : State :=
  guarded g (needs [a] (clean [(a, 3)] fun s =>
    let va := amAddress s.iss.snap a .s64 off
    accessAt f 8 va (fun pa s => detachAccess f va pa 8 0 ord sc dest s) s)) s
/-- A full/empty form that stores gd; `use` is the poison use of the value (R171, R396). -/
def wordStore (f : Form) (use : Nat) (d a : Reg) (ord : MemOrd) (sc : Scope) (off : Imm 3) (dest : Dest) (g : PReg)
    (s : State) : State :=
  guarded g (needs [a, d] (clean [(d, use), (a, 3)] fun s =>
    let va := amAddress s.iss.snap a .s64 off
    let v := s.iss.snap.reg d
    accessAt f 8 va (fun pa s => detachAccess f va pa 8 v ord sc dest s) s)) s

/-- LDW waits for full and reads (R180). -/
def execLdw (d a : Reg) (_ty : Ity) (ord : MemOrd) (sc : Scope) (off : Imm 3) (g : PReg) (s : State) : Out :=
  .next (wordForm .ldw a ord sc off (.reg d .n64) g s)
/-- LDC waits for full, reads and empties (R180). -/
def execLdc (d a : Reg) (_ty : Ity) (ord : MemOrd) (sc : Scope) (off : Imm 3) (g : PReg) (s : State) : Out :=
  .next (wordForm .ldc a ord sc off (.reg d .n64) g s)
/-- STF waits for empty, writes and fills (R180). -/
def execStf (d a : Reg) (_ty : Ity) (ord : MemOrd) (sc : Scope) (off : Imm 3) (g : PReg) (s : State) : Out :=
  .next (wordStore .stf 0 d a ord sc off .none g s)
/-- STE waits for full and overwrites (R180). -/
def execSte (d a : Reg) (_ty : Ity) (ord : MemOrd) (sc : Scope) (off : Imm 3) (g : PReg) (s : State) : Out :=
  .next (wordStore .ste 0 d a ord sc off .none g s)
/-- FEST sets the state named and removes HOLD (R181). -/
def execFest (full : Bool) (a : Reg) (_ty : Ity) (ord : MemOrd) (sc : Scope) (off : Imm 3) (g : PReg) (s : State) : Out :=
  .next (wordForm (.fest full) a ord sc off .none g s)
/-- FEQ reads the word's F into pd (R182). -/
def execFeq (pd : PReg) (a : Reg) (_ty : Ity) (ord : MemOrd) (sc : Scope) (off : Imm 3) (g : PReg) (s : State) : Out :=
  .next (wordForm .feq a ord sc off (.pred pd) g s)
/-- LRW is LDC that records the thread as HOLD (R183). -/
def execLrw (d a : Reg) (_ty : Ity) (ord : MemOrd) (sc : Scope) (off : Imm 3) (g : PReg) (s : State) : Out :=
  .next (wordForm .lrw a ord sc off (.reg d .n64) g s)
/-- SCH stores when HOLD names the thread, and gives gd 0 or 1 (R184). -/
def execSch (d a : Reg) (_ty : Ity) (ord : MemOrd) (sc : Scope) (off : Imm 3) (g : PReg) (s : State) : Out :=
  .next (wordStore .sch 2 d a ord sc off (.status d) g s)
/-- RCAN gives a reservation up (R185). -/
def execRcan (a : Reg) (_ty : Ity) (ord : MemOrd) (sc : Scope) (off : Imm 3) (g : PReg) (s : State) : Out :=
  .next (wordForm .rcan a ord sc off .none g s)

/-- FENCE drains at its scope and discards the bundles fetched ahead (R187, R86). -/
def execFence (sc : Scope) (g : PReg) (s : State) : Out :=
  .next (guarded g (fun s => detach (.fence sc) .drain (live (fun th => { th with ahead := [] }) s)) s)

/-- PUT sends b's value and poison to register idx of the thread a names; a value that names no target raises cause 0x2A
(R188, R189). -/
def execPut (a idx b : Reg) (g : PReg) (s : State) : Out :=
  .next (guarded g (needs [a, b] (clean [(a, 7)] fun s =>
    let th := s.iss.snap
    let target := th.reg a
    if fld target 63 29 ≠ 0 ∨ fld target 2 0 = 7 then trap { cause := 0x2A, detail := idx.val, va := target } s
    else notBusy (detach (.put target idx (th.reg b) (th.isPoisoned b)) .drain) s)) s)

/-- ARM makes gd absent and leaves its value and poison (R190). -/
def execArm (d : Reg) (g : PReg) (s : State) : Out :=
  .next (guarded g (live (fun th => { th with present := setBit th.present d.val false })) s)

end Sys2Proof.Machine
end

