-- ==== Sys2Proof/Machine/Async.lean ====
section
/-! DEFINITION. Asynchronous faults, held engine faults and notices, and where each record goes (R189, R257, R260, R394,
R396, R398). -/

namespace Sys2Proof.Machine

/-- The FMBX of a launch's record (R250). -/
def Launch.fmbx (l : Launch) : Word := wordAt l.words 5
/-- A fault recorded for a live launch (R255). -/
def State.markFault (s : State) (launch : Word) : State :=
  match s.launchOf launch with
  | some _ => s.modLaunch (lidOf launch) (fun l => { l with faulted := true })
  | none => s

/-- The fields of an asynchronous record (R396): the operation, the cause, the R386 reason of cause 0x36, the engine that
sends it if one does, the issuer, and the bundle it comes from (R395). -/
def asyncFields (s : State) (op cause reason : Nat) (eng : Option Nat) (issuer : TName) (launch pc va vb vd : Word) :
    RecordFields := {
  cls := 2, cause := cause, detail := op + (if cause = 0x36 then reason * 256 else 0), eng := eng.isSome,
  svc := eng.isNone && isSvc issuer.core, name := eng.getD issuer.bits, pc := pc, va := va, vb := vb,
  launch := launch, time := s.cycle, vc := issuer.word, vd := vd }
/-- The location of an engine; the launch unit and the dispatchers, for which R415 has no kind, are given the Chandler's (log
entry 77). -/
def engineLoc (n : Nat) : Nat :=
  if n < 2048 then loc 8 n
  else if n < 4096 then loc 7 (n - 2048)
  else if n < 4224 then loc 9 (n - 4096)
  else if n = 4224 then loc 10 0
  else loc 11 0
/-- The location of what an asynchronous record comes from: its engine, or its issuer's core (R415). -/
def RecordFields.unitLoc (f : RecordFields) (issuer : TName) : Nat := if f.eng then engineLoc f.name else coreLoc issuer.core

/-- An asynchronous fault routed under R398: to FMBX of a live launch, else to the service core of the issuer's district;
of a step launch that has ended, to the Chandler; of any other, to the device error log. -/
def State.sendAsync (s : State) (issuer : TName) (launch : Word) (f : RecordFields) : State :=
  match s.launchOf launch with
  | some l =>
    let s := s.markFault launch
    if l.fmbx ≠ 0 then { s with fmbxQueue := s.fmbxQueue ++ [⟨l.fmbx, l.space, l.priv, l.issuer, districtOf issuer.core, f.record⟩] }
    else s.sendRecord (svcBase + districtOf issuer.core) f.record
  | none =>
    if s.chandler.pastSteps.any (fun p => p.1 == launch) then
      { s with chandler := { s.chandler with lateFaults := s.chandler.lateFaults ++ [(launch, f.record)] } }
    else s.logEntry 3 false f.cause (f.unitLoc issuer) issuer.word f.va

/-- A fault of an engine that holds its command for service goes to the service core of the engine's district (R396,
R398). -/
def State.holdFault (s : State) (eng district op cause reason : Nat) (issuer : TName) (launch pc va vb vd : Word) : State :=
  let f := asyncFields s op cause reason (some eng) issuer launch pc va vb vd
  (s.markFault launch).sendRecord (svcBase + district) f.record

/-- The STEPSEQ of a step launch, live or ended, and 0 of any other (R398, R404). -/
def State.stepSeq (s : State) (launch : Word) : Nat :=
  match s.launchOf launch with
  | some l => (l.step.map (fun p => p.2)).getD 0
  | none => ((s.chandler.pastSteps.find? (fun p => p.1 == launch)).map (fun p => p.2.2)).getD 0
/-- A unit marked for repair enters the repair table when it has room (R410). -/
def State.markUnit (s : State) (locn : Nat) : Bool × State :=
  if s.repairs.length < 256 then (true, { s with repairs := mset s.repairs (2 ^ 60 + locn) (place locn 0) }) else (false, s)
/-- A flare (R407): its hop, issuer and engine, bundle, words 2 and 3, the failing unit and word 7; `rowp` names the rows it concerns.
It is routed under R398 and counts as a fault of its launch (R255), and writes a lasting entry in the error log; its unit is marked (R409). -/
def State.flare (s : State) (hop : Nat) (issuer : TName) (eng : Option Nat) (launch pc w2 w3 : Word) (rowp locn : Nat)
    (w7 : Word) : State :=
  let f : RecordFields := {
    cls := 4, cause := 0x19, detail := hop, eng := eng.isSome, svc := eng.isNone && isSvc issuer.core,
    name := eng.getD issuer.bits, pc := pc, va := w2, vb := w3, launch := launch, time := s.cycle,
    vc := place (s.stepSeq launch) 32 ||| place locn 0, vd := w7 }
  let (room, s) := s.markUnit locn
  let s := (s.logEntry 2 room 0x19 locn (if eng = some 4224 then 4224 else issuer.word) w2).markFault launch
  match (s.launchOf launch).bind (fun l => l.step) with
  | some (bind, seq) =>
    if s.chandler.binds.any (fun p => p.1 == bind && p.2.isOpen && p.2.stepseq.toNat == seq) then
      { s with chandler := { s.chandler with binds := s.chandler.binds.map (fun p =>
          if p.1 = bind then
            let now := !p.2.reex || p.2.st == .placed (lidOf launch)
            let done := ((mget p.2.past seq).getD []).filter (fun y => y.fault != some 1 &&
              (if rowp = 0 then !now else y.slot + 1 == rowp))
            (p.1, { p.2 with
              flared := p.2.flared ++
                (if !now then [] else if rowp = 0 then p.2.rows.map (fun r => r.slot) else [rowp - 1])
              late := p.2.late ++ done.map (fun y => y.ridx) })
          else p) } }
    else { s with chandler := { s.chandler with lateFaults := s.chandler.lateFaults ++ [(launch, f.record)] } }
  | none => s.sendAsync issuer launch f

/-- A notice of a kind to a core's mailbox, naming a target and a register (R189, R260, R396). -/
def State.notice (s : State) (core kind : Nat) (target : Word) (reg : Nat) : State :=
  s.sendRecord core
    ({ cls := 3, cause := 0, detail := kind, va := target, vb := place reg 0, time := s.cycle } : RecordFields).record

/-- The least message of a kind that has arrived and waits, among those the test accepts: arrival order is order of due
cycle, then of number (R141). -/
def State.firstArrived (s : State) (p : Msg → Bool) : Option Nat :=
  let l := s.flight.filter (fun f => decide (f.due ≤ s.cycle) && p f.msg)
  (l.foldl (fun (b : Option Flight) f => match b with
    | none => some f
    | some x => if f.due < x.due then some f else some x) none).map (fun f => f.id)

end Sys2Proof.Machine
end

