-- ==== Sys2Proof/Machine/Threads.lean ====
section
/-! DEFINITION. Threads in their slots: the lane pool (R36, R37), allocation and generations (R259), the end of a thread
(R111), barriers (R263, R265), work lists (R266, R273), spawn buffers (R261), and the reductions (R268). -/

namespace Sys2Proof.Machine

/-! ## The lane pool (R36, R37, R455) -/

/-- The lanes of a pool: 256 in a cluster, 64 on a service core. -/
def poolSize (cl : Nat) : Nat := if cl < 2048 then 256 else 64
/-- The free lanes of a pool. -/
def State.freeLanes (s : State) (cl : Nat) : Nat :=
  poolSize cl - ((s.poolThreads cl).map (fun t => t.grant.toNat)).sum
/-- The lane rule of BAR: a grant above its fair share drops by the shortfall, rounded up to a multiple of 8 but never
below the share (R37). -/
def State.barGrant (s : State) (cl : Nat) (grant : Nat) : Nat :=
  let l := s.poolThreads cl
  let short := (l.map (fun t => t.want.toNat - t.grant.toNat)).sum
  let wanting := (l.filter (fun t => t.want ≠ 0)).length
  let share := max 8 (poolSize cl / wanting / 8 * 8)
  let free := s.freeLanes cl
  if share < grant ∧ free < short then max share (grant - (min (grant - share) (short - free) + 7) / 8 * 8) else grant

/-! ## Allocation (R21, R259, R261) -/

/-- The lowest free user slot of a core that is unreserved, or reserved for a sender (R259, R261). -/
def State.freeSlot (s : State) (core : Nat) (sender : Option Nat) : Option Nat :=
  let k := s.core core
  lowest 7 (fun i => (s.thread (tid core i)).isNone &&
    (match k.reserved.find? (fun p => p.1 == i) with
      | none => true
      | some p => sender == some p.2))
/-- A thread put into a slot: its generation rises by 1 modulo 4,096 and it starts under R21. -/
def State.allocate (s : State) (core slot : Nat) (launch space : Word) (priv : Bool) (pc : Word) (f : Thread → Thread) :
    State :=
  let k := s.core core
  let gen := k.slotGen.toList.getD slot 0 + 1
  let s := s.setCore core { k with
    slotGen := if h : slot < 8 then k.slotGen.set slot gen else k.slotGen
    reserved := k.reserved.filter (fun p => p.1 != slot) }
  s.setThread (tid core slot)
    (f { Thread.init with gen := gen, launchid := launch, space := space, priv := priv, pc := pc })

/-- A freed slot is reserved for the sender at the head of the notice list, which gets a slot-free notice (R261). -/
def State.slotFreed (s : State) (core slot : Nat) : State :=
  let k := s.core core
  match k.notices with
  | [] => s
  | sender :: r =>
    (s.setCore core { k with notices := r, reserved := k.reserved ++ [(slot, sender)] }).send (path 5 core sender)
      (.slotFree sender core slot)

/-! ## Finishing an issued instruction -/

/-- The threads of a launch in a unit that a test describes. -/
def State.launchThreads (s : State) (launch : Word) (p : Nat → Bool) : List (Nat × Thread) :=
  s.threads.filter (fun x => x.2.launchid == launch && p (x.1 / 8))

/-- The repetition buffer after a captured instruction has been issued and done: the next one, or the next iteration; after
the last, ACT clears (R43, R139; log entry 22). -/
def Rep.advance (r : Rep) : Rep :=
  if r.pos + 1 < r.code.length then { r with pos := r.pos + 1 }
  else if r.iter.toNat + 1 < r.count.toNat then { r with pos := 0, iter := r.iter + 1 }
  else { r with pos := 0, iter := 0, act := false }

/-- A thread's oldest issued instruction ends: its result is written, a replay moves on (R44: a fault in between leaves ITER
and POS at it), and the thread goes on with the next or rejoins, from the next cycle on; a pending stop takes hold (R19,
R420). -/
def State.popPend (s : State) (t : Nat) (f : Thread → Thread) : State :=
  s.modThread t (fun th =>
    let replayed := th.rep.act && (th.pend.head?.map (fun p => p.vslot)).getD false
    let th := { th with
      pend := th.pend.drop 1
      woke := s.cycle + 1
      rep := if replayed then th.rep.advance else th.rep }
    let th := f th
    if th.pend.isEmpty && th.stopq && decide (th.run = .run) then { th with run := .stopped, stopq := false } else th)

/-! ## Barriers (R263, R265) -/

/-- GROUPN and GROUPID of a launch's record (R250). -/
def Launch.groupN (l : Launch) : Nat := fld (wordAt l.words 12) 19 16
def Launch.groupId (l : Launch) : Nat := fld (wordAt l.words 12) 15 0
/-- The level a BAR of a launch gathers at: none for .slot, 1 core to 5 device, and the scope's own code for the barriers of a
launch group of two modules or more (R263). -/
def barLevel (l : Launch) (sc : Scope) : Option Nat :=
  if sc.code = 0 then none else if 7 ≤ sc.code ∧ 2 ≤ l.groupN then some sc.code else some (min sc.code 5)
/-- The unit of a level that holds a core. -/
def barUnit (level core : Nat) : Nat :=
  match level with
  | 1 => core
  | 2 => clusterOf core
  | 3 => districtOf core
  | 4 => dieOf core
  | _ => 0
/-- What the other modules of a launch's group have brought to an episode: their arrivals, and whether every live thread of
theirs has arrived; nothing for an episode inside the module (R263; log entry 6). -/
def State.elsewhere (s : State) (l : Launch) (level : Nat) : Nat × Bool :=
  if level ≤ 5 then (0, true) else (mget s.groups (l.groupId * 16 + level)).getD (0, false)
/-- Whether an episode is complete: N arrivals, or, with N = 0, every live thread of the launch, or of its group, in the
unit. -/
def State.barDone (s : State) (launch : Word) (l : Launch) (e : Episode) : Bool :=
  let far := s.elsewhere l e.scope
  match e.n with
  | none => false
  | some n =>
    if n = 0 then
      far.2 && !e.arrived.isEmpty && (s.launchThreads launch (fun c => barUnit e.scope c == e.place)).all
        (fun p => e.arrived.any (fun a => decide (tid a.core a.slot = p.1 ∧ a.gen = p.2.gen)))
    else decide (n.toNat ≤ e.arrived.length + far.1)
/-- A release of a waiting thread's BAR; a thread whose context is saved finds the episode complete on resume. -/
def State.release (s : State) (n : TName) : State :=
  match s.named n with
  | some th =>
    match th.pend with
    | { op := .bar .., .. } :: _ => s.popPend (tid n.core n.slot) id
    | _ => s
  | none => s
/-- Every complete episode of a launch ends, releasing its arrivals (R263). -/
def State.settleBars (s : State) (launch : Word) : State :=
  match s.launchOf launch with
  | none => s
  | some l =>
    let done := l.episodes.filter (s.barDone launch l)
    if done.isEmpty then s
    else
      let s1 := s.modLaunch (lidOf launch) (fun x => { x with episodes := x.episodes.filter (fun e => !s.barDone launch l e) })
      let s1 := { s1 with groups := s1.groups.filter (fun p => !done.any (fun e => p.1 == l.groupId * 16 + e.scope)) }
      done.foldl (fun s e => e.arrived.foldl State.release s) s1
/-- A thread arrives at its unit's episode of a scope, or raises a barrier mismatch; the first arrival fixes N (R263). -/
def State.barArrive (s : State) (name : TName) (launch : Word) (sc : Scope) (level : Nat) (n : BitVec 16) :
    State :=
  match s.launchOf launch with
  | none => s.popPend (tid name.core name.slot) id
  | some l =>
    let place := barUnit level name.core
    let waits (s : State) := s.modNamed name (fun th => th.modHead (fun p => { p with phase := .waiting }))
    match l.episodes.find? (fun e => e.scope == level && e.place == place) with
    | none =>
      (waits (s.modLaunch (lidOf launch) (fun l =>
        { l with episodes := l.episodes ++ [⟨level, place, some n, [name]⟩] }))).settleBars launch
    | some e =>
      let fixed := e.n.getD 0
      if n ≠ 0 ∧ n ≠ fixed then
        s.trapPending name.core name.slot
          { cause := 0x30, detail := sc.code, va := place' fixed, vb := place' n }
      else
        (waits (s.modLaunch (lidOf launch) (fun l =>
          { l with episodes := l.episodes.map (fun x =>
              if x.scope == level && x.place == place then { x with arrived := x.arrived ++ [name] } else x) }))).settleBars
          launch
where
  /-- A count as a word. -/
  place' (n : BitVec 16) : Word := place n.toNat 0

/-! ## Work lists (R266, R273) -/

/-- The cluster at mesh coordinates (R412). -/
def clusterAt (x y : Nat) : Nat := (y / 16 * 4 + x / 16) * 256 + (y / 4 % 4 * 4 + x / 4 % 4) * 16 + (y % 4 * 4 + x % 4)
/-- The adjacent cores of a core, ascending: the others of its cluster, and the same-numbered core of each mesh neighbour
held by the same launch (R266). -/
def State.adjacent (s : State) (core : Nat) : List Nat :=
  if isSvc core then []
  else
    let cl := core / 8
    let x := meshX cl
    let y := meshY cl
    let near := (if 0 < x then [clusterAt (x - 1) y] else []) ++ (if x < 63 then [clusterAt (x + 1) y] else [])
      ++ (if 0 < y then [clusterAt x (y - 1)] else []) ++ (if y < 31 then [clusterAt x (y + 1)] else [])
    let held := near.filter (fun c => (s.cluster cl).holder.isSome && (s.cluster c).holder == (s.cluster cl).holder)
    ((coresOf cl).filter (fun c => c != core) ++ held.map (fun c => c * 8 + core % 8)).insertionSort (fun a b => a ≤ b)
/-- The least-loaded core among some, by a count; the lowest number wins a tie. -/
def leastLoaded (count : Nat → Nat) : List Nat → Option Nat
  | [] => none
  | c :: r =>
    match leastLoaded count r with
    | none => some c
    | some d => if count d < count c then some d else some c
/-- Where a pushed entry goes: its core's list, else the least-loaded adjacent core with room (R273). -/
def State.pushTarget (s : State) (core : Nat) : Option Nat :=
  let count c := (s.core c).worklist.length
  if count core < 1024 then some core else leastLoaded count ((s.adjacent core).filter (fun c => decide (count c < 1024)))
/-- WLPOP's waiters of a core take entries in slot order (R273). -/
def State.servePops (s : State) (core : Nat) : Nat → State
  | 0 => s
  | n + 1 =>
    let waiter := (s.slotsOf core).find? (fun p => match p.2.pend with
      | { op := .wlpop _, phase := .waiting, .. } :: _ => true
      | _ => false)
    match waiter, (s.core core).worklist with
    | some (slot, th), (v, x) :: r =>
      match th.pend with
      | { op := .wlpop d, .. } :: _ =>
        let s := s.modCore core (fun k => { k with worklist := r })
        (s.popPend (tid core slot) (fun th => th.setReg d v x)).servePops core n
      | _ => s
    | _, _ => s
/-- An entry pushed on top of a core's list. -/
def State.pushEntry (s : State) (core : Nat) (v : Word) (x : Bool) : State :=
  (s.modCore core (fun k => { k with worklist := (v, x) :: k.worklist })).servePops core 7
/-- The cores of a launch's clusters. -/
def Launch.cores (l : Launch) : List Nat := l.clusters.flatMap (fun p => coresOf p.1)
/-- When every live thread of the launch waits in WLPOP and no list of its cores holds an entry, each WLPOP writes 0
(R273). -/
def State.settlePops (s : State) (launch : Word) : State :=
  let l := s.launchThreads launch (fun _ => true)
  let waits (th : Thread) : Option Reg := match th.pend with
    | { op := .wlpop d, phase := .waiting, .. } :: _ => some d
    | _ => none
  if !l.isEmpty && l.all (fun p => (waits p.2).isSome) && 
      (((s.launchOf launch).map Launch.cores).getD []).all (fun c => (s.core c).worklist.isEmpty) then
    l.foldl (fun s p => match waits p.2 with
      | some d => s.popPend p.1 (fun th => th.setReg d 0 false)
      | none => s) s
  else s

/-! ## The end of a thread (R111, R257) -/

/-- What the launch and the core learn when a thread leaves its slot: its starved bit and reservations, the barrier counts
of R263, the waits of R273. -/
def State.afterLeaving (s : State) (core slot : Nat) (launch : Word) : State :=
  let s := s.modCore core (fun k => { k with
    starved := setBit k.starved slot false
    charges := k.charges.filter (fun p => p.1 != slot)
    mbxq := k.mbxq.filter (fun x => x != slot)
    walks := k.walks.filter (fun w => w.slot != slot) })
  ((s.slotFreed core slot).settleBars launch).settlePops launch
/-- EXIT: the slot and the grant return to their pools and FLAGS go to the launch flag word (R111, R257). -/
def State.endThread (s : State) (core slot : Nat) : State :=
  match s.thread (tid core slot) with
  | none => s
  | some th =>
    ((s.launchFlags th.launchid th.flags).dropThread (tid core slot)).afterLeaving core slot th.launchid
/-- An issued instruction ends; a thread whose EXIT has issued leaves once nothing is outstanding. -/
def State.finish (s : State) (t : Nat) (f : Thread → Thread) : State :=
  let s := s.popPend t f
  match s.thread t with
  | some th => if th.exiting && th.pend.isEmpty then s.endThread (t / 8) (t % 8) else s
  | none => s

/-! ## Spawn buffers (R261) -/

/-- A message taken from its core's spawn buffer. -/
def State.dropSpawn (s : State) (sender seq : Nat) : State :=
  s.modCore sender (fun k => { k with spawnBuf := k.spawnBuf.filter (fun p => p.1 != seq) })
/-- A buffered message sent to its target. -/
def State.sendSpawn (s : State) (sender : Nat) (p : Nat × Carried) : State :=
  s.send (path 6 sender p.2.target) (.spawn sender p.1)

/-! ## Reductions (R268) -/

/-- A key's NCONT, REG and OWNER: the key is NRCTL's own layout (R267). -/
def keyCount (k : Word) : Nat := fld k 55 40
def keyReg (k : Word) : Nat := fld k 36 32
def keyOwner (k : Word) : TName := ⟨fld k 16 3, fld k 2 0, BitVec.ofNat 12 (fld k 28 17)⟩
/-- combine (R268): whether the first of two is kept. -/
def combineFirst (pv pi qv qi : Word) : Bool :=
  let p := Fty.f64.val pv.toNat
  let q := Fty.f64.val qv.toNat
  if p.isNan && !q.isNan then true
  else if q.isNan && !p.isNan then false
  else if !p.isNan && decide (0 < cmpVal p q) then true
  else if !q.isNan && decide (cmpVal p q < 0) then false
  else decide (pi.toNat < qi.toNat)
/-- Two packets merged. -/
def NredEntry.merge (p q : NredEntry) : NredEntry :=
  let keep := combineFirst p.v p.i q.v q.i
  ⟨p.key, if keep then p.v else q.v, if keep then p.i else q.i, p.count + q.count, p.poison || q.poison,
    p.launches ++ q.launches⟩
/-- A complete entry's values written to its owner's registers in one action (R268). -/
def NredEntry.deliver (e : NredEntry) (th : Thread) : Thread :=
  let r := keyReg e.key
  (th.setReg (Fin.ofNat 32 r) e.v e.poison).setReg (Fin.ofNat 32 (r + 1)) e.i e.poison
/-- Whether an entry's owner is pre-empted, so that the delivery waits in the entry until RESTCTX (R268). -/
def State.ownerHeld (s : State) (e : NredEntry) : Bool := ((s.named (keyOwner e.key)).map (fun th => decide (th.run = .held))).getD false
/-- Delivery under the generation check: a stale one is a notice to the owner's core (R260, R268). -/
def State.deliverNred (s : State) (e : NredEntry) : State :=
  let o := keyOwner e.key
  match s.named o with
  | none => s.notice o.core 1 (place o.bits 0) (keyReg e.key)
  | some _ => s.modNamed o e.deliver
/-- The complete entries of a core delivered, but for those whose owner is pre-empted. -/
def State.deliverFull (s : State) (core : Nat) : State :=
  let ready (x : NredEntry) : Bool := decide (keyCount x.key ≤ x.count) && !s.ownerHeld x
  ((s.core core).nred.filter ready).foldl State.deliverNred
    (s.modCore core (fun k => { k with nred := k.nred.filter (fun x => !ready x) }))
/-- A packet merged into the entries of its key, or opened as a further one. -/
def mergeInto (e : NredEntry) : List NredEntry → List NredEntry
  | [] => [e]
  | x :: r => if x.key == e.key && decide (x.count + e.count ≤ keyCount e.key) then x.merge e :: r else x :: mergeInto e r

end Sys2Proof.Machine
end

