-- ==== Sys2Proof/Machine/Copy.lean ====
section
/-! DEFINITION. Copies (R163 to R166, R191 to R198, R433) and tags (R199, R200): CPY, CPYS, CPYD, the tag instructions, and
the cluster copy engine, whose steps are accepting a command, starting and moving it word by word, a scaled chunk's
arrival (R69) and completing it. -/

namespace Sys2Proof.Machine

/-! ## Segments (R65 to R68) -/

/-- SEGFMT fields. -/
def segFmt (w : Word) : Nat := fld w 15 12
def segScl (w : Word) : Bool := bit w 8
def segRnd (w : Word) : Rm := (Rm.ofCode (fld w 11 9)).getD .rne
/-- The element type of a format code; raw and the reserved codes have none. -/
def fmtTy : Nat → Option Ty
  | 1 => some .s8 | 2 => some .ln6 | 3 => some .ln8 | 4 => some .b16 | 5 => some .h16 | 6 => some .f32 | 7 => some .f64
  | 8 => some .s32 | 9 => some .n8 | _ => none
/-- The bytes of a segment. -/
def segBytes : Nat := 0x5000
/-- The segment a physical address lies in: cluster, number and offset (R65). -/
def segOf (pa : Nat) : Option (Nat × Nat × Nat) :=
  match regionOf pa with
  | .scratch c => some (c, (pa - scratchBase c) / segBytes, (pa - scratchBase c) % segBytes)
  | _ => none
/-- SEGFMTn of a cluster. -/
def State.segWord (s : State) (c n : Nat) : Word := (s.cluster c).segfmt.toList.getD n 0
/-- The segments that a contiguous end spans, and whether it breaks R68's rule for every copy: more than one segment, of
which some is not raw. -/
def segSpan (pa len : Nat) : List (Nat × Nat) :=
  match segOf pa with
  | some (c, n, off) => if len = 0 then [] else (List.range ((off + len - 1) / segBytes + 1)).filterMap (fun k =>
      if n + k < 16 then some (c, n + k) else none)
  | none => []
def State.spanRefused (s : State) (pa len : Nat) : Bool :=
  let l := segSpan pa len
  decide (1 < l.length) && l.any (fun p => segFmt (s.segWord p.1 p.2) != 0)
/-- The scale store byte of the block at an offset (R67). -/
def State.scaleAt (s : State) (c n off : Nat) : Nat :=
  (Memory.read s.mem (clusterCtlBase c + 0x1000 + 0x400 * n + off / 32)).toNat
/-- rnd or lnround of a value to a type (R54, R55, R68). -/
def roundTo (t : Ty) (rm : Rm) (v : Val) : Nat × FlagBits :=
  if t.isFloat then rndVal t.fty rm v else if t.isLn then lnround t.isLn6 rm v else rndInt t rm v
/-- A value times the scale of its block; a scale of 255 makes it NaN (R48). -/
def scaleVal (k : Nat) (v : Val) : Val :=
  if k = 255 then .nan false
  else
    match v with
    | .fin n m e => .fin n m (e + k - 127)
    | v => v

/-- Bytes an element fills in memory: LN6 elements lie one to a byte (R46). -/
def elemBytes (t : Ty) : Nat := if t = .ln6 then 1 else t.width / 8

/-! ## A command's shape (R166, R194 to R196) -/

/-- DPAT's fields: B, NC, FIRST, TOFF × 64. -/
def dpatB (d : Word) : Nat := (if fld d 15 8 = 0 then 256 else fld d 15 8) * 64
def dpatNc (d : Word) : Nat := fld d 7 4
/-- The source stride of CPYD. -/
def CopyCmd.stride (c : CopyCmd) : Nat := if c.dest = 0 then dpatB c.dpat else c.dest.toNat
/-- The chunks of CPYS. -/
def CopyCmd.chunks (c : CopyCmd) : Nat := fld c.count 15 0
/-- Whether the source of a CPYS is a segment. -/
def CopyCmd.fromSeg (c : CopyCmd) : Bool := (segOf c.spa).isSome
/-- The conversion of a CPY: source and destination types, the mode, and the source segment when it has scales (R68). -/
structure Conv where
  src : Ty
  dst : Ty
  rm : Rm
  scl : Option (Nat × Nat × Nat)
  deriving DecidableEq, Repr
/-- The conversion between the segments that hold the ends' first bytes: both typed and of different formats. -/
def State.convOf (s : State) (c : CopyCmd) : Option Conv :=
  match c.kind, segOf c.spa, segOf c.dpa with
  | .cpy, some (sc, sn, so), some (dc, dn, _) =>
    let fs := s.segWord sc sn
    let fd := s.segWord dc dn
    match fmtTy (segFmt fs), fmtTy (segFmt fd) with
    | some ts, some td =>
      if segFmt fs = segFmt fd then none else some ⟨ts, td, segRnd fd, if segScl fs then some (sc, sn, so) else none⟩
    | _, _ => none
  | _, _, _ => none
/-- Source bytes that a command reads, and destination bytes that it writes. -/
def CopyCmd.srcLen (c : CopyCmd) : Nat :=
  match c.kind with
  | .cpy => c.count.toNat
  | .cpys => c.chunks * (if c.fromSeg then 4096 else 4224)
  | .cpyd =>
    let b := dpatB c.dpat
    if c.count.toNat < b then c.count.toNat else (c.count.toNat / b - 1) * c.stride + b
def State.dstLen (s : State) (c : CopyCmd) : Nat :=
  match c.kind with
  | .cpy =>
    match s.convOf c with
    | some v => c.count.toNat / elemBytes v.src * elemBytes v.dst
    | none => c.count.toNat
  | .cpys => c.chunks * 4096
  | .cpyd => c.count.toNat
/-- The segments a command names (R66). -/
def State.copySegs (s : State) (c : CopyCmd) : List (Nat × Nat) :=
  segSpan c.spa c.srcLen ++ (if c.kind = .cpyd then [] else segSpan c.dpa (s.dstLen c))

/-- The refusal of a command at acceptance, as the address of the end that offends; its ends are translated (R68, R166,
R193 to R196). -/
def State.copyRefused (s : State) (c : CopyCmd) : Option Word :=
  let sw := (segOf c.spa).map (fun p => s.segWord p.1 p.2.1)
  let dw := (segOf c.dpa).map (fun p => s.segWord p.1 p.2.1)
  let n := c.count.toNat
  let typed (w : Option Word) : Nat := (w.map segFmt).getD 0
  match c.kind with
  | .cpy =>
    let dn := s.dstLen c
    if 2 ^ 36 < n then some c.dest
    else if (dw.map segScl).getD false then some c.dest
    else if (match s.convOf c with
        | some v => decide (n % elemBytes v.src ≠ 0)
        | none => false) then some c.src
    else if s.spanRefused c.spa n then some c.src
    else if s.spanRefused c.dpa dn then some c.dest
    else if n ≠ 0 ∧ dn ≠ 0 ∧ c.src.toNat < c.dest.toNat + dn ∧ c.dest.toNat < c.src.toNat + n then some c.dest
    else none
  | .cpys =>
    if fld c.count 63 48 ≠ 0 ∨ fld c.count 31 16 ≠ 0 then some c.dest
    else if c.chunks = 0 then none
    else if !((dw.map segScl).getD false) then some c.dest
    else
      let off := ((segOf c.dpa).map (fun p => p.2.2)).getD 0
      if off % 4096 ≠ 0 ∨ segBytes < off + c.chunks * 4096 then some c.dest
      else if sw.isSome && (typed sw != typed dw || !((sw.map segScl).getD false)) then some c.src
      else if s.spanRefused c.spa c.srcLen then some c.src
      else none
  | .cpyd =>
    let b := dpatB c.dpat
    let nc := dpatNc c.dpat
    if n % b ≠ 0 ∨ 2 ^ 24 < n then some c.src
    else if nc = 0 ∨ 8 < nc then some c.src
    else if n ≠ 0 ∧ 0x18000 < fld c.dpat 39 24 * 64 + (n / b + nc - 1) / nc * b then some c.src
    else if s.spanRefused c.spa c.srcLen then some c.src
    else none

/-! ## Issuing (R191, R192) -/

/-- A copy command of the issuing thread. -/
def issCopy (k : CopyKind) (m : CopyMode) (d a b : Reg) (tag : Fin 64) (s : State) : CopyCmd :=
  let th := s.iss.snap
  { kind := k, spa := 0, dpa := 0, mode := m, dest := th.reg d, src := th.reg a, count := th.reg b, tag := tag,
    cpmbx := th.cpmbx, dpat := (s.core s.iss.core).dpat, chkid := th.chkid, space := th.space, launch := th.launchid,
    name := s.issName, sup := th.priv, word := place s.iss.word.toNat 0, pc := s.iss.pc }
/-- A copy instruction: operands, then the drain and the kick, the thread detached until the engine accepts (R191). -/
def copyIssue (k : CopyKind) (m : CopyMode) (d a b : Reg) (useD useB : Nat) (tag : Fin 64) (g : PReg) (s : State) : State :=
  guarded g (needs [d, a, b] (clean [(d, useD), (a, 3), (b, useB)]
    (notBusy (fun s => detach (.copy (issCopy k m d a b tag s)) .drain s)))) s
/-- CPY (R194). -/
def execCpy (m : CopyMode) (d a b : Reg) (tag : Fin 64) (g : PReg) (s : State) : Out :=
  .next (copyIssue .cpy m d a b 3 7 tag g s)
/-- CPYS (R195). -/
def execCpys (m : CopyMode) (d a b : Reg) (tag : Fin 64) (g : PReg) (s : State) : Out :=
  .next (copyIssue .cpys m d a b 3 7 tag g s)
/-- CPYD, whose gd is a stride (R196). -/
def execCpyd (m : CopyMode) (d a b : Reg) (tag : Fin 64) (g : PReg) (s : State) : Out :=
  .next (copyIssue .cpyd m d a b 7 7 tag g s)

/-! ## Tags (R163, R199, R200) -/

/-- Whether a wait on TAGS is over. -/
def tagsMet (all : Bool) (tags mask : Word) : Bool :=
  if all then tags &&& mask == mask else mask == 0 || tags &&& mask != 0
/-- The lowest set bit of TAGS and a mask; 64 for a mask of 0. -/
def firstTag (tags mask : Word) : Word := BitVec.ofNat 64 ((lowest 64 (fun i => bit (tags &&& mask) i)).getD 64)
/-- What the end of a wait writes: TFIRST's index. -/
def tagsResult (tags mask : Word) (first : Option Reg) (th : Thread) : Thread :=
  match first with
  | some d => th.setReg d (firstTag tags mask) false
  | none => th
/-- TWALL, TWANY and TFIRST at issue: on at once, or detached until the condition is met (R199). -/
def tagWait (all : Bool) (first : Option Reg) (a : Reg) (g : PReg) (s : State) : State :=
  guarded g (needs [a] (clean [(a, 1)] fun s =>
    let mask := s.iss.snap.reg a
    let tags := (s.core s.iss.core).tags
    if tagsMet all tags mask then live (tagsResult tags mask first) s else detach (.tags all mask first) .waiting s)) s
/-- TWALL (R199). -/
def execTwall (a : Reg) (g : PReg) (s : State) : Out := .next (tagWait true none a g s)
/-- TWANY (R199). -/
def execTwany (a : Reg) (g : PReg) (s : State) : Out := .next (tagWait false none a g s)
/-- TFIRST (R199). -/
def execTfirst (d a : Reg) (g : PReg) (s : State) : Out := .next (tagWait false (some d) a g s)
/-- TCLR (R199). -/
def execTclr (a : Reg) (g : PReg) (s : State) : Out :=
  .next (guarded g (needs [a] (clean [(a, 1)] fun s =>
    let mask := s.iss.snap.reg a
    s.modCore s.iss.core (fun k => { k with tags := k.tags &&& ~~~mask }))) s)
/-- The waits of a core's threads evaluated afresh after a change of TAGS (R200). -/
def State.checkTags (s : State) (core : Nat) : State :=
  (List.range 7).foldl (fun s slot =>
    match s.thread (tid core slot) with
    | some th =>
      match th.pend with
      | { op := .tags all mask first, phase := .waiting, .. } :: _ =>
        let tags := (s.core core).tags
        if tagsMet all tags mask && decide (th.run = .run) then s.finish (tid core slot) (tagsResult tags mask first) else s
      | _ => s
    | none => s) s
/-- Bits of TAGS set by a completion (R163). -/
def State.setTags (s : State) (core : Nat) (mask : Word) : State :=
  (s.modCore core (fun k => { k with tags := k.tags ||| mask })).checkTags core

/-! ## The engine's accesses (R163, R164) -/

/-- Why a word does not move. -/
inductive CopyStop where
  | fault (f : MemFault) (va : Word)
  | park (a : Access)
  | abort (cause : Nat) (va : Word)
  deriving DecidableEq, Repr

/-- The checks of a physical address that an engine uses: existence, a link that is up (R387), and fences (R413). -/
def State.engineFault (s : State) (pa : Nat) : Option Nat :=
  match regionOf pa with
  | .absent => some 0x25
  | .peer p => if (s.ports.toList[p]?.map (fun q => q.up)).getD false then none else some 0x37
  | _ => if s.addrFenced pa then some 0x29 else none
/-- The space of a command's addresses (R163): an end's address translated, and judged against its first byte, where the one
or the other lies in a scratchpad (R193; log entry 94). -/
def State.copyAddress (s : State) (c : CopyCmd) (k : Kind) (va start : Word) (base : Nat) : Except CopyStop Nat × State :=
  match s.translateEngine c.name.core c.space c.sup k va with
  | (.error f, s) => (.error (.fault f va), s)
  | (.ok pa, s) =>
    let inScratch (pa : Nat) := (segOf pa).isSome
    if pa + start.toNat = base + va.toNat ∨ (!inScratch pa ∧ !inScratch base) then
      match s.engineFault pa with
      | some 0x29 => (.error (if k = .store then .abort 0x29 va else .fault { cause := 0x29, pa := pa } va), s)
      | some cause => (.error (.fault { cause := cause, pa := pa } va), s)
      | none => (.ok pa, s)
    else (.error (.fault { cause := 0x2B, pa := pa } va), s)

/-- What fetching source words leaves: the state and the run, and why it stopped if it did. -/
abbrev Fetch := Option CopyStop × State × CopyRun
/-- The read of a source word by a command (R164). -/
def CopyCmd.read (c : CopyCmd) (eng : Nat) (va : Word) (pa : Nat) (repark : Bool) : Access :=
  ⟨if c.mode = .fr then .ldw else .ld, va, pa, 8, 0, .engine eng, .rx, .system, repark, false, c.sup, c.launch, 0, false, c.pc⟩
/-- A read of a source chunk noted, with the write count of its sum (R406). -/
def CopyRun.noteRead (r : CopyRun) (s : State) (pa : Nat) : CopyRun :=
  let n := (mget s.sumWrites (pa / 4096)).getD 0
  { r with reads := mset r.reads (pa / 4096) (((mget r.reads (pa / 4096)).map (fun p => p.1)).getD n, n) }
/-- One source word read once: its value, F and X kept (R164, R194); under .fr as LDW, which parks on an empty word. A new
word's first park spends nothing (R156). -/
def fetchWord (eng : Nat) (w : Nat) : Fetch → Fetch
  | (some e, s, r) => (some e, s, r)
  | (none, s, r) =>
    if (mget r.srcw w).isSome then (none, s, r)
    else
      let fr := decide (r.cmd.mode = .fr)
      let va : Word := BitVec.ofNat 64 w
      match s.copyAddress r.cmd (if fr then .store else .load) va r.cmd.src r.cmd.spa with
      | (.error (.abort c v), s) => (some (.fault { cause := c } v), s, r)
      | (.error e, s) => (some e, s, r)
      | (.ok pa, s) =>
        if fr && !hasMeta pa then (some (.fault { cause := 0x26, pa := pa } va), s, r)
        else
          match (s.engineSees (eng / 256) pa).readNow (r.cmd.read eng va pa r.repark) with
          | (.value v f x, s) => (none, s, { (r.noteRead s pa) with srcw := mset r.srcw w (v, f, x), repark := false })
          | (.parks a, s) => (some (.park a), s, r)
          | (.refused reason, s) => (some (.fault { cause := 0x36, pa := pa, detail := reason } va), s, r)
/-- The source words of bytes `lo` to `lo` + `len` − 1, in ascending order. -/
def fetchBytes (eng lo len : Nat) (f : Fetch) : Fetch :=
  if len = 0 then f
  else (List.range ((lo % 8 + len + 7) / 8)).foldl (fun f i => fetchWord eng (lo / 8 * 8 + 8 * i) f) f
/-- The bytes of a range of fetched words, as a number; the AND of their F and the OR of their X (R164). -/
def srcBytes (r : CopyRun) (lo len : Nat) : Nat :=
  (List.range len).foldr (fun i n =>
    bits (((mget r.srcw ((lo + i) / 8 * 8)).map (fun p => p.1.toNat)).getD 0) ((lo + i) % 8 * 8) 8 + 256 * n) 0
def srcMeta (r : CopyRun) (lo len : Nat) : Bool × Bool :=
  (List.range ((lo % 8 + len + 7) / 8)).foldl (fun fx i =>
    match mget r.srcw (lo / 8 * 8 + 8 * i) with
    | some p => (fx.1 && p.2.1, fx.2 || p.2.2)
    | none => fx) (true, false)

/-- An engine's or unit's store of bytes inside one word under a mode, posted (R164, R212). -/
def copyAccess (who : Who) (sup : Bool) (launch pc : Word) (mode : CopyMode) (va : Word) (pa n v : Nat) (f x : Bool) : Access :=
  ⟨.copy mode f, va, pa, n, BitVec.ofNat 64 v, who, .rx, .system, false, true, sup, launch, 0, x, pc⟩
/-- Such a store made at once. -/
def State.copyStore (s : State) (who : Who) (sup : Bool) (launch : Word) (mode : CopyMode) (pa n v : Nat) (f x : Bool) :
    State :=
  s.storeNow (copyAccess who sup launch 0 mode 0 pa n v f x)

/-! ## Moving a command (R164, R194, R196) -/

/-- The engine's running command changed. -/
def State.modCopy (s : State) (eng : Nat) (f : CopyEngine → CopyEngine) : State :=
  s.modCluster eng (fun c => { c with copy := f c.copy })
def State.setCopyRun (s : State) (eng : Nat) (r : CopyRun) : State := s.modCopy eng (fun e => { e with run := some r })
/-- The head command ends, completed or aborted: CDONE rises and its flags go to the launch (R57, R399, R433). -/
def State.endCopy (s : State) (eng : Nat) (r : CopyRun) : State :=
  (s.modCopy eng (fun e => { e with run := none, cdone := e.cdone + 1 })).launchFlags r.cmd.launch r.flags
/-- An aborted command: a parked read is removed with no feserve, and what a served one brings is dropped; no tag, no
mailbox; the flags it has raised reach its launch (R57), and a record does when one is due (R165, R198, R435). -/
def State.abortCopy (s : State) (eng : Nat) (why : Option HeldFault) : State :=
  match (s.cluster eng).copy.run with
  | none => s
  | some r =>
    let mine (x : Waiter) : Bool := decide (x.acc.who = .engine eng) && !x.acc.posted
    let s := ((s.waiters.filter (fun p => p.2.any mine)).map (fun p => p.1)).foldl (fun s w => s.dropWaiters w mine) s
    let s : State := { s with flight := s.flight.filter (fun f => match f.msg with
      | .unitReply w _ => decide (w ≠ .engine eng)
      | _ => true) }
    let s := s.endCopy eng r
    match why with
    | none => s
    | some f =>
      s.sendAsync r.cmd.name r.cmd.launch
        (asyncFields s 0 f.cause f.reason (some eng) r.cmd.name r.cmd.launch r.cmd.pc r.cmd.word (BitVec.ofNat 64 r.done) f.va)
/-- What a stop does: the engine holds its command and the fault goes to service (R165); it parks on a word (R164); or the
command is aborted (R413). -/
def State.copyStop (s : State) (eng : Nat) (r : CopyRun) : CopyStop → State
  | .fault f va =>
    let reason := if f.cause = 0x36 then f.detail else 0
    (s.setCopyRun eng { r with held := some ⟨f.cause, reason, va⟩ }).holdFault eng (districtOfCluster eng) 0 f.cause reason
      r.cmd.name r.cmd.launch r.cmd.pc va (BitVec.ofNat 64 f.pa) (BitVec.ofNat 64 r.done)
  | .park a => (s.setCopyRun eng { r with parked := some a.va }).park a
  | .abort cause va => (s.setCopyRun eng r).abortCopy eng (some ⟨cause, 0, va⟩)

/-- Where destination byte `i` comes from and goes to: the source bytes needed for `n` destination bytes. -/
def sourceRange (conv : Option Conv) (c : CopyCmd) (i n : Nat) : Nat × Nat :=
  match c.kind, conv with
  | .cpyd, _ =>
    let b := dpatB c.dpat
    (c.src.toNat + i / b * c.stride + i % b, n)
  | _, some v =>
    let ss := elemBytes v.src
    let ds := elemBytes v.dst
    (c.src.toNat + i / ds * ss, ((i + n - 1) / ds + 1 - i / ds) * ss)
  | _, none => (c.src.toNat + i, n)
/-- The `n` destination bytes from byte `i` on, with the flags of the conversion (R68). -/
def destBytes (s : State) (conv : Option Conv) (r : CopyRun) (i n : Nat) : Nat × FlagBits :=
  let (lo, len) := sourceRange conv r.cmd i n
  match conv with
  | none => (srcBytes r lo len, 0)
  | some v =>
    let ss := elemBytes v.src
    let ds := elemBytes v.dst
    let first := i / ds
    let elem (k : Nat) : Nat × FlagBits :=
      let x := v.src.val (srcBytes r (lo + k * ss) ss)
      let x := match v.scl with
        | some (c, sn, so) => scaleVal (s.scaleAt c sn (so + (first + k) * ss)) x
        | none => x
      roundTo v.dst v.rm x
    let all := (List.range (len / ss)).foldr (fun k (p : Nat × FlagBits) =>
      let e := elem k
      (e.1 + 2 ^ (8 * ds) * p.1, e.2 ||| p.2)) (0, 0)
    (all.1 / 2 ^ (8 * (i - first * ds)) % 2 ^ (8 * n), all.2)
/-- The destination address of byte `i`: translated, or dealt by DPAT (R166). -/
def State.destAddress (s : State) (c : CopyCmd) (i : Nat) : Except CopyStop Nat × State :=
  match c.kind with
  | .cpyd =>
    let b := dpatB c.dpat
    let k := i / b
    let core := clusterOf c.name.core * 8 + (fld c.dpat 2 0 + k % dpatNc c.dpat) % 8
    (.ok (tcmBase core + fld c.dpat 39 24 * 64 + k / dpatNc c.dpat * b + i % b), s)
  | _ => s.copyAddress c .store (c.dest + BitVec.ofNat 64 i) c.dest c.dpa
/-- One destination word of the running command: its source words are read, each once, and it is written as one access,
posted to its bank (R164, R194, R212); the last one leaves the command ready to complete. -/
def State.copyWord (s : State) (eng : Nat) (r : CopyRun) : State :=
  let conv := s.convOf r.cmd
  let total := s.dstLen r.cmd
  if total ≤ r.done then s.setCopyRun eng { r with moved := true }
  else
    let at8 := if r.cmd.kind = .cpyd then r.done % 8 else (r.cmd.dest.toNat + r.done) % 8
    let n := min (8 - at8) (total - r.done)
    let (lo, len) := sourceRange conv r.cmd r.done n
    match fetchBytes eng lo len (none, s, r) with
    | (some e, s, r) => s.copyStop eng r e
    | (none, s, r) =>
      match s.destAddress r.cmd r.done with
      | (.error e, s) => s.copyStop eng r e
      | (.ok pa, s) =>
        let (v, f) := destBytes s conv r r.done n
        let (full, x) := srcMeta r lo len
        let va := r.cmd.dest + BitVec.ofNat 64 r.done
        let s := s.sendEngine eng (copyAccess (.engine eng) r.cmd.sup r.cmd.launch r.cmd.pc r.cmd.mode
          (if r.cmd.kind = .cpyd then 0 else va) pa n v full x) none
        let done := r.done + n
        let (next, _) := sourceRange conv r.cmd done 1
        s.setCopyRun eng { r with
          done := done
          flags := r.flags ||| f
          repark := false
          moved := decide (total ≤ done)
          srcw := r.srcw.filter (fun p => decide (next / 8 * 8 ≤ p.1)) }

/-- COPY_START: the engine takes its oldest command, or moves the running one by a word (R193, R164). A CPYS moves by
chunks, which arrive by themselves. -/
def execCopyStart (eng : Nat) (s : State) : Out :=
  if 2048 ≤ eng then .fault .noSuchUnit
  else
    let e := (s.cluster eng).copy
    match e.run, e.queue with
    | none, c :: r =>
      let run : CopyRun := ⟨c, 0, 0, 2 ^ 20, none, [], [], false, decide (s.dstLen c = 0), false, none⟩
      .next (s.modCopy eng (fun e => { e with queue := r, run := some run }))
    | none, [] => .refused .notPending
    | some run, _ =>
      if run.held.isSome || run.parked.isSome || run.moved || decide (run.cmd.kind = .cpys) then .refused .notPending
      else .next (s.copyWord eng run)

/-! ## Scaled chunks (R69, R195) -/

/-- A chunk's 512 words written, with F and X by the mode. -/
def writeChunk (eng : Nat) (c : CopyCmd) (r : CopyRun) (lo pa : Nat) : Nat → State → State
  | 0, s => s
  | n + 1, s =>
    let i := 511 - n
    let (full, x) := srcMeta r (lo + 8 * i) 8
    writeChunk eng c r lo pa n
      ((s.engineTouches (eng / 256) (pa + 8 * i)).copyStore (.engine eng) c.sup c.launch c.mode (pa + 8 * i) 8 (srcBytes r (lo + 8 * i) 8) full x)
/-- The identity of a command's chunk `j` in one word, without SEQ: HANDLE in 63:32, LOW in 31:0 (R404, R405; log entry
82). -/
def CopyCmd.chunkId (c : CopyCmd) (j : Nat) : Word :=
  place (fld c.chkid 63 32) 32 ||| place (fld c.chkid 31 19) 19 ||| place ((fld c.chkid 18 0 + j) % 2 ^ 19) 0
/-- A scale-pairing fault: the engine holds its command, and the message names the segment, NEXTSEQ, the two sequence numbers
and the chunk identity (R69, R396; log entry 82). -/
def State.pairingFault (s : State) (eng : Nat) (r : CopyRun) (seg next seq pseq j : Nat) (va : Word) : State :=
  let c := r.cmd
  let f : RecordFields := { asyncFields s seg 0x16 0 (some eng) c.name c.launch c.pc (place next 0)
    (place seq 0 ||| place pseq 16) 0 with vc := c.chunkId j }
  ((s.setCopyRun eng { r with held := some ⟨0x16, 0, va⟩ }).markFault c.launch).sendRecord
    (svcBase + districtOfCluster eng) f.record
/-- SCALED_CHUNK_ARRIVAL: the running CPYS's next chunk and its scale packet, of sequence number `pseq`, reach the segment.
It takes both when the chunk's offset and all three sequence numbers agree, and else neither, and the copy stops there
(R69). -/
def execScaledChunkArrival (eng : Nat) (pseq : BitVec 16) (s : State) : Out :=
  if 2048 ≤ eng then .fault .noSuchUnit
  else
    match (s.cluster eng).copy.run with
    | none => .refused .notPending
    | some r =>
      let c := r.cmd
      let j := r.done / 4096
      if c.kind ≠ .cpys || r.held.isSome || r.parked.isSome || r.moved then .refused .notPending
      else if c.chunks ≤ j then .next (s.setCopyRun eng { r with moved := true })
      else
        let unit := if c.fromSeg then 4096 else 4224
        let lo := c.src.toNat + j * unit
        let dva := c.dest + BitVec.ofNat 64 (j * 4096)
        match s.copyAddress c .store dva c.dest c.dpa with
        | (.error e, s) => .next (s.copyStop eng r e)
        | (.ok pa, s) =>
          match segOf pa with
          | none => .next (s.copyStop eng r (.fault { cause := 0x2B, pa := pa } dva))
          | some (dc, dn, doff) =>
            let w := s.segWord dc dn
            let seq := (fld c.count 47 32 + j) % 2 ^ 16
            if doff % 4096 ≠ 0 ∨ seq ≠ pseq.toNat ∨ seq ≠ fld w 47 32 then
              .next (s.pairingFault eng r dn (fld w 47 32) seq pseq.toNat j dva)
            else
              match fetchBytes eng lo unit (none, s, r) with
              | (some e, s, r) => .next (s.copyStop eng r e)
              | (none, s, r) =>
                let scales : Nat :=
                  if c.fromSeg then
                    match segOf c.spa with
                    | some (sc, sn, so) => (List.range 128).foldr (fun k n => s.scaleAt sc sn (so + j * 4096 + 32 * k) + 256 * n) 0
                    | none => 0
                  else srcBytes r (lo + 4096) 128
                let s := writeChunk eng c r lo pa 512 s
                let s := s.writeN (clusterCtlBase dc + 0x1000 + 0x400 * dn + doff / 32) 128 scales
                let s := s.modCluster dc (fun k =>
                  { k with segfmt := if h : dn < 16 then k.segfmt.set dn (setFld w 32 16 (seq + 1)) else k.segfmt })
                .next (s.setCopyRun eng { r with
                  done := r.done + 4096, srcw := [], repark := false, moved := decide (c.chunks ≤ j + 1) })

/-! ## Acceptance and completion (R193, R198) -/

/-- The location of a cluster's copy engine and the fault of a marked one (R411, R396). -/
def markedTrap (kind n : Nat) (word : Word) : Trap :=
  { cause := 0x18, detail := kind, va := BitVec.ofNat 64 (loc kind n), vb := word }
/-- The issuer of a command on the way to a unit, which waits until it is accepted. -/
def State.accepted (s : State) (n : TName) : State :=
  match s.named n with
  | some _ => s.finish (tid n.core n.slot) id
  | none => s
/-- A command refused at acceptance: its issuer traps at the bundle (R193, R228). -/
def State.bounced (s : State) (n : TName) (t : Trap) : State :=
  match s.named n with
  | some _ => s.trapPending n.core n.slot t
  | none => s
/-- COPY_ACCEPT: the oldest kick to arrive at an engine with a place free, its issuer's posted stores performed, is checked and accepted, or answered with its
fault (R191, R193); one that names a segment with a store waiting stays behind it (R66). -/
def execCopyAccept (id : Nat) (s : State) : Out :=
  match s.msg? id with
  | some (.copyKick c0) =>
    let eng := clusterOf c0.name.core
    let e := (s.cluster eng).copy
    let first := s.firstArrived (fun m => match m with
      | .copyKick d => clusterOf d.name.core == eng
      | _ => false)
    if first ≠ some id then .refused .notPending
    else if e.marked then .next ((s.take id).bounced c0.name (markedTrap 8 eng c0.word))
    else if 16 ≤ e.queue.length + b2n e.run.isSome || s.inFlightStores c0.name .system then .next s
    else
      let ends (s : State) : Except CopyStop CopyCmd × State :=
        let needSrc := decide (c0.srcLen ≠ 0)
        let needDst := decide (c0.kind ≠ .cpyd ∧ c0.srcLen ≠ 0)
        let fault (f : MemFault) (va : Word) : Except CopyStop CopyCmd := .error (.fault f va)
        match if needSrc then s.translateEngine c0.name.core c0.space c0.sup (if c0.mode = .fr then .store else .load) c0.src else (.ok 0, s) with
        | (.error f, s) => (fault f c0.src, s)
        | (.ok spa, s) =>
          match if needDst then s.translateEngine c0.name.core c0.space c0.sup .store c0.dest else (.ok 0, s) with
          | (.error f, s) => (fault f c0.dest, s)
          | (.ok dpa, s) => (.ok { c0 with spa := spa, dpa := dpa }, s)
      match ends s with
      | (.error (.fault f va), s) => .next ((s.take id).bounced c0.name (f.trap va))
      | (.error _, s) => .next s
      | (.ok c, s) =>
        match s.copyRefused c with
        | some va => .next ((s.take id).bounced c.name { cause := 0x2B, va := va })
        | none =>
          if (s.copySegs c).any (fun p => (s.cluster p.1).segWait.any (fun w => w.seg == p.2)) then .next s
          else .next (((s.take id).modCopy eng (fun e => { e with queue := e.queue ++ [c] })).accepted c.name)
  | _ => .refused .notPending

/-- COPY_COMPLETE: once every posted store of the engine has performed (R212), the tag's bit is set once, then the mailbox word is filled with the bytes written; a full one parks the
engine (R198). -/
def execCopyComplete (eng : Nat) (s : State) : Out :=
  if 2048 ≤ eng then .fault .noSuchUnit
  else
    match (s.cluster eng).copy.run with
    | none => .refused .notPending
    | some r =>
      if !r.moved || r.held.isSome || r.parked.isSome || s.postedBy (.engine eng) (fun _ => true) then .refused .notPending
      else
        let s := if r.tagged then s else s.setTags r.cmd.name.core (BitVec.twoPow 64 r.cmd.tag.val)
        let r := { r with tagged := true }
        if !bit r.cmd.cpmbx 0 then .next (s.endCopy eng r)
        else
          let va : Word := r.cmd.cpmbx &&& 0x00FFFFFFFFFFFFF8#64
          match s.translateEngine r.cmd.name.core r.cmd.space r.cmd.sup .store va with
          | (.error f, s) => .next (s.copyStop eng r (.fault f va))
          | (.ok pa, s) =>
            let data := place (s.dstLen r.cmd % 2 ^ 56) 0
            let a : Access :=
              ⟨.stf, va, pa, 8, data, .engine eng, .rel, .system, r.repark, false, r.cmd.sup, r.cmd.launch, 0, false,
                r.cmd.pc⟩
            match s.engineFault pa with
            | some cause => .next (s.copyStop eng r (.fault { cause := cause, pa := pa } va))
            | none =>
              if !hasMeta pa then .next (s.copyStop eng r (.fault { cause := 0x26, pa := pa } va))
              else if (s.wordMeta (wordOfAddr pa)).full then .next (s.copyStop eng r (.park a))
              else .next (((s.engineTouches (eng / 256) pa).perform { a with posted := true }).endCopy eng r)

/-- An answer from a bank to a copy engine: the word it parked on is served or woken, its mailbox is filled, or the access
faults (R151, R156, R198). -/
def State.copyAnswer (s : State) (eng : Nat) (a : Reply) : State :=
  match (s.cluster eng).copy.run with
  | none => s
  | some r =>
    match r.parked, a with
    | some va, .value v x => s.setCopyRun eng { r with parked := none, repark := false, srcw := mset r.srcw va.toNat (v, true, x) }
    | some _, .wake => s.setCopyRun eng { r with parked := none, repark := true }
    | some _, .done => s.endCopy eng r
    | some va, .fault c d _ pa _ => s.copyStop eng { r with parked := none } (.fault { cause := c, pa := pa.toNat, detail := d } va)
    | _, _ => s
/-- TRESUME of a copy engine that holds its command: resume from its progress, or abort (R165, R421). -/
def State.resumeCopy (s : State) (eng : Nat) (abort : Bool) : State :=
  match (s.cluster eng).copy.run with
  | some r => if abort then s.abortCopy eng r.held else s.setCopyRun eng { r with held := none, repark := false }
  | none => s

end Sys2Proof.Machine
end

