-- ==== Sys2Proof/Machine/Vector.lean ====
section
/-! DEFINITION. The vector instructions (chapter 6): element layout (R25, R26), what every vector instruction shares (R27,
R119 to R121), the energy charges (R38), the lane pool's VCLAIM and VYIELD (R36, R123, R124), element-wise operations,
rearrangement, conversion, reductions (R64), vector memory (R135 to R137), and the repetition buffer (R41 to R45,
R139). -/

namespace Sys2Proof

/-- The bits an element fills: an ln6 element fills a byte (R25). -/
def Ty.store : Ty → Nat
  | .ln6 => 8
  | t => t.width
/-- Elements per 32-bit lane, of a type that is not 64 bits wide (R25). -/
def Ty.perLane (t : Ty) : Nat := 32 / t.store
/-- The element count of a type at a VL (R25). -/
def Ty.count (t : Ty) (vl : Nat) : Nat := if t.store = 64 then vl / 2 else vl * t.perLane

end Sys2Proof

namespace Sys2Proof.Machine

/-! ## Elements in lanes (R25, R26) -/

/-- A vector register's lanes and lane poison. -/
structure VData where
  lanes : Lanes
  poison : BitVec 64
  deriving DecidableEq, Repr

/-- A vector register of a thread. -/
def Thread.vget (th : Thread) (v : VReg) : VData := ⟨th.vregs[v.val], th.vpoison[v.val]⟩
def Thread.vset (th : Thread) (v : VReg) (d : VData) : Thread :=
  { th with vregs := th.vregs.set v.val d.lanes, vpoison := th.vpoison.set v.val d.poison }
/-- One lane written. -/
def setLane (l : Lanes) (i : Nat) (x : Lane) : Lanes := if h : i < 64 then l.set i x else l
/-- Element `i`, as the bits of its type. -/
def VData.elem (d : VData) (t : Ty) (i : Nat) : Nat :=
  if t.store = 64 then (laneAt d.lanes (2 * i)).toNat + 2 ^ 32 * (laneAt d.lanes (2 * i + 1)).toNat
  else bits (laneAt d.lanes (i / t.perLane)).toNat (t.store * (i % t.perLane)) t.width
/-- Whether element `i` is poisoned (R26). -/
def VData.elemPoison (d : VData) (t : Ty) (i : Nat) : Bool :=
  if t.store = 64 then d.poison.getLsbD (2 * i) || d.poison.getLsbD (2 * i + 1) else d.poison.getLsbD (i / t.perLane)
/-- Element `i` written; of the elements written into one lane in ascending order, the first gives the lane its poison and
the others add theirs (R26, R121). -/
def VData.setElem (d : VData) (t : Ty) (i : Nat) (n : Nat) (p : Bool) : VData :=
  if t.store = 64 then
    ⟨setLane (setLane d.lanes (2 * i) (BitVec.ofNat 32 n)) (2 * i + 1) (BitVec.ofNat 32 (n / 2 ^ 32)),
      setBit (setBit d.poison (2 * i) p) (2 * i + 1) p⟩
  else
    let l := i / t.perLane
    let k := i % t.perLane
    let old := (laneAt d.lanes l).toNat
    let new := old - bits old (t.store * k) t.store * 2 ^ (t.store * k) + n % 2 ^ t.width * 2 ^ (t.store * k)
    ⟨setLane d.lanes l (BitVec.ofNat 32 new), setBit d.poison l (p || (k != 0 && d.poison.getLsbD l))⟩
/-- A lane cleared and unpoisoned. -/
def VData.clearLane (d : VData) (l : Nat) : VData := ⟨setLane d.lanes l 0, setBit d.poison l false⟩

/-- An element's result: its bits, its poison and its flags. -/
abbrev ElemRes := Nat × Bool × FlagBits
/-- Elements 0 to n − 1 written from a function, with the flags of all of them (R57, R119). -/
def mapElems (t : Ty) (n : Nat) (old : VData) (f : Nat → ElemRes) : VData × FlagBits :=
  (List.range n).foldl (fun (r : VData × FlagBits) i => let e := f i; (r.1.setElem t i e.1 e.2.1, r.2 ||| e.2.2)) (old, 0)

/-! ## What every vector instruction shares -/

/-- R27: with GRANT 0 an instruction that names a vector register raises a no-grant fault. -/
def granted (body : State → State) (s : State) : State :=
  if s.iss.snap.grant = 0 then trap { cause := 0x14, detail := s.iss.word.toNat / 2 ^ 27, va := s.iss.bundle } s else body s
/-- A vector register and flags written by the issuing bundle. -/
def writeVec (v : VReg) (d : VData) (f : FlagBits) (s : State) : State := live (fun th => (th.vset v d).raise f) s
/-- An instruction whose result is elements of one register; a long-latency one detaches until the unit's reply (R18,
R120, R121). -/
def vecOp (late : Bool) (d : VReg) (t : Ty) (n : Thread → Nat) (f : Thread → Nat → ElemRes) (s : State) : State :=
  granted (fun s =>
    let th := s.iss.snap
    let r := mapElems t (n th) (th.vget d) (f th)
    if n th = 0 then s
    else if late then detach (.unit ⟨d, r.1.lanes, r.1.poison, r.2⟩) .drain s
    else writeVec d r.1 r.2 s) s
/-- The element count of a type at the thread's VL. -/
def vcount (t : Ty) (th : Thread) : Nat := t.count th.vl.toNat
/-- An element-wise operation of one source (R121, R23). -/
def vec1 (late : Bool) (d a : VReg) (t : Ty) (f : Nat → Nat × FlagBits) (s : State) : State :=
  vecOp late d t (vcount t) (fun th i =>
    let x := th.vget a
    let r := f (x.elem t i)
    (r.1, x.elemPoison t i, r.2)) s
/-- Of two sources. -/
def vec2 (late : Bool) (d a b : VReg) (t : Ty) (f : Nat → Nat → Nat × FlagBits) (s : State) : State :=
  vecOp late d t (vcount t) (fun th i =>
    let x := th.vget a
    let y := th.vget b
    let r := f (x.elem t i) (y.elem t i)
    (r.1, x.elemPoison t i || y.elemPoison t i, r.2)) s
/-- Of three sources. -/
def vec3 (d a b c : VReg) (t : Ty) (f : Nat → Nat → Nat → Nat × FlagBits) (s : State) : State :=
  vecOp false d t (vcount t) (fun th i =>
    let x := th.vget a
    let y := th.vget b
    let z := th.vget c
    let r := f (x.elem t i) (y.elem t i) (z.elem t i)
    (r.1, x.elemPoison t i || y.elemPoison t i || z.elemPoison t i, r.2)) s

/-! ## Element operations (R125, R126, R128, R129) -/

/-- A result modulo the element width, without a flag. -/
def modW (t : Ty) (n : Nat) : Nat × FlagBits := (n % 2 ^ t.width, 0)
def vaddE (t : Ty) (rm : Rm) (a b : Nat) : Nat × FlagBits := if t.isInt then modW t (a + b) else fadd t.fty rm a b
def vsubE (t : Ty) (rm : Rm) (a b : Nat) : Nat × FlagBits := if t.isInt then modW t (a + 2 ^ t.width - b) else fsub t.fty rm a b
def vmulE (t : Ty) (rm : Rm) (a b : Nat) : Nat × FlagBits :=
  if t.isInt then modW t (a * b) else if t.isLn then lnmul t.isLn6 a b else fmul t.fty rm a b
/-- The smaller or the larger: by signedness, by nominal value, or by R103. -/
def vpickE (wantMax : Bool) (t : Ty) (a b : Nat) : Nat × FlagBits :=
  if t.isInt then (if decide (t.int a < t.int b) == wantMax then b else a, 0)
  else if t.isLn then
    if lnIsNan t.isLn6 a || lnIsNan t.isLn6 b then (lnCode t.isLn6 true 0, 0)
    else (if decide (lnOrder t.isLn6 a < lnOrder t.isLn6 b) == wantMax then b else a, 0)
  else pickMax t.fty wantMax a b
def vabsE (t : Ty) (a : Nat) : Nat × FlagBits :=
  if t.isInt then modW t (t.int a).natAbs
  else if t.isLn then (if lnL t.isLn6 a = 0 then a else lnCode t.isLn6 false (lnL t.isLn6 a), 0)
  else fabs t.fty a
def vnegE (t : Ty) (a : Nat) : Nat × FlagBits :=
  if t.isInt then modW t (2 ^ t.width - a)
  else if t.isLn then (if lnL t.isLn6 a = 0 then a else lnCode t.isLn6 (!lnS t.isLn6 a) (lnL t.isLn6 a), 0)
  else fneg t.fty a
/-- The shift amount: the low log2(w) bits of b's element. -/
def vshAmount (t : Ty) (b : Nat) : Nat := b % t.width
def vcmpE (t : Ty) (c : Cond) (a b : Nat) : Nat × FlagBits :=
  let r : Bool × FlagBits :=
    if t.isInt then (condHolds c (t.int a - t.int b), 0)
    else if t.isLn then
      if lnIsNan t.isLn6 a || lnIsNan t.isLn6 b then (c == .ne || c == .un, 0)
      else (condHolds c (lnOrder t.isLn6 a - lnOrder t.isLn6 b), 0)
    else fcmp t.fty c a b
  (if r.1 then 2 ^ t.width - 1 else 0, r.2)

/-! ## Element-wise instructions -/

/-- V-slot NOP (R81). -/
def execNopV (s : State) : Out := .next s
/-- VADD (R125, R126). -/
def execVadd (d a b : VReg) (t : Ty) (rm : Rm) (s : State) : Out := .next (vec2 false d a b t (vaddE t rm) s)
/-- VSUB (R125, R126). -/
def execVsub (d a b : VReg) (t : Ty) (rm : Rm) (s : State) : Out := .next (vec2 false d a b t (vsubE t rm) s)
/-- VMUL (R125, R126, R128). -/
def execVmul (d a b : VReg) (t : Ty) (rm : Rm) (s : State) : Out := .next (vec2 false d a b t (vmulE t rm) s)
/-- VMIN (R125, R126, R128). -/
def execVmin (d a b : VReg) (t : Ty) (s : State) : Out := .next (vec2 false d a b t (vpickE false t) s)
/-- VMAX (R125, R126, R128). -/
def execVmax (d a b : VReg) (t : Ty) (s : State) : Out := .next (vec2 false d a b t (vpickE true t) s)
/-- VABS (R125, R126, R128). -/
def execVabs (d a : VReg) (t : Ty) (s : State) : Out := .next (vec1 false d a t (vabsE t) s)
/-- VNEG (R125, R126, R128). -/
def execVneg (d a : VReg) (t : Ty) (s : State) : Out := .next (vec1 false d a t (vnegE t) s)
/-- The three-register VFMA: vd's old element is the addend (R126). -/
def execVfma3 (d a b : VReg) (t : Ty) (rm : Rm) (s : State) : Out := .next (vec3 d a b d t (ffma t.fty rm) s)
/-- The four-register VFMA (R126). -/
def execVfma4 (d a b c : VReg) (t : Ty) (rm : Rm) (s : State) : Out := .next (vec3 d a b c t (ffma t.fty rm) s)
/-- VDIV (R126). -/
def execVdiv (d a b : VReg) (t : Ty) (rm : Rm) (s : State) : Out := .next (vec2 true d a b t (fdiv t.fty rm) s)
/-- VSQRT (R126). -/
def execVsqrt (d a : VReg) (t : Ty) (rm : Rm) (s : State) : Out := .next (vec1 true d a t (fsqrt t.fty rm) s)
/-- VRCP (R126, R127). -/
def execVrcp (d a : VReg) (t : Ty) (rm : Rm) (s : State) : Out := .next (vec1 true d a t (frcp t.fty rm) s)
/-- VRSQ (R126, R127). -/
def execVrsq (d a : VReg) (t : Ty) (rm : Rm) (s : State) : Out := .next (vec1 true d a t (frsq t.fty rm) s)
/-- VEXP2 (R127). -/
def execVexp2 (d a : VReg) (t : Ty) (rm : Rm) (s : State) : Out := .next (vec1 true d a t (fexp2 t.fty rm) s)
/-- VLOG2 (R127). -/
def execVlog2 (d a : VReg) (t : Ty) (rm : Rm) (s : State) : Out := .next (vec1 true d a t (flog2 t.fty rm) s)
/-- VTANH (R127). -/
def execVtanh (d a : VReg) (t : Ty) (rm : Rm) (s : State) : Out := .next (vec1 true d a t (ftanh t.fty rm) s)
/-- VAND (R125). -/
def execVand (d a b : VReg) (t : Ty) (s : State) : Out := .next (vec2 false d a b t (fun x y => (x &&& y, 0)) s)
/-- VOR (R125). -/
def execVor (d a b : VReg) (t : Ty) (s : State) : Out := .next (vec2 false d a b t (fun x y => (x ||| y, 0)) s)
/-- VXOR (R125). -/
def execVxor (d a b : VReg) (t : Ty) (s : State) : Out := .next (vec2 false d a b t (fun x y => (x ^^^ y, 0)) s)
/-- VSHL (R125). -/
def execVshl (d a b : VReg) (t : Ty) (s : State) : Out :=
  .next (vec2 false d a b t (fun x y => modW t (x * 2 ^ vshAmount t y)) s)
/-- VSHR (R125). -/
def execVshr (d a b : VReg) (t : Ty) (s : State) : Out := .next (vec2 false d a b t (fun x y => (x / 2 ^ vshAmount t y, 0)) s)
/-- VSHRA: the element is read as signed whatever the type's class (R125). -/
def execVshra (d a b : VReg) (t : Ty) (s : State) : Out :=
  .next (vec2 false d a b t (fun x y =>
    ((toSigned x t.width / (2 ^ vshAmount t y : Nat) % (2 ^ t.width : Nat)).toNat, 0)) s)
/-- VCMP (R129). -/
def execVcmp (d a b : VReg) (t : Ty) (c : Cond) (s : State) : Out := .next (vec2 false d a b t (vcmpE t c) s)
/-- VSEL: the test is on bits; poison of the element not selected is ignored (R130). -/
def execVsel (d a b c : VReg) (t : Ty) (s : State) : Out :=
  .next (vecOp false d t (vcount t) (fun th i =>
    let z := th.vget c
    let x := th.vget (if z.elem t i = 0 then b else a)
    (x.elem t i, z.elemPoison t i || x.elemPoison t i, 0)) s)
/-- VPERM (R131). -/
def execVperm (d a b : VReg) (t : Ty) (s : State) : Out :=
  .next (vecOp false d t (vcount t) (fun th i =>
    let x := th.vget a
    let y := th.vget b
    let j := y.elem t i
    let inside := decide (j < vcount t th)
    (if inside then x.elem t j else 0, y.elemPoison t i || (inside && x.elemPoison t j), 0)) s)
/-- VBCAST (R132). -/
def execVbcast (v : VReg) (g : Reg) (t : Ty) (s : State) : Out :=
  .next (granted (needs [g] (vecOp false v t (vcount t) (fun th _ =>
    ((th.reg g).toNat % 2 ^ t.width, th.isPoisoned g, 0)))) s)
/-- VEXT (R132); with VL 0 every index is one past the end, and g is written 0 (DEDUCED: log entry 98). -/
def execVext (g : Reg) (v : VReg) (t : Ty) (idx : BitVec 8) (s : State) : Out :=
  .next (granted (fun s =>
    let th := s.iss.snap
    let x := th.vget v
    if idx.toNat < vcount t th then writeReg g (t.extend (x.elem t idx.toNat)) (x.elemPoison t idx.toNat) s
    else writeReg g 0 false s) s)
/-- VCVT: n is the count of the wider type; a lane below VL that holds no result is cleared, but for the top lane of an
odd VL under a 64-bit result type (R133). -/
def execVcvt (d a : VReg) (dst src : Ty) (rm : Rm) (s : State) : Out :=
  .next (granted (fun s =>
    let th := s.iss.snap
    let vl := th.vl.toNat
    let n := min (dst.count vl) (src.count vl)
    let x := th.vget a
    let r := mapElems dst n (th.vget d) (fun i =>
      let c := convert dst src rm (x.elem src i)
      (c.1, x.elemPoison src i, c.2))
    let used := if dst.store = 64 then 2 * n else (n + dst.perLane - 1) / dst.perLane
    let top := if dst.store = 64 then vl / 2 * 2 else vl
    let out := (List.range (top - used)).foldl (fun d i => VData.clearLane d (used + i)) r.1
    if vl = 0 then s else writeVec d out r.2 s) s)

/-! ## Reductions (R64, R134) -/

/-- One level of pairtree. -/
def pairLevel {α : Type} (op : α → α → α) : List α → List α
  | a :: b :: r => op a b :: pairLevel op r
  | l => l
/-- pairtree (R64), with fuel for its levels. -/
def pairtree {α : Type} (op : α → α → α) : Nat → List α → Option α
  | _, [] => none
  | _, [a] => some a
  | 0, a :: _ => some a
  | n + 1, l => pairtree op n (pairLevel op l)
/-- Whether an element is a NaN, and its canonical form (R49). -/
def elemNan (t : Ty) (n : Nat) : Bool :=
  if t.isInt then false else if t.isLn then lnIsNan t.isLn6 n else (t.fty.val n).isNan
def canonElem (t : Ty) (n : Nat) : Nat := if t.isFloat && elemNan t n then t.fty.qnan else n
/-- Whether b is larger than a in the order of VARGMAX: a NaN counts as larger than every number (R64). -/
def largerElem (t : Ty) (a b : Nat) : Bool :=
  if t.isInt then decide (t.int a < t.int b)
  else if elemNan t a then false
  else if elemNan t b then true
  else if t.isLn then decide (lnOrder t.isLn6 a < lnOrder t.isLn6 b)
  else decide (cmpVal (t.fty.val a) (t.fty.val b) < 0)
/-- A reduction: the combined value in element 0, the rest of its lane or lane pair cleared, and for VARGMAX the index in
the lane after; all poisoned when any element is (R134). A signaling NaN raises NV (R49). -/
def reduce (d a : VReg) (t : Ty) (index : Bool) (op : Nat × Nat × FlagBits → Nat × Nat × FlagBits → Nat × Nat × FlagBits)
    (s : State) : State :=
  granted (fun s =>
    let th := s.iss.snap
    let n := vcount t th
    let x := th.vget a
    let sig (v : Nat) : FlagBits := flagIf (t.isFloat && (t.fty.val v).isSig) nvFlag
    let l := (List.range n).map (fun i => (x.elem t i, i, sig (x.elem t i)))
    match pairtree op 9 l with
    | none => s
    | some (v, i, f) =>
      let p := (List.range n).any (x.elemPoison t)
      let lanes := if t.store = 64 then 2 else 1
      let old := th.vget d
      let r := (if t.store = 64 then old else old.clearLane 0).setElem t 0 (canonElem t v) p
      let r : VData := if index then ⟨setLane r.lanes lanes (BitVec.ofNat 32 i), setBit r.poison lanes p⟩ else r
      writeVec d r f s) s
/-- VREDADD (R134, R64). -/
def execVredadd (d a : VReg) (t : Ty) (rm : Rm) (s : State) : Out :=
  .next (reduce d a t false (fun p q => let r := vaddE t rm p.1 q.1; (r.1, 0, p.2.2 ||| q.2.2 ||| r.2)) s)
/-- VREDMAX (R134, R64). -/
def execVredmax (d a : VReg) (t : Ty) (s : State) : Out :=
  .next (reduce d a t false (fun p q => ((vpickE true t p.1 q.1).1, 0, p.2.2 ||| q.2.2)) s)
/-- VARGMAX: between equal values the smaller index wins (R134, R64). -/
def execVargmax (d a : VReg) (t : Ty) (s : State) : Out :=
  .next (reduce d a t true (fun p q =>
    let w := if largerElem t p.1 q.1 then q else p
    (w.1, w.2.1, p.2.2 ||| q.2.2)) s)

/-! ## Vector memory (R135 to R137) -/

/-- The elements' physical addresses, each checked as an access of its own; the first that faults traps, the bundle taking
no effect (R135, R136, R138). -/
def withElems (k : Kind) (body : List Nat → State → State) : List Word → State → State
  | [], s => body [] s
  | va :: r, s =>
    withAddress k va (fun pa s =>
      match regionOf pa with
      | .absent => trap { cause := 0x25, va := va, vb := BitVec.ofNat 64 pa } s
      | .peer p =>
        if (s.ports.toList[p]?.map (fun q => q.up)).getD false then withElems k (fun l => body (pa :: l)) r s
        else trap { cause := 0x37, va := va, vb := BitVec.ofNat 64 pa } s
      | _ => withElems k (fun l => body (pa :: l)) r s) s
/-- A vector access of n elements at the offsets given from g + imm8 × 16 (R135, R136): with n = 0 it makes no check and no
access (R27); else poison of the base (use 3), of an offset, alignment, poison of a stored element (use 0), translation. -/
def vecAccess (store : Bool) (v : VReg) (g : Reg) (x : Option VReg) (t : Ty) (imm : BitVec 8)
    (offset : Thread → Nat → Word) (s : State) : State :=
  granted (needs [g] (fun s =>
    let th := s.iss.snap
    let n := vcount t th
    let size := t.store / 8
    let list := List.range n
    let bad := match x with
      | some x => list.any ((th.vget x).elemPoison t)
      | none => false
    if n = 0 then s
    else if th.isPoisoned g then trap (poisonTrap g 3) s
    else if bad then trap (poisonTrap (x.getD 0) 3) s
    else
      let base := th.reg g + imm.signExtend 64 * 16
      let vas := list.map (fun i => base + offset th i)
      match vas.find? (fun a => decide (a.toNat % size ≠ 0)) with
      | some a => trap { cause := 0x23, va := a } s
      | none =>
        let d := th.vget v
        if store && list.any (d.elemPoison t) then trap (poisonTrap v 0) s
        else
          notBusy (withElems (if store then .store else .load) (fun pas s =>
            let elems := (list.zip (vas.zip pas)).map (fun p =>
              (⟨p.1, p.2.1, p.2.2, if store then BitVec.ofNat 64 (d.elem t p.1) else 0, false⟩ : Elem))
            detach (.vector store v t elems []) .drain s) vas) s)) s
/-- Consecutive elements. -/
def inOrder (t : Ty) (_ : Thread) (i : Nat) : Word := BitVec.ofNat 64 (i * (t.store / 8))
/-- Element offsets from a vector of s32 or s64 (R136). -/
def offsetsOf (x : VReg) (t : Ty) (th : Thread) (i : Nat) : Word := wordOf (toSigned ((th.vget x).elem t i) t.width)
/-- VLD (R135). -/
def execVld (v : VReg) (g : Reg) (t : Ty) (imm : BitVec 8) (s : State) : Out :=
  .next (vecAccess false v g none t imm (inOrder t) s)
/-- VST (R135). -/
def execVst (v : VReg) (g : Reg) (t : Ty) (imm : BitVec 8) (s : State) : Out :=
  .next (vecAccess true v g none t imm (inOrder t) s)
/-- VGATHER (R136). -/
def execVgather (v : VReg) (g : Reg) (x : VReg) (t : Ty) (imm : BitVec 8) (s : State) : Out :=
  .next (vecAccess false v g (some x) t imm (offsetsOf x t) s)
/-- VSCATTER (R136). -/
def execVscatter (v : VReg) (g : Reg) (x : VReg) (t : Ty) (imm : BitVec 8) (s : State) : Out :=
  .next (vecAccess true v g (some x) t imm (offsetsOf x t) s)

/-! ## Lanes (R36, R123, R124) -/

/-- The lanes of every register from `keep` up become undefined: free values, and free poison (R36; log entry 8). -/
def undefineLanes (keep fresh : Nat) (th : Thread) : Thread :=
  { th with
    vregs := vecOf 32 (fun r => vecOf 64 (fun i =>
      if i < keep then laneAt (th.vregs.toList.getD r (Vector.replicate 64 0)) i else Config.freeLane (fresh + 64 * r + i)))
    vpoison := vecOf 32 (fun r => (List.range 64).foldl (fun b i =>
      if i < keep then b else setBit b i (Config.freeBool (fresh + 64 * r + i))) (th.vpoison.toList.getD r 0)) }
/-- VCLAIM (R36, R123): the largest multiple of 8 that is at most the request and the free lanes; the range is the
decoder's. -/
def execVclaim (g : Reg) (imm : BitVec 7) (s : State) : Out :=
  let th := s.iss.snap
  let free := s.freeLanes (clusterOf s.iss.core) + th.grant.toNat
  let new := min imm.toNat free / 8 * 8
  let s1 := live (fun t =>
    { undefineLanes (min th.grant.toNat new) s.fresh t with
      grant := BitVec.ofNat 7 new
      vl := BitVec.ofNat 7 new
      want := imm }) s
  .next (writeReg g (BitVec.ofNat 64 new) false { s1 with fresh := s.fresh + 2048 })
/-- VYIELD (R124); with GRANT 0 it does nothing, and WANT stays as well (DEDUCED: log entry 96). -/
def execVyield (s : State) : Out :=
  .next (live (fun th => if th.grant = 0 then th else { th with grant := 0, vl := 0, want := 0 }) s)

/-! ## Energy (R38) -/

/-- The unit cost of arithmetic by type: integer and LN, narrow float, f64. -/
def costBy (t : Ty) (small narrow wide : Nat) : Nat :=
  if t.isFloat then (if t.width = 64 then wide else narrow) else small
/-- The unit cost per group of 8 lanes, or flat for the matrix group; 0 for an instruction not charged. -/
def vUnit : Instr → Nat
  | .vand .. | .vor .. | .vxor .. | .vshl .. | .vshr .. | .vshra .. | .vbcast .. | .vext .. | .vperm .. | .vsel .. => 1
  | .vadd _ _ _ t _ | .vsub _ _ _ t _ | .vmin _ _ _ t | .vmax _ _ _ t | .vabs _ _ t | .vneg _ _ t | .vcmp _ _ _ t _ =>
    costBy t 1 2 4
  | .vmul _ _ _ t _ => if t.isInt then 2 else costBy t 1 3 6
  | .vfma3 _ _ _ t _ | .vfma4 _ _ _ _ t _ => costBy t 3 3 6
  | .vcvt _ _ d f _ => if d.width = 64 || f.width = 64 then 4 else 2
  | .vld .. | .vst .. => 2
  | .vredadd .. | .vredmax .. | .vargmax .. => 3
  | .vgather .. | .vscatter .. => 4
  | .vdiv .. | .vsqrt .. | .vrcp .. | .vrsq .. | .vexp2 .. | .vlog2 .. | .vtanh .. => 8
  | _ => 0
/-- The matrix group, charged 8 flat (R226). -/
def isMatrix : Instr → Bool
  | .mma .. | .mmaz .. | .mclr .. | .mrd .. | .mst .. | .mfmt .. | .mscale .. | .mcap .. | .msend .. | .mwait ..
  | .rmap .. => true
  | _ => false
/-- The charge of a V-slot instruction at a VL. -/
def vCharge (i : Instr) (vl : Nat) : Nat := if isMatrix i then 8 else vUnit i * ((vl + 7) / 8)

/-! ## The repetition buffer (R41 to R45, R139) -/

/-- An empty buffer with CAP and ACT clear (R42). That COUNT, ITER and POS become 0 and the strides stay is the model's own
(DESIGN CHOICE: log entry 74). -/
def Rep.cleared (r : Rep) : Rep := { r with code := [], count := 0, iter := 0, pos := 0, act := false, cap := false }
/-- A misuse of the buffer: cause 0x0D with slot field 2, the buffer left empty (R42, R85). -/
def repMisuse (s : State) : State :=
  let s1 := trap { cause := 0x0D, detail := 2, va := s.iss.bundle } s
  { s1 with iss := { s1.iss with live := { s1.iss.live with rep := s1.iss.live.rep.cleared } } }
/-- REP opens capture (R41, R42). -/
def execRep (count : BitVec 13) (sd sa sb : Fin 8) (s : State) : Out :=
  .next (if s.iss.snap.rep.cap then repMisuse s
    else live (fun th => { th with rep := ⟨count, 0, 0, sd, sa, sb, false, true, []⟩ }) s)
/-- REPEND closes it (R41, R42). -/
def execRepend (s : State) : Out :=
  .next (if s.iss.snap.rep.cap then live (fun th => { th with rep := { th.rep with cap := false } }) s else repMisuse s)
/-- REPGO starts replay; a count of 0 ends at once (R41, R42). -/
def execRepgo (s : State) : Out :=
  .next (if s.iss.snap.rep.cap || s.iss.snap.rep.code.isEmpty then repMisuse s
    else live (fun th => { th with rep := { th.rep with iter := 0, pos := 0, act := decide (th.rep.count ≠ 0) } }) s)
/-- A register number moved by i × stride (R43). -/
def restride (v : VReg) (i : Nat) (stride : Fin 8) : VReg := Fin.ofNat 32 (v.val + i * stride.val)
/-- A captured instruction as iteration i issues it (R43): destinations by SD, first sources by SA, others by SB. -/
def restrideInstr (i : Nat) (sd sa sb : Fin 8) : Instr → Instr
  | .vadd d a b t r => .vadd (restride d i sd) (restride a i sa) (restride b i sb) t r
  | .vsub d a b t r => .vsub (restride d i sd) (restride a i sa) (restride b i sb) t r
  | .vmul d a b t r => .vmul (restride d i sd) (restride a i sa) (restride b i sb) t r
  | .vmin d a b t => .vmin (restride d i sd) (restride a i sa) (restride b i sb) t
  | .vmax d a b t => .vmax (restride d i sd) (restride a i sa) (restride b i sb) t
  | .vabs d a t => .vabs (restride d i sd) (restride a i sa) t
  | .vneg d a t => .vneg (restride d i sd) (restride a i sa) t
  | .vfma3 d a b t r => .vfma3 (restride d i sd) (restride a i sa) (restride b i sb) t r
  | .vfma4 d a b c t r => .vfma4 (restride d i sd) (restride a i sa) (restride b i sb) (restride c i sb) t r
  | .vdiv d a b t r => .vdiv (restride d i sd) (restride a i sa) (restride b i sb) t r
  | .vsqrt d a t r => .vsqrt (restride d i sd) (restride a i sa) t r
  | .vrcp d a t r => .vrcp (restride d i sd) (restride a i sa) t r
  | .vrsq d a t r => .vrsq (restride d i sd) (restride a i sa) t r
  | .vexp2 d a t r => .vexp2 (restride d i sd) (restride a i sa) t r
  | .vlog2 d a t r => .vlog2 (restride d i sd) (restride a i sa) t r
  | .vtanh d a t r => .vtanh (restride d i sd) (restride a i sa) t r
  | .vand d a b t => .vand (restride d i sd) (restride a i sa) (restride b i sb) t
  | .vor d a b t => .vor (restride d i sd) (restride a i sa) (restride b i sb) t
  | .vxor d a b t => .vxor (restride d i sd) (restride a i sa) (restride b i sb) t
  | .vshl d a b t => .vshl (restride d i sd) (restride a i sa) (restride b i sb) t
  | .vshr d a b t => .vshr (restride d i sd) (restride a i sa) (restride b i sb) t
  | .vshra d a b t => .vshra (restride d i sd) (restride a i sa) (restride b i sb) t
  | .vperm d a b t => .vperm (restride d i sd) (restride a i sa) (restride b i sb) t
  | .vredadd d a t r => .vredadd (restride d i sd) (restride a i sa) t r
  | .vredmax d a t => .vredmax (restride d i sd) (restride a i sa) t
  | .vargmax d a t => .vargmax (restride d i sd) (restride a i sa) t
  | .vcmp d a b t c => .vcmp (restride d i sd) (restride a i sa) (restride b i sb) t c
  | .vsel d a b c t => .vsel (restride d i sd) (restride a i sa) (restride b i sb) (restride c i sb) t
  | .vcvt d a x y r => .vcvt (restride d i sd) (restride a i sa) x y r
  | .vbcast v g t => .vbcast (restride v i sd) g t
  | .vext g v t j => .vext g (restride v i sa) t j
  | .vld v g t j => .vld (restride v i sd) g t j
  | .vst v g t j => .vst (restride v i sa) g t j
  | .vgather v g x t j => .vgather (restride v i sd) g (restride x i sb) t j
  | .vscatter v g x t j => .vscatter (restride v i sa) g (restride x i sb) t j
  | j => j
/-- The 32 bits of a V-slot instruction (R113: vslot as issued). -/
def vWord (i : Instr) : Lane :=
  match encode i with
  | some (.v w) => w
  | _ => 0

end Sys2Proof.Machine
end

