-- ==== Sys2Proof/Machine/Matrix.lean ====
section
/-! DEFINITION. The matrix group (chapter 10): the instructions as they issue (R226, R243 to R247), and the cluster's matrix
unit, whose steps are accepting a command, starting it and taking it further, consuming its operands, and completing
it. -/

namespace Sys2Proof

/-- The bytes of a readout target's element (R244). -/
def Target.bytes (t : Target) : Nat := Machine.elemBytes t.ty
/-- The formats of a pairing's operands (R65, R232). -/
def Pairing.formats : Pairing → Nat × Nat
  | .ln6 => (2, 2) | .ln8 => (3, 3) | .ln6ln8 => (2, 3) | .ln8ln6 => (3, 2) | .s8 => (1, 1) | .b16 => (4, 4)
/-- An element's bytes. -/
def Pairing.es : Pairing → Nat
  | .b16 => 2
  | _ => 1

end Sys2Proof

namespace Sys2Proof.Machine

/-! ## Limits of operands (R230, R239 to R244) -/

/-- An operand address of MMA or RMAP (R230). -/
def operandOk (v : Word) : Bool :=
  fld v 63 29 == 0 && (bit v 28 || fld v 27 24 == 0) && decide (0x100000 ≤ fld v 23 0) && decide (fld v 23 0 ≤ 0x14FFFF)
/-- A six-bit count where 0 means 64. -/
def or64 (n : Nat) : Nat := if n = 0 then 64 else n
/-- MST's window: STRIDE, ROW0, NROWS, COL0, NCOLS (R244). -/
def mstRow0 (b : Word) : Nat := fld b 31 26
def mstRows (b : Word) : Nat := or64 (fld b 25 20)
def mstCol0 (b : Word) : Nat := fld b 19 14
def mstCols (b : Word) : Nat := or64 (fld b 13 8)
/-- The first operand value outside its limits among a command's register values (R228, R229). `fmt` codes that no pairing
or target has, which only MSEND can carry, name word 0 of the record. -/
def matLimit (c : MatCmd) : Option Word :=
  match c.fn.toNat with
  | 0 =>
    if (Pairing.ofCode c.fmt.toNat).isNone then some c.word
    else if !operandOk c.a then some c.a
    else if !operandOk c.b then some c.b
    else if fld c.c 63 32 ≠ 0 ∨ bit c.c 30 ∨ bit c.c 22 ∨ fld c.c 15 12 ≠ 0 ∨ fld c.c 11 0 = 0 then some c.c
    else none
  | 1 => if -1024 ≤ c.a.toInt ∧ c.a.toInt ≤ 1023 then none else some c.a
  | 4 =>
    match Target.ofCode c.fmt.toNat with
    | none => some c.word
    | some t =>
      if c.a.toNat % t.bytes ≠ 0 then some c.a
      else if fld c.b 63 32 % t.bytes ≠ 0 ∨ 64 < mstRow0 c.b + mstRows c.b ∨ 64 < mstCol0 c.b + mstCols c.b ∨ bit c.b 6 then
        some c.b
      else none
  | 5 =>
    if fld c.a 31 14 ≠ 0 ∨ fld c.a 7 6 ≠ 0 ∨ fld c.a 63 48 % 32 ≠ 0 ∨ fld c.a 47 32 % 32 ≠ 0 then some c.a else none
  | 6 => if fld c.a 63 8 ≠ 0 then some c.a else if fld c.b 63 8 ≠ 0 then some c.b else none
  | 10 => if !operandOk c.a ∨ fld c.a 5 0 ≠ 0 then some c.a else none
  | _ => none
/-- A matrix-command fault (R229, R396). -/
def matTrap (fn : Nat) (value : Word) (tile : Nat) : Trap :=
  { cause := 0x2C, detail := fn, va := value, vb := BitVec.ofNat 64 tile }

/-! ## Commands as they issue (R226) -/

/-- A command of the issuing thread. -/
def issMat (fn : Nat) (fmt : Nat) (t : Tile) (a b c : Word) (s : State) : MatCmd :=
  let th := s.iss.snap
  { fn := BitVec.ofNat 4 fn, fmt := BitVec.ofNat 3 fmt, tile := t, a := a, b := b, c := c, space := th.space,
    launch := th.launchid, name := s.issName, sup := th.priv, cap := none, word := place s.iss.word.toNat 0,
    pc := s.iss.pc, pa := 0, old := [], oldX := [] }
/-- A command: operands with their poison uses, then the drain and the kick, the thread detached until the unit accepts. -/
def matIssue (fn fmt : Nat) (t : Tile) (ops : List (Reg × Nat)) (s : State) : State :=
  needs (ops.map (fun p => p.1)) (clean ops (notBusy (fun s =>
    let v (i : Nat) : Word := ((ops[i]?).map (fun p => s.iss.snap.reg p.1)).getD 0
    detach (.matrix (issMat fn fmt t (v 0) (v 1) (v 2) s)) .drain s))) s
/-- MMA (R240). -/
def execMma (t : Tile) (a b c : Reg) (f : Pairing) (s : State) : Out :=
  .next (matIssue 0 f.code t [(a, 3), (b, 3), (c, 7)] s)
/-- MMAZ (R241). -/
def execMmaz (t : Tile) (a : Reg) (s : State) : Out := .next (matIssue 1 0 t [(a, 7)] s)
/-- MCLR (R241). -/
def execMclr (t : Tile) (s : State) : Out := .next (matIssue 2 0 t [] s)
/-- MST (R244). -/
def execMst (t : Tile) (a b : Reg) (f : Target) (s : State) : Out := .next (matIssue 4 f.code t [(a, 3), (b, 7)] s)
/-- MFMT (R242). -/
def execMfmt (t : Tile) (a : Reg) (s : State) : Out := .next (matIssue 5 0 t [(a, 7)] s)
/-- MSCALE (R242). -/
def execMscale (t : Tile) (a b : Reg) (s : State) : Out := .next (matIssue 6 0 t [(a, 7), (b, 7)] s)
/-- RMAP (R242). -/
def execRmap (t : Tile) (a : Reg) (s : State) : Out := .next (matIssue 10 0 t [(a, 3)] s)

/-! ## MRD, MWAIT, MCAP and MSEND -/

/-- An element of a tile (R224). -/
def TileState.elem (t : TileState) (i : Nat) : Acc := (mget t.elems i).getD ⟨0, false, false, 0⟩
def TileState.setElem (t : TileState) (i : Nat) (e : Acc) : TileState :=
  { t with elems := mput ⟨0, false, false, 0⟩ t.elems i e }
/-- Whether any tile of a mask is locked (R227). -/
def Cluster.locked (c : Cluster) (mask : Word) : Bool := (List.range 4).any (fun i => bit mask i && (c.tile i).owners != 0)
/-- MRD: retry while the tile is locked; else the readout of one element (R243). -/
def execMrd (t : Tile) (a b : Reg) (f : Target) (s : State) : Out :=
  .next (needs [b] (clean [(b, 7)] fun s =>
    let v := s.iss.snap.reg b
    let cl := s.cluster (clusterOf s.iss.core)
    let tile := cl.tile t.val
    if fld v 63 12 ≠ 0 then trap (matTrap 3 v t.val) s
    else if tile.owners ≠ 0 then stopWait 7 (BitVec.twoPow 64 t.val) s
    else
      let r := readout (tile.elem (fld v 11 0)) tile.ref f
      raiseFlags r.2 (writeReg a (f.ty.extend r.1) (tile.rowPoison.getLsbD (fld v 11 6)) s)) s)
/-- MWAIT (R247). -/
def execMwait (a : Reg) (s : State) : Out :=
  .next (needs [a] (clean [(a, 7)] fun s =>
    let v := s.iss.snap.reg a
    if fld v 63 4 ≠ 0 then trap (matTrap 9 v 0) s
    else if (s.cluster (clusterOf s.iss.core)).locked v then detach (.mwait (BitVec.ofNat 4 v.toNat)) .waiting s
    else s) s)
/-- The waits of a cluster's threads after a change of OWNERS: MRD retries and MWAIT (R243, R247). -/
def State.checkTiles (s : State) (cl : Nat) : State :=
  (coresOf cl).foldl (fun s core => (List.range 7).foldl (fun s slot =>
    match s.thread (tid core slot) with
    | none => s
    | some th =>
      match th.run, th.pend with
      | .detached 7 mask, _ => if (s.cluster cl).locked mask then s else s.setThread (tid core slot) th.rejoin
      | .run, { op := .mwait mask, phase := .waiting, .. } :: _ =>
        if (s.cluster cl).locked (mask.zeroExtend 64) then s else s.finish (tid core slot) id
      | _, _ => s) s) s
/-- MCAP (R245). -/
def execMcap (a b c : Reg) (s : State) : Out :=
  .next (needs [b, c] (clean [(b, 7), (c, 7)] fun s =>
    let x := s.iss.snap.reg b
    let y := s.iss.snap.reg c
    if fld x 63 11 ≠ 0 then trap (matTrap 7 x 0) s
    else if fld y 63 6 ≠ 0 then trap (matTrap 7 y 0) s
    else
      let low := place (s.cluster (clusterOf s.iss.core)).mcstamp.toNat 28 ||| place (fld y 5 5) 25 ||| place (fld y 4 4) 24
        ||| place (fld y 3 0) 20 ||| place (fld x 10 0) 0
      writeReg a (place (Config.capCheck s.capKey low.toNat).toNat 40 ||| low) false s) s)
/-- MSEND reads its record at issue, drains, sends it with the capability, and waits for the target's answer (R246); a `gb` that
breaks its limit traps at issue (DEDUCED: log entry 49). -/
def execMsend (a b : Reg) (s : State) : Out :=
  .next (needs [a, b] (clean [(a, 7), (b, 3)] (notBusy (fun s =>
    let th := s.iss.snap
    let cap := th.reg a
    let ad := th.reg b
    if 0x18000 ≤ ad.toNat ∨ ad.toNat % 32 ≠ 0 then trap (matTrap 8 ad 0) s
    else if !th.priv && !guardAllows (s.core s.iss.core).guards .load ad.toNat then trap { cause := 0x22, va := ad } s
    else
      let base := tcmBase s.iss.core + ad.toNat
      let s := (List.range 4).foldl (fun s i => s.wordError (base + 8 * i) s.issName.word) s
      if (List.range 4).any (fun i => s.isPoisonAt (base + 8 * i)) then trap (poisonTrap b 7) s
      else
        let w (i : Nat) := s.readWord (base + 8 * i)
        let c := issMat (fld (w 0) 3 0) (fld (w 0) 6 4) (Fin.ofNat 4 (fld (w 0) 9 8)) (w 1) (w 2) (w 3) s
        detach (.matrix { c with cap := some cap, word := w 0 }) .drain s))) s)

/-! ## Acceptance (R226 to R228, R244, R246) -/

/-- A unit's number as an engine (R395). -/
def matEngine (cl : Nat) : Nat := 2048 + cl
/-- The cluster whose unit a command goes to. -/
def MatCmd.target (c : MatCmd) : Nat :=
  match c.cap with
  | some cap => fld cap 10 0
  | none => clusterOf c.name.core
/-- The physical address of an operand in a unit's frame (R230). -/
def operandPa (cl : Nat) (v : Word) : Nat :=
  scratchBase (if bit v 28 then cl / 16 * 16 + fld v 27 24 else cl) + (fld v 23 0 - 0x100000)
/-- The operand addresses of a command. -/
def MatCmd.operandsOf (c : MatCmd) : List Word :=
  match c.fn.toNat with
  | 0 => [c.a, c.b]
  | 10 => [c.a]
  | _ => []
/-- The reason a target refuses a sent command (R246). -/
def State.capRefused (s : State) (cl : Nat) (c : MatCmd) (cap : Word) : Option Nat :=
  let fn := c.fn.toNat
  if fld cap 63 40 ≠ (Config.capCheck s.capKey (fld cap 39 0)).toNat then some 1
  else if fld cap 39 28 ≠ (s.cluster cl).mcstamp.toNat then some 2
  else if fld cap 10 0 ≠ cl then some 3
  else if !bit cap (20 + c.tile.val) then some 4
  else if (fn = 4 ∧ !bit cap 24) ∨ ((fn = 0 ∨ fn = 1 ∨ fn = 2 ∨ fn = 5 ∨ fn = 6 ∨ fn = 10) ∧ !bit cap 25) then some 5
  else if fn = 3 ∨ fn = 7 ∨ fn = 8 ∨ fn = 9 ∨ 10 < fn ∨ fld c.word 63 10 ≠ 0 ∨ bit c.word 7 then some 6
  else none
/-- Whether an address lies in a scratchpad, or its scale stores, that a command's operands name. -/
def operandCell (cls : List Nat) (pa : Nat) : Bool :=
  match regionOf pa with
  | .scratch c => cls.contains c
  | .clusterCtl c off => decide (0x1000 ≤ off) && cls.contains c
  | _ => false
/-- The clusters of a command's operands. -/
def MatCmd.operandClusters (c : MatCmd) (cl : Nat) : List Nat :=
  c.operandsOf.filterMap (fun v => clusterOfAddr (operandPa cl v))
/-- The bytes and the poisoned words of those scratchpads. -/
def State.operandBytes (s : State) (cls : List Nat) : List (Nat × BitVec 8) := s.mem.filter (fun p => operandCell cls p.1)
def State.operandPoison (s : State) (cls : List Nat) : List Nat :=
  (s.marks.filter (fun p => operandCell cls p.1 && p.2.poison)).map (fun p => p.1)
/-- The segments a command names (R66); an MST's window by its acceptance translation (R244). -/
def MatCmd.segs (c : MatCmd) (cl : Nat) : List (Nat × Nat) :=
  (c.operandsOf.map (operandPa cl) ++ (if c.fn = 4 then [c.pa] else [])).filterMap
    (fun a => (segOf a).map (fun p => (p.1, p.2.1)))
/-- The unit changed. -/
def State.modMat (s : State) (cl : Nat) (f : MatUnit → MatUnit) : State := s.modCluster cl (fun c => { c with mat := f c.mat })
def State.modTile (s : State) (cl : Nat) (t : Tile) (f : TileState → TileState) : State :=
  s.modMat cl (fun u => { u with tiles := u.tiles.set t.val (f (u.tiles[t.val])) })
/-- The oldest command that has arrived at a unit and waits. -/
def State.firstMat (s : State) (cl : Nat) : Option Nat :=
  s.firstArrived (fun m => match m with
    | .matKick c | .msend c => c.target == cl
    | _ => false)
/-- A command that arrives is checked and accepted, or refused and answered (R226 to R228, R246); one that finds the queue
full, its issuer's posted stores not performed, or a store waiting for a segment it names, waits (R66, R226). -/
def State.acceptMat (s : State) (id : Nat) (c : MatCmd) : Out :=
  let cl := c.target
  let k := s.cluster cl
  let bounce (t : Trap) (s : State) : Out := .next ((s.take id).bounced c.name t)
  if s.firstMat cl ≠ some id then .refused .notPending
  else if s.isFenced cl then bounce { cause := 0x29, va := c.a } s
  else
    match c.cap.bind (fun cap => (s.capRefused cl c cap).map (fun r => (cap, r))) with
    | some (cap, r) => bounce { cause := 0x2D, detail := r, va := cap, vb := c.word } s
    | none =>
      if k.mat.marked then bounce (markedTrap 7 cl c.word) s
      else if 16 ≤ k.mat.queue.length + b2n k.mat.run.isSome || s.inFlightStores c.name .system then .next s
      else
        match matLimit c with
        | some v => bounce (matTrap c.fn.toNat v c.tile.val) s
        | none =>
          match if c.fn = 4 then s.translateEngine c.name.core c.space c.sup .store c.a else (.ok 0, s) with
          | (.error f, s) => bounce (f.trap c.a) s
          | (.ok pa, s) =>
            let c := { c with pa := pa }
            if (c.segs cl).any (fun p => (s.cluster p.1).segWait.any (fun w => w.seg == p.2)) then .next s
            else
              let cls := c.operandClusters cl
              let c := { c with old := s.operandBytes cls, oldX := s.operandPoison cls }
              let s := (s.take id).modMat cl (fun u => { u with queue := u.queue ++ [c] })
              .next ((s.modTile cl c.tile (fun t => { t with owners := t.owners + 1 })).accepted c.name)
/-- MATRIX_COMMAND_ACCEPT: a local command reaches its unit (R226 to R228). -/
def execMatrixCommandAccept (id : Nat) (s : State) : Out :=
  match s.msg? id with
  | some (.matKick c) => s.acceptMat id c
  | _ => .refused .notPending
/-- MSEND_ARRIVAL: a sent command reaches the unit its capability names (R246). -/
def execMsendArrival (id : Nat) (s : State) : Out :=
  match s.msg? id with
  | some (.msend c) => s.acceptMat id c
  | _ => .refused .notPending

/-! ## Completion, refusal and faults (R227, R228, R237, R238) -/

/-- The end of the running command: OWNERS falls, its flags go to the launch, its tags are set (R57, R227, R238). -/
def State.endMat (s : State) (cl : Nat) (r : MatRun) (tags : List Nat) : State :=
  let s := (s.modMat cl (fun u => { u with run := none })).modTile cl r.cmd.tile (fun t => { t with owners := t.owners - 1 })
  let s := s.launchFlags r.cmd.launch r.flags
  let mask : Word := tags.foldl (fun m t => m ||| BitVec.twoPow 64 t) 0
  (if tags.isEmpty then s else s.setTags r.cmd.name.core mask).checkTiles cl
/-- The tags a command enables: operands-consumed and completion (R240, R244). -/
def MatCmd.otag (c : MatCmd) : List Nat := if c.fn = 0 ∧ bit c.c 23 then [fld c.c 21 16] else []
def MatCmd.ctag (c : MatCmd) : List Nat :=
  if c.fn = 0 then (if bit c.c 31 then [fld c.c 29 24] else [])
  else if c.fn = 4 then (if bit c.b 7 then [fld c.b 5 0] else []) else []
/-- A command refused at start: every row is poisoned, its tags are set, and the fault is asynchronous (R228). -/
def State.refuseMat (s : State) (cl : Nat) (r : MatRun) : State :=
  let s := s.modTile cl r.cmd.tile (fun t => { t with rowPoison := BitVec.allOnes 64 })
  let s := s.sendAsync r.cmd.name r.cmd.launch
    (asyncFields s 1 0x2C 0 (some (matEngine cl)) r.cmd.name r.cmd.launch r.cmd.pc r.cmd.word 0 0)
  s.endMat cl r (r.cmd.otag ++ r.cmd.ctag)
def State.setMatRun (s : State) (cl : Nat) (r : MatRun) : State := s.modMat cl (fun u => { u with run := some r })
/-- A lasting residue mismatch: no further block, every active row poisoned, and those with a row-map mark (R242), the enabled
tags set, a flare, and the unit marked (R237). The flare names the tile in bits 13:12 of word 2, for which R407 has no
place (DESIGN CHOICE: log entry 83). -/
def State.residueFail (s : State) (cl : Nat) (r : MatRun) (active : List Nat) (row col : Nat) : State :=
  let s := s.modTile cl r.cmd.tile (fun t =>
    { t with rowPoison := active.foldl (fun b i => setBit b i true) (t.rowPoison ||| t.mapPoison) })
  let s := s.flare 5 r.cmd.name none r.cmd.launch r.cmd.pc (place r.cmd.tile.val 12 ||| place (r.block % 4096) 0)
    (BitVec.ofNat 64 (row * 64 + col)) 0 (loc 7 cl) 0
  (s.modMat cl (fun u => { u with marked := true })).endMat cl r
    ((if r.consumed then [] else r.cmd.otag) ++ r.cmd.ctag)

/-! ## MMA (R231 to R236) -/

/-- TSHAPE's AROWS, BCOLS, KSTRA, KSTRB (R242). -/
def TileState.arows (t : TileState) : Nat := or64 (fld t.tshape 5 0)
def TileState.bcols (t : TileState) : Nat := or64 (fld t.tshape 13 8)
def TileState.kstra (t : TileState) : Nat := fld t.tshape 63 48
def TileState.kstrb (t : TileState) : Nat := fld t.tshape 47 32
/-- The active output rows, with the A row of each (R231, R242). -/
def TileState.activeRows (t : TileState) : List (Nat × Nat) :=
  (List.range 64).filterMap (fun r =>
    let m := t.rowMap.toList.getD r 0
    if m.getLsbD 7 && decide (m.toNat % 64 < t.arows) then some (r, m.toNat % 64) else none)
/-- The start check of one operand: its segment's format, and every byte inside the segment (R232). -/
def State.operandStart (s : State) (pa fmt len : Nat) : Bool :=
  match segOf pa with
  | some (c, n, off) => segFmt (s.segWord c n) == fmt && decide (off + len ≤ segBytes)
  | none => false
/-- The bytes of an operand: the last K-block and the rows or columns of it. -/
def operandLen (kb stride n es : Nat) : Nat := (kb - 1) * stride + n * 32 * es
def State.mmaOk (s : State) (cl : Nat) (c : MatCmd) (t : TileState) (f : Pairing) : Bool :=
  let kb := fld c.c 11 0
  s.operandStart (operandPa cl c.a) f.formats.1 (operandLen kb t.kstra t.arows f.es) &&
  s.operandStart (operandPa cl c.b) f.formats.2 (operandLen kb t.kstrb t.bcols f.es)
/-- One element of an operand, from the bytes consumed. -/
def elemAt (mem : List (Nat × BitVec 8)) (pa es : Nat) : Nat :=
  let b (a : Nat) : Nat := ((mget mem a).getD 0).toNat
  if es = 2 then b pa + 256 * b (pa + 1) else b pa
/-- The scale of the block at an address: its segment's scale store when it has scales, else the uniform scale (R67, R232). A
block that does not start at a multiple of 32 takes the scale of the 32 bytes its first byte lies in (DEDUCED: log entry
72). -/
def State.blockScale (s : State) (mem : List (Nat × BitVec 8)) (pa : Nat) (uniform : BitVec 8) : BitVec 8 :=
  match segOf pa with
  | some (c, n, off) =>
    if segScl (s.segWord c n) then (mget mem (clusterCtlBase c + 0x1000 + 0x400 * n + off / 32)).getD 0 else uniform
  | none => uniform
/-- The 32 contributions of a block to an element (R231, R235). -/
def blockContribs (s : State) (cl : Nat) (r : MatRun) (t : TileState) (f : Pairing) (k row col : Nat) :
    List (Val × FlagBits) :=
  let pa := operandPa cl r.cmd.a + k * t.kstra + row * 32 * f.es
  let pb := operandPa cl r.cmd.b + k * t.kstrb + col * 32 * f.es
  let ka := s.blockScale r.operands pa t.ua
  let kb := s.blockScale r.operands pb t.ub
  (List.range 32).map (fun i => contrib f (elemAt r.operands (pa + i * f.es) f.es) (elemAt r.operands (pb + i * f.es) f.es) ka kb)
/-- Whether a contribution is floored with a remainder (R60). -/
def inexactQ (c : Val) (ref : Int) : Bool :=
  match c with
  | .fin n m e => !(decide (ref ≤ e) || scaled n m e e % (2 ^ (ref - e).toNat : Nat) == 0)
  | _ => false
/-- Whether every order of the contributions gives one result: none can saturate a partial sum (R61), and no NaN or infinity
stands beside an inexact one, which raises NX only when it comes before (R60; log entry 24). -/
def orderFree (el : Acc) (cs : List (Val × FlagBits)) (ref : Int) : Bool :=
  let q := cs.map (fun c => flooredQ c.1 ref)
  let pos := (q.filter (fun x => decide (0 < x))).sum
  let neg := (q.filter (fun x => decide (x < 0))).sum
  let special := cs.any (fun c => match c.1 with
    | .fin .. => false
    | _ => true)
  decide (el.x + pos ≤ satmax false) && decide (satmax true ≤ el.x + neg) && !(special && cs.any (fun c => inexactQ c.1 ref))
/-- An element after a block, the flags, and whether its residues agree (R60, R61, R236). -/
def accBlock (fresh : Nat) (el : Acc) (cs : List (Val × FlagBits)) (ref : Int) : Acc × FlagBits × Bool :=
  let order := if orderFree el cs ref then cs
    else (((List.range cs.length).zip cs).insertionSort (fun a b =>
      Config.accRank fresh a.1 ≤ Config.accRank fresh b.1)).map (fun p => p.2)
  let r := order.foldl (fun (p : Acc × FlagBits) c =>
    let n := accadd p.1 c.1 ref
    (n.1, p.2 ||| n.2 ||| c.2)) (el, 0)
  let sum := (cs.map (fun c => flooredQ c.1 ref)).sum
  let good := r.1.nan || r.1.ovf || resMod r.1.x == resMod (el.rho + sum)
  ({ r.1 with rho := resMod r.1.x }, r.2, good)
/-- Whether a block's row or column comes from a poisoned word (R235). -/
def poisonedRange (poisoned : List Nat) (pa len : Nat) : Bool := poisoned.any (fun w => decide (pa < w + 8 ∧ w < pa + len))
/-- The new elements of a block, by place, computed with free values from `fresh` on (R235, R236). -/
def State.blockElems (s : State) (cl : Nat) (r : MatRun) (f : Pairing) (fresh : Nat) : List (Nat × (Acc × FlagBits × Bool)) :=
  let t := (s.cluster cl).tile r.cmd.tile.val
  t.activeRows.flatMap (fun p => (List.range t.bcols).map (fun c =>
    let i := p.1 * 64 + c
    (i, accBlock (fresh + i) (t.elem i) (blockContribs s cl r t f r.block p.2 c) t.ref)))
/-- The lowest place of a block that mismatches. -/
def mismatchOf (new : List (Nat × (Acc × FlagBits × Bool))) : Option Nat := (new.find? (fun p => !p.2.2.2)).map (fun p => p.1)
/-- One K-block: contributions and residue checks of every active element, and the row poison of its words. A block that
mismatches is computed once more: when it then agrees, the fault was transient and is logged (R235 to R237). -/
def State.mmaBlock (s : State) (cl : Nat) (r : MatRun) (f : Pairing) : State :=
  let t := (s.cluster cl).tile r.cmd.tile.val
  let k := r.block
  let rows := t.activeRows
  let len := 32 * f.es
  let bBad := (List.range t.bcols).any (fun j =>
    poisonedRange r.poisoned (operandPa cl r.cmd.b + k * t.kstrb + j * len) len)
  let poison := rows.foldl (fun b p =>
    if bBad || poisonedRange r.poisoned (operandPa cl r.cmd.a + k * t.kstra + p.2 * len) len then setBit b p.1 true else b)
    (t.rowPoison ||| t.mapPoison)
  let done (s : State) (new : List (Nat × (Acc × FlagBits × Bool))) : State :=
    let flags := new.foldl (fun fl p => fl ||| p.2.2.1) r.flags
    let s := s.modTile cl r.cmd.tile (fun t =>
      new.foldl (fun (t : TileState) p => t.setElem p.1 p.2.1) { t with rowPoison := poison })
    s.setMatRun cl { r with block := k + 1, flags := flags, finished := decide (fld r.cmd.c 11 0 ≤ k + 1) }
  let new := s.blockElems cl r f s.fresh
  match mismatchOf new with
  | none => done { s with fresh := s.fresh + 4096 } new
  | some _ =>
    let again := s.blockElems cl r f (s.fresh + 4096)
    let s := { s with fresh := s.fresh + 8192 }
    match mismatchOf again with
    | none => (done s again).logEntry 1 false 0x19 (loc 7 cl) r.cmd.name.word (BitVec.ofNat 64 k)
    | some i => s.residueFail cl r (rows.map (fun q => q.1)) (i / 64) (i % 64)

/-! ## MST (R244) -/

/-- One store of an MST: address, bytes, value, and X. -/
structure MstStore where
  va : Word
  n : Nat
  data : Nat
  poison : Bool
  deriving DecidableEq, Repr
/-- The elements of a window in ascending row and column order: address, bits, row poison, flags. -/
def mstElems (t : TileState) (c : MatCmd) (f : Target) : List (Nat × Nat × Bool × FlagBits) :=
  (List.range (mstRows c.b)).flatMap (fun i => (List.range (mstCols c.b)).map (fun j =>
    let row := mstRow0 c.b + i
    let r := readout (t.elem (row * 64 + (mstCol0 c.b + j))) t.ref f
    ((c.a.toNat + i * fld c.b 63 32 + j * f.bytes) % 2 ^ 64, r.1, t.rowPoison.getLsbD row, r.2)))
/-- The elements gathered by the aligned 16 bytes they fall in, a later row replacing an earlier: the place, the elements. -/
def gatherFlit : List (Nat × List (Nat × Nat × Bool)) → Nat × Nat × Bool → List (Nat × List (Nat × Nat × Bool))
  | [], e => [(e.1 / 16 * 16, [e])]
  | (w, l) :: r, e => if w = e.1 / 16 * 16 then (w, l.filter (fun x => x.1 != e.1) ++ [e]) :: r else (w, l) :: gatherFlit r e
/-- A word's stores: one of the whole word when every byte of it is written, else one for each element. -/
def wordStores (es w : Nat) (l : List (Nat × Nat × Bool)) : List MstStore :=
  if l.length * es = 8 then
    [⟨BitVec.ofNat 64 w, 8, l.foldl (fun n e => n + e.2.1 * 2 ^ (8 * (e.1 % 8))) 0, l.any (fun e => e.2.2)⟩]
  else l.map (fun e => ⟨BitVec.ofNat 64 e.1, es, e.2.1, e.2.2⟩)
/-- The stores to an aligned 16 bytes: one flit when both its words are whole (R209), else those of each word. -/
def flitStores (es : Nat) (p : Nat × List (Nat × Nat × Bool)) : List (MstStore × Option MstStore) :=
  let lo := wordStores es p.1 (p.2.filter (fun e => decide (e.1 % 16 < 8)))
  let hi := wordStores es (p.1 + 8) (p.2.filter (fun e => decide (8 ≤ e.1 % 16)))
  match lo, hi with
  | [a], [b] => if a.n = 8 ∧ b.n = 8 then [(a, some b)] else [(a, none), (b, none)]
  | _, _ => (lo ++ hi).map (fun x => (x, none))
/-- The stores of an MST. -/
def mstStores (t : TileState) (c : MatCmd) (f : Target) : List (MstStore × Option MstStore) :=
  ((mstElems t c f).foldl (fun m e => gatherFlit m (e.1, e.2.1, e.2.2.1)) []).flatMap (flitStores f.bytes)
/-- The bytes of a store or flit. -/
def flitBytes (p : MstStore × Option MstStore) : Nat := p.1.n + (p.2.map (fun b => b.n)).getD 0
/-- The start check of MST: a destination in a segment that is raw or of the target format, without scales, and inside it. -/
def State.mstOk (s : State) (c : MatCmd) (f : Target) (pa : Nat) : Bool :=
  match segOf pa with
  | none => true
  | some (k, n, off) =>
    let w := s.segWord k n
    let fmt := match f with
      | .ln6 => 2 | .ln8 => 3 | .s8 => 1 | .b16 => 4 | .h16 => 5 | .f32 => 6 | .f64 => 7
    (segFmt w == 0 || segFmt w == fmt) && !segScl w &&
      decide (off + (mstRows c.b - 1) * fld c.b 63 32 + mstCols c.b * f.bytes ≤ segBytes)
/-- A command's progress: the bytes an MST has stored, or the K-blocks done (R396). -/
def State.matProgress (s : State) (cl : Nat) (r : MatRun) : Nat :=
  match Target.ofCode r.cmd.fmt.toNat with
  | some f =>
    if r.cmd.fn = 4 then
      ((mstStores ((s.cluster cl).tile r.cmd.tile.val) r.cmd f).take r.block).foldl (fun n st => n + flitBytes st) 0
    else r.block
  | none => r.block
/-- An aborted command: no tag; the flags it has raised reach its launch (R57), and a record does when one is due (R165,
R421, R422). -/
def State.abortMat (s : State) (cl : Nat) (why : Option HeldFault) : State :=
  match (s.cluster cl).mat.run with
  | none => s
  | some r =>
    let s := match why with
      | some f => s.sendAsync r.cmd.name r.cmd.launch
          (asyncFields s 1 f.cause f.reason (some (matEngine cl)) r.cmd.name r.cmd.launch r.cmd.pc r.cmd.word
            (BitVec.ofNat 64 (s.matProgress cl r)) f.va)
      | none => s
    s.endMat cl r []
/-- A posted store of an MST (R244). -/
def mstAccess (cl : Nat) (c : MatCmd) (st : MstStore) (pa : Nat) : Access :=
  copyAccess (.engine (matEngine cl)) c.sup c.launch c.pc .fk st.va pa st.n st.data false st.poison
/-- One store of a running MST, or one flit, posted; a fault holds the command with its progress (R165, R209, R244). -/
def State.mstStep (s : State) (cl : Nat) (r : MatRun) (f : Target) : State :=
  let c := r.cmd
  let t := (s.cluster cl).tile c.tile.val
  let hold (s : State) (cause reason : Nat) (va : Word) (pa : Nat) : State :=
    (s.setMatRun cl { r with held := some ⟨cause, reason, va⟩ }).holdFault (matEngine cl) (districtOfCluster cl) 1 cause
      reason c.name c.launch c.pc va (BitVec.ofNat 64 pa) (BitVec.ofNat 64 (s.matProgress cl r))
  match (mstStores t c f)[r.block]? with
  | none => s.setMatRun cl { r with finished := true }
  | some (st, hi) =>
    match s.translateEngine c.name.core c.space c.sup .store st.va with
    | (.error e, s) => hold s e.cause (if e.cause = 0x36 then e.detail else 0) st.va e.pa
    | (.ok pa, s) =>
      match s.engineFault pa with
      | some 0x29 => (s.setMatRun cl r).abortMat cl (some ⟨0x29, 0, st.va⟩)
      | some cause => hold s cause 0 st.va pa
      | none =>
        let a := mstAccess cl c st pa
        let send (s : State) : State :=
          match hi.map (fun b => mstAccess cl c b (pa + 8)) with
          | none => s.sendEngine (matEngine cl) a none
          | some b =>
            if takesFlits pa then s.sendEngine (matEngine cl) a (some b)
            else (s.sendEngine (matEngine cl) a none).sendEngine (matEngine cl) b none
        let flags := (mstElems t c f).foldl (fun fl e =>
          if e.1 / 16 = st.va.toNat / 16 then fl ||| e.2.2.2 else fl) r.flags
        (send s).setMatRun cl { r with block := r.block + 1, flags := flags }

/-! ## The unit's steps (R227, R228, R238) -/

/-- The other commands' effects: MMAZ, MCLR, MFMT, MSCALE and RMAP (R241, R242). -/
def State.tileEffect (s : State) (cl : Nat) (r : MatRun) : State :=
  let c := r.cmd
  let cleared (t : TileState) : TileState := { t with elems := [], rowPoison := 0 }
  s.modTile cl c.tile (fun t =>
    match c.fn.toNat with
    | 1 => { cleared t with ref := c.a.toInt }
    | 2 => cleared t
    | 5 => { t with tshape := c.a }
    | 6 => { t with ua := BitVec.ofNat 8 c.a.toNat, ub := BitVec.ofNat 8 c.b.toNat }
    | 10 =>
      let pa := operandPa cl c.a
      { t with
        rowMap := vecOf 64 (fun i => (mget r.operands (pa + i)).getD 0)
        mapPoison := (List.range 64).foldl (fun b i => setBit b i (r.poisoned.contains ((pa + i) / 8 * 8))) 0 }
    | _ => t)
/-- What a unit has fetched: flit by flit, the words as they were at acceptance or as they are now (R209, R234). -/
def State.consume (s : State) (cl : Nat) (r : MatRun) : State × MatRun :=
  let cls := r.cmd.operandClusters cl
  let bad := (s.wordErrors.filter (fun p => operandCell cls p.1)).map (fun p => p.1)
  let s := bad.foldl (fun s w => s.wordError w (place (matEngine cl) 0)) s
  let old (pa : Nat) : Bool := Config.flitOld s.fresh (pa / 16)
  let bytes := r.cmd.old.filter (fun p => old p.1) ++ (s.operandBytes cls).filter (fun p => !old p.1)
  let marks := r.cmd.oldX.filter old ++ (s.operandPoison cls).filter (fun w => !old w)
  (s.bump, { r with consumed := true, operands := bytes, poisoned := marks })
/-- MATRIX_COMMAND_START: the unit starts its oldest command, with its start checks, or takes the running one further: a
K-block of an MMA whose operands are consumed, a store of an MST, or the whole effect of another (R227, R228). -/
def execMatrixCommandStart (cl : Nat) (s : State) : Out :=
  if 2048 ≤ cl then .fault .noSuchUnit
  else
    let k := s.cluster cl
    match k.mat.run, k.mat.queue with
    | none, [] => .refused .notPending
    | none, c :: q =>
      let r : MatRun := ⟨c, 0, false, false, [], [], 0, none⟩
      let s := s.modMat cl (fun u => { u with queue := q, run := some r })
      match c.fn.toNat with
      | 0 =>
        match Pairing.ofCode c.fmt.toNat with
        | some f => .next (if s.mmaOk cl c (k.tile c.tile.val) f then s else s.refuseMat cl r)
        | none => .next (s.refuseMat cl r)
      | 4 =>
        match Target.ofCode c.fmt.toNat with
        | some f => .next (if s.mstOk c f c.pa then s else s.refuseMat cl r)
        | none => .next (s.refuseMat cl r)
      | _ => .next s
    | some r, _ =>
      if r.finished || r.held.isSome then .refused .notPending
      else
        match r.cmd.fn.toNat with
        | 0 =>
          match Pairing.ofCode r.cmd.fmt.toNat with
          | some f => if r.consumed then .next (s.mmaBlock cl r f) else .refused .notPending
          | none => .next (s.refuseMat cl r)
        | 4 =>
          match Target.ofCode r.cmd.fmt.toNat with
          | some f => .next (s.mstStep cl r f)
          | none => .next (s.refuseMat cl r)
        | 10 =>
          let (s, r) := s.consume cl r
          .next ((s.tileEffect cl r).setMatRun cl { r with finished := true })
        | _ => .next ((s.tileEffect cl r).setMatRun cl { r with finished := true })
/-- OPERANDS_CONSUMED: every operand flit of the running MMA has been fetched; its operands-consumed tag is set (R238). -/
def execOperandsConsumed (cl : Nat) (s : State) : Out :=
  if 2048 ≤ cl then .fault .noSuchUnit
  else
    match (s.cluster cl).mat.run with
    | some r =>
      if r.cmd.fn ≠ 0 ∨ r.consumed then .refused .notPending
      else
        let (s, r) := s.consume cl r
        let s := s.setMatRun cl r
        .next (r.cmd.otag.foldl (fun s t => s.setTags r.cmd.name.core (BitVec.twoPow 64 t)) s)
    | none => .refused .notPending
/-- MATRIX_COMMAND_COMPLETE, once every posted store of the unit has performed (R227, R238). -/
def execMatrixCommandComplete (cl : Nat) (s : State) : Out :=
  if 2048 ≤ cl then .fault .noSuchUnit
  else
    match (s.cluster cl).mat.run with
    | some r =>
      if r.finished && r.held.isNone && !s.postedBy (.engine (matEngine cl)) (fun _ => true) then
        .next (s.endMat cl r r.cmd.ctag)
      else .refused .notPending
    | none => .refused .notPending
/-- TRESUME of a matrix unit that holds its MST (R165, R421). -/
def State.resumeMat (s : State) (cl : Nat) (abort : Bool) : State :=
  match (s.cluster cl).mat.run with
  | some r => if abort then s.abortMat cl r.held else s.setMatRun cl { r with held := none }
  | none => s

/-! ## Stores to SEGFMT registers (R66) -/

/-- Whether a copy or matrix command in flight names a segment. -/
def State.segBusy (s : State) (c n : Nat) : Bool :=
  s.clusters.any (fun p =>
    (p.2.copy.queue ++ (p.2.copy.run.map (fun r => r.cmd)).toList).any (fun x => (s.copySegs x).contains (c, n)) ||
    (p.2.mat.queue ++ (p.2.mat.run.map (fun r => r.cmd)).toList).any (fun x =>
      (x.segs p.1).contains (c, n)))
/-- The value a store of an access gives SEGFMTn. -/
def segStored (s : State) (a : Access) : Word := mergeWord (s.busWord (wordOfAddr a.pa)) a.pa a.size a.data.toNat
/-- The writable fields of SEGFMT (R65). -/
def segMask : Word := 0x0000FFFF0000FF00#64
/-- SEGFMT_WRITE: a store to SEGFMTn, by any thread or engine (DEDUCED: log entry 76), arrives: refused, or kept until no command in flight names the segment (R66). -/
def execSegfmtWrite (id : Nat) (s : State) : Out :=
  match s.msg? id with
  | some (.segWrite a) =>
    match regionOf a.pa with
    | .clusterCtl c off =>
      let v := segStored s a &&& segMask
      let n := off / 8
      let s := s.take id
      let bad := decide (9 < segFmt v) || (Rm.ofCode (fld v 11 9)).isNone ||
        (segScl v && !(segFmt v == 1 || segFmt v == 2 || segFmt v == 3))
      if s.isFenced c then .next (s.refuseAt a 0x29)
      else if bad then .next (s.refuse a 0x15 n v 0 0)
      else .next (s.modCluster c (fun k => { k with segWait := k.segWait ++ [⟨n, a⟩] }))
    | _ => .next (s.take id)
  | _ => .refused .notPending
/-- SEGFMT_TAKES_EFFECT: whoever made it (DEDUCED: log entry 76), the oldest waiting store to a segment that no command in flight names; the stores of one issuer to
one window take effect in order (R66, R175). -/
def execSegfmtTakesEffect (c n : Nat) (s : State) : Out :=
  if 2048 ≤ c ∨ 16 ≤ n then .fault .noSuchUnit
  else
    match (s.cluster c).segWait.find? (fun w => w.seg == n) with
    | some w =>
      let first := (s.cluster c).segWait.find? (fun x => decide (x.acc.who = w.acc.who))
      if s.segBusy c n || first != some w then .refused .notPending
      else
        let v := segStored s w.acc &&& segMask
        let s := s.modCluster c (fun k =>
          { k with
            segWait := k.segWait.erase w
            segfmt := if h : n < 16 then k.segfmt.set n v else k.segfmt })
        .next (s.answer w.acc .done)
    | none => .refused .notPending

end Sys2Proof.Machine
end

