-- ==== Sys2Proof/Machine/Launch.lean ====
section
/-! DEFINITION. Launches, spawning, barriers, work lists and reductions (chapter 11): the seven instructions and EXIT as they
issue, and the steps of the launch unit, the dispatchers, the cores' spawn buffers and the levelling unit. -/

namespace Sys2Proof.Machine

/-! ## The instructions as they issue (R269 to R274, R111) -/

/-- An operand outside its limits (R275, R396). -/
def operandTrap (major : Nat) (value : Word) : Trap := { cause := 0x2F, detail := major, va := value }

/-- What SPAWN and MIG carry from the issuing thread, with the launch's SPACE (R270). -/
def issCarried (mig : Bool) (a b : Word) (s : State) : Carried :=
  let th := s.iss.snap
  { mig := mig, target := fld a 13 0, entry := b, regs := vecOf 10 (fun i => th.reg (Fin.ofNat 32 i)),
    present := BitVec.ofNat 10 th.present.toNat, poison := BitVec.ofNat 10 th.poison.toNat, pred := th.predWord,
    launch := th.launchid, space := ((s.launchOf th.launchid).map (fun l => l.space)).getD th.space, priv := th.priv, coff := if mig then fld a 48 32 else 0,
    words := List.replicate (if mig then fld a 22 16 else 0) (0, true, false), origin := s.issName, resend := false,
    pc := s.iss.pc, word := place s.iss.word.toNat 0 }

/-- SPAWN (R270): drains, then its message enters the spawn buffer. -/
def execSpawn (a b : Reg) (g : PReg) (s : State) : Out :=
  .next (guarded g (needs [a, b] (clean [(a, 7), (b, 5)] fun s =>
    let va := s.iss.snap.reg a
    let vb := s.iss.snap.reg b
    if fld va 63 14 ≠ 0 then trap (operandTrap 0x60 va) s
    else if fld vb 63 56 ≠ 0 then trap (operandTrap 0x60 vb) s
    else if fld vb 2 0 ≠ 0 then trap { cause := 0x11, va := vb } s
    else detach (.spawn (issCarried false va vb s)) .drain s)) s)

/-- The first carry word of a MIG that the protection unit denies its thread (R146). -/
def deniedCarry (s : State) (off n : Nat) : Option Nat :=
  if s.iss.snap.priv then none
  else ((List.range n).map (fun i => off + 8 * i)).find? (fun x => !guardAllows (s.core s.iss.core).guards .load x)

/-- MIG (R270): waits for its outstanding access, drains, waits for its copies, and sends its thread away. -/
def execMig (a b : Reg) (g : PReg) (s : State) : Out :=
  .next (guarded g (needs [a, b] (clean [(a, 7), (b, 5)] fun s =>
    let va := s.iss.snap.reg a
    let vb := s.iss.snap.reg b
    let off := fld va 48 32
    let n := fld va 22 16
    if fld va 63 49 ≠ 0 ∨ fld va 31 23 ≠ 0 ∨ fld va 15 14 ≠ 0 ∨ off % 8 ≠ 0 ∨ 64 < n ∨ 0x18000 < off + 8 * n then
      trap (operandTrap 0x61 va) s
    else if fld vb 63 56 ≠ 0 then trap (operandTrap 0x61 vb) s
    else if fld vb 2 0 ≠ 0 then trap { cause := 0x11, va := vb } s
    else
      notBusy (fun s =>
        match deniedCarry s off n with
        | some x => trap { cause := 0x22, va := BitVec.ofNat 64 x } s
        | none => detach (.mig (issCarried true va vb s)) .drain s) s)) s)

/-- LAUNCH (R271): drains, reads the record's 16 words, and sends it to the launch unit. -/
def execLaunch (a : Reg) (g : PReg) (s : State) : Out :=
  .next (guarded g (needs [a] (clean [(a, 3)] fun s =>
    let va := s.iss.snap.reg a
    if va.toNat % 64 ≠ 0 then trap (operandTrap 0x62 va) s
    else notBusy (detach (.launch va []) .drain) s)) s)

/-- BAR (R263, R272). -/
def execBar (sc : Scope) (a : Reg) (g : PReg) (s : State) : Out :=
  .next (guarded g (needs [a] (clean [(a, 7)] fun s =>
    let va := s.iss.snap.reg a
    if fld va 63 16 ≠ 0 then trap (operandTrap 0x63 va) s else detach (.bar sc (BitVec.ofNat 16 va.toNat)) .drain s)) s)

/-- WLPUSH (R273): the entry carries its poison. -/
def execWlpush (a : Reg) (g : PReg) (s : State) : Out :=
  .next (guarded g (needs [a] (fun s =>
    let va := s.iss.snap.reg a
    if va = 0 then trap (operandTrap 0x64 va) s else detach (.wlpush va (s.iss.snap.isPoisoned a)) .drain s)) s)

/-- WLPOP (R273). -/
def execWlpop (d : Reg) (g : PReg) (s : State) : Out := .next (guarded g (detach (.wlpop d) .drain) s)

/-- NRED (R267, R274): the value and index carry their poison. -/
def execNred (sc : Scope) (a b : Reg) (g : PReg) (s : State) : Out :=
  .next (guarded g (needs [a, b] (fun s =>
    let th := s.iss.snap
    if keyCount th.nrctl = 0 ∨ keyReg th.nrctl = 31 ∨ (keyOwner th.nrctl).slot = 7 then
      trap (operandTrap 0x66 th.nrctl) s
    else
      detach (.nred sc (th.reg a) (th.reg b) (th.isPoisoned a || th.isPoisoned b) th.nrctl) .drain s)) s)

/-- EXIT (R111): an outstanding access holds it; the thread leaves once its bundle has nothing outstanding. -/
def execExit (g : PReg) (s : State) : Out :=
  .next (guarded g (notBusy (live (fun th => { th with exiting := true }))) s)

/-! ## Launch records (R250, R256) -/

/-- Counts of a record: DIES, DIST, CLUS, CORES, THR. -/
def recDies (w : List Word) : Nat := fld (wordAt w 1) 22 19
def recDist (w : List Word) : Nat := fld (wordAt w 1) 18 14
def recClus (w : List Word) : Nat := fld (wordAt w 1) 13 9
def recCores (w : List Word) : Nat := fld (wordAt w 1) 8 5
def recThr (w : List Word) : Nat := fld (wordAt w 1) 4 0
def recShrec (w : List Word) : Word := wordAt w 10
def recShtcm (w : List Word) : Nat := fld (wordAt w 11) 32 16
def recShlen (w : List Word) : Nat := fld (wordAt w 11) 15 0
/-- A number between limits. -/
def within (lo hi n : Nat) : Bool := decide (lo ≤ n) && decide (n ≤ hi)
/-- Whether word `i` of a record breaks R250. -/
def recordBreaks (w : List Word) (sup : Bool) (i : Nat) : Bool :=
  let v := wordAt w i
  match i with
  | 0 => fld v 63 56 != 0 || fld v 2 0 != 0
  | 1 => fld v 63 26 != 0 || bit v 23 || !within 1 8 (recDies w) || !within 1 16 (recDist w) || !within 1 16 (recClus w)
      || !within 1 8 (recCores w) || !within 1 7 (recThr w)
  | 3 => !sup && v != 0
  | 4 => fld v 63 56 != 0 || fld v 2 0 != 0
  | 5 => fld v 63 56 != 0
  | 7 => fld v 3 0 != 0
  | 10 => fld v 63 56 != 0 || fld v 5 0 != 0
  | 11 =>
    let n := recShlen w
    fld v 63 33 != 0 || recShtcm w % 64 != 0 || n % 64 != 0 || decide (4096 < n)
      || decide (n = 0) != decide (recShrec w = 0) || decide (0x18000 < recShtcm w + n)
  | 12 => fld v 63 20 != 0 || decide (8 < fld v 19 16)
  | 13 | 14 | 15 => v != 0
  | _ => false

/-- A cluster open to placement (R256). -/
def State.isOpenCluster (s : State) (cl : Nat) : Bool := !(s.cluster cl).withheld && !s.isFenced cl
/-- A free cluster: open, and held by no launch (R253). -/
def State.isFreeCluster (s : State) (cl : Nat) : Bool := s.isOpenCluster cl && (s.cluster cl).holder.isNone
/-- The lowest clusters of a district that a test accepts. -/
def pickDistrict (ok : Nat → Bool) (clus d : Nat) : Option (List Nat) :=
  let l := ((List.range 16).map (fun k => d * 16 + k)).filter ok
  if clus ≤ l.length then some (l.take clus) else none
/-- The lowest districts of a die. -/
def pickDie (ok : Nat → Bool) (dist clus die : Nat) : Option (List Nat) :=
  let l := (List.range 16).filterMap (fun k => pickDistrict ok clus (die * 16 + k))
  if dist ≤ l.length then some (l.take dist).flatten else none
/-- The clusters of a shape, in rank order (R251, R253). -/
def pickClusters (ok : Nat → Bool) (w : List Word) : Option (List Nat) :=
  let l := (List.range 8).filterMap (pickDie ok (recDist w) (recClus w))
  if recDies w ≤ l.length then some (l.take (recDies w)).flatten else none
/-- Whether a shape can be met (R256). -/
def State.shapeMet (s : State) (w : List Word) : Bool := (pickClusters s.isOpenCluster w).isSome
/-- The word index of the first thing wrong with a record: 16 for its shape (R271, R396). -/
def State.recordBad (s : State) (w : List Word) (sup : Bool) : Option Nat :=
  match lowest 16 (recordBreaks w sup) with
  | some i => some i
  | none => if s.shapeMet w then none else some 16

/-- A class's queue, and the queue changed. -/
def State.queue (s : State) (cls : Nat) : List LaunchRec := s.queues.toList.getD cls []
def State.modQueue (s : State) (cls : Nat) (f : List LaunchRec → List LaunchRec) : State :=
  { s with queues := vecOf 4 (fun i => if i = cls then f (s.queue i) else s.queue i) }
/-- A record put at the tail of its class's queue. -/
def State.enqueue (s : State) (r : LaunchRec) : State := s.modQueue r.cls (fun q => q ++ [r])
/-- A binding of the Chandler's, changed. -/
def State.modBind (s : State) (b : Nat) (f : Bind → Bind) : State :=
  { s with chandler := { s.chandler with
      binds := s.chandler.binds.map (fun p => if p.1 = b then (p.1, f p.2) else p) } }

/-- The class a record enters: a user thread's rises to its own launch's (R250). -/
def LaunchRec.asked (r : LaunchRec) : Nat :=
  let c := fld (wordAt r.words 1) 25 24
  if r.priv then c else max c (fld r.launch 1 0)
/-- LAUNCH_RECORD_ARRIVAL: a record is refused at once, waits for a place in its queue behind those of its class that arrived
before it, or is accepted (R252, R271). -/
def execLaunchRecordArrival (id : Nat) (s : State) : Out :=
  match s.msg? id with
  | some (.launch r addr) =>
    match s.recordBad r.words r.priv with
    | some i =>
      .next ((s.take id).bounced r.issuer
        { cause := 0x2E, detail := i, va := addr, vb := wordAt r.words (if i = 16 then 1 else i) })
    | none =>
      let cls := r.asked
      if s.firstArrived (fun m => match m with
          | .launch x _ => decide (x.asked = cls) && (s.recordBad x.words x.priv).isNone
          | _ => false) ≠ some id then .refused .notPending
      else
        if 256 ≤ (s.queue cls).length then .next s
        else
          let space := if wordAt r.words 3 = 0 then r.space else wordAt r.words 3 &&& spaceMask
          .next (((s.take id).enqueue { r with cls := cls, space := space }).accepted r.issuer)
  | _ => .refused .notPending

/-! ## Completion words (R255, R256, R212) -/

/-- The launch unit's engine number (R395). -/
def launchUnit : Nat := 4225
/-- A table entry becomes free. -/
def State.freeEntry (s : State) (lid : Option Nat) : State :=
  match lid with
  | some n => { s with launches := mdel s.launches n }
  | none => s
/-- The record of a completion word that could not be filled: of the launch whose entry is still held, or of a record that
was never placed, which goes to the service core of its issuer's district. -/
def State.cwordFault (s : State) (c : Cword) (cause : Nat) : State :=
  let f := asyncFields s 3 cause 0 (some launchUnit) c.issuer c.launch c.pc c.slotw 0 c.va
  match c.lid with
  | some _ => s.sendAsync c.issuer c.launch f
  | none => s.sendRecord (svcBase + districtOf c.issuer.core) f.record
/-- The completion words in hand are filled, one after another, until one parks; each then frees its entry. The fuel is
the number in hand. -/
def State.fillCwords (s : State) : Nat → State
  | 0 => s
  | n + 1 =>
    match s.cwords with
    | [] => s
    | c :: rest =>
      let done (s : State) : State := { s with cwords := rest }.freeEntry c.lid
      match s.translateEngine c.issuer.core c.space c.sup .store c.va with
      | (.error f, s) => (done (s.cwordFault c f.cause)).fillCwords n
      | (.ok pa, s) =>
        match if hasMeta pa then s.engineFault pa else some 0x26 with
        | some cause => (done (s.cwordFault c cause)).fillCwords n
        | none =>
          let a : Access :=
            ⟨.stf, c.va, pa, 8, c.value, .engine launchUnit, .rel, .system, c.repark, false, c.sup, c.launch, 0,
              false, c.pc⟩
          if (s.wordMeta (wordOfAddr pa)).full then ({ s with cwords := { c with parked := true } :: rest }).park a
          else (done (s.storeNow { a with posted := true })).fillCwords n
/-- A completion word taken up; one that is 0 frees its entry at once. -/
def State.addCword (s : State) (c : Cword) : State :=
  if c.va = 0 then s.freeEntry c.lid
  else
    let s1 := { s with cwords := s.cwords ++ [c] }
    if s.cwords.isEmpty then s1.fillCwords 1 else s1
/-- A bank's answer to the launch unit, which goes on with the words behind. -/
def State.cwordAnswer (s : State) (r : Reply) : State :=
  match s.cwords with
  | [] => s
  | c :: rest =>
    let n := s.cwords.length
    match r with
    | .wake => ({ s with cwords := { c with parked := false, repark := true } :: rest }).fillCwords n
    | .fault cause _ _ _ _ => ({ s.cwordFault c cause with cwords := rest }.freeEntry c.lid).fillCwords n
    | _ => ({ s with cwords := rest }.freeEntry c.lid).fillCwords n

/-! ## Placement (R251 to R254) -/

/-- The classes of the 15 turns (R252). -/
def turnClass : List Nat := [0, 1, 0, 2, 0, 1, 0, 3, 0, 1, 0, 2, 0, 1, 0]
/-- The next turn whose queue holds a record, from a turn on. -/
def State.nextTurn (s : State) : Option (Nat × LaunchRec) :=
  (List.range 15).findSome? (fun k =>
    let t := (s.turn.val + k) % 15
    ((s.queue (turnClass.getD t 0)).head?).map (fun r => (t, r)))
/-- A stamp of no live launch, and not the last of a cluster placed (R253). -/
def State.newStamp (s : State) (cls : List Nat) : BitVec 12 :=
  let ok (v : BitVec 12) : Bool :=
    s.launches.all (fun p => p.2.stamp != v) && cls.all (fun c => (s.cluster c).mcstamp != v)
  s.stamp + BitVec.ofNat 12 (((List.range 4095).find? (fun k => ok (s.stamp + BitVec.ofNat 12 (k + 1)))).getD 0 + 1)
/-- The LAUNCHID value of a launch (R258). -/
def Launch.word (l : Launch) (lid : Nat) : Word :=
  place l.stamp.toNat 36 ||| place l.lgen.toNat 24 ||| place lid 12 ||| place l.cls 0
/-- A thread's g3, with the slot field given (R251). -/
def shapeName (w : List Word) (rank core slot : Nat) : Word :=
  place (rank / (recDist w * recClus w)) 14 ||| place (rank / recClus w % recDist w) 10 ||| place (rank % recClus w) 6
    ||| place core 3 ||| place slot 0
/-- A placed thread's registers (R251). -/
def placedRegs (w : List Word) (rank core slot : Nat) (th : Thread) : Thread :=
  let index := BitVec.ofNat 64 ((rank * recCores w + core) * recThr w + slot)
  let all := BitVec.ofNat 64 (recDies w * recDist w * recClus w * recCores w * recThr w)
  { th with regs := ((((((th.regs.set 0 (wordAt w 2)).set 1 index).set 2 all).set 3 (shapeName w rank core slot)).set 30
      (wordAt w 8 + index * wordAt w 9)).set 31 (wordAt w 6 - index * wordAt w 7)) }
/-- Step 6 of R254: a cluster's slots are allocated and loaded, and the cluster is prepared. -/
def State.loadSlots (s : State) (lid : Nat) (l : Launch) (cl rank : Nat) : State :=
  let s := (List.range (recCores l.words)).foldl (fun s core =>
    (List.range (recThr l.words)).foldl (fun s slot =>
      s.allocate (cl * 8 + core) slot (l.word lid) l.space l.priv (wordAt l.words 0) (placedRegs l.words rank core slot)) s) s
  s.modLaunch lid (fun l => { l with pendingShape := l.pendingShape.filter (fun p => p.1 != cl) })
/-- Whether a matrix unit has no command. -/
def MatUnit.idle (m : MatUnit) : Bool := m.run.isNone && m.queue.isEmpty
/-- Steps 1 to 4 of R254: tile state, SEGFMTn and NEXTSEQ, MCSTAMP, TAGS and work lists (R224, R225, R433). -/
def State.resetCluster (s : State) (cl : Nat) (stamp : BitVec 12) : State :=
  let s := s.modCluster cl (fun c => { c with
    mat := { c.mat with tiles := Vector.replicate 4 TileState.reset }
    segfmt := Vector.replicate 16 0
    mcstamp := stamp
    copy := { c.copy with cdone := 0 } })
  (coresOf cl).foldl (fun s c => s.modCore c (fun k => { k with tags := 0, worklist := [] })) s
/-- A cluster's preparation as far as it can go at once: one whose matrix unit still runs a command sent from outside the
launch waits for it (R246, R254), and one with a shape record waits for the broadcast. -/
def State.prepare (s : State) (lid cl rank : Nat) : State :=
  match s.launch lid with
  | none => s
  | some l =>
    if !(s.cluster cl).mat.idle then s
    else
      let s := if (s.cluster cl).mcstamp = l.stamp then s else s.resetCluster cl l.stamp
      if recShlen l.words = 0 then s.loadSlots lid l cl rank else s

/-- LAUNCH_PLACEMENT: the class's head launch, when it can be placed, takes its clusters and entry (R252, R253); the
dispatchers prepare the clusters (R254). The unit waits at the turn of a head that cannot be placed yet and places no other
until it can (R252; log entry 81). A step's launch waits until the one before it has ended (R315). -/
def execLaunchPlacement (s : State) : Out :=
  match s.nextTurn, s.cwords with
  | some (t, r), [] =>
    let cls := pickClusters s.isFreeCluster r.words
    let lid := lowest 4096 (fun n => (mget s.launches n).isNone)
    let waits := match r.step with
      | some (b, _) => s.launches.any (fun p => (p.2.step.map (fun (q : Nat × Nat) => q.1)) == some b)
      | none => false
    match cls, lid, waits with
    | some cls, some lid, false =>
      let lgen := (mget s.lgens lid).getD 0 + 1
      let stamp := s.newStamp cls
      let l : Launch := {
        lgen := lgen, stamp := stamp, words := r.words, space := r.space, cls := r.cls, priv := r.priv, issuer := r.issuer, pc := r.pc, slotw := r.slotw
        lflags := 0, clusters := cls.zipIdx, faulted := false, killed := false, step := r.step,
        pendingShape := cls.map (fun c => (c, 0)), shapeHeld := [], episodes := [] }
      let s := { s with
        turn := Fin.ofNat 15 (t + 1)
        launches := mset s.launches lid l
        lgens := mset s.lgens lid lgen
        stamp := stamp }
      let s := s.modQueue r.cls (fun q => q.drop 1)
      let s := cls.foldl (fun s c => s.modCluster c (fun k => { k with holder := some lid })) s
      let s := match r.step with
        | some (b, _) => s.modBind b (fun x => { x with st := .placed lid })
        | none => s
      .next (cls.zipIdx.foldl (fun s p => s.prepare lid p.1 p.2) s)
    | _, _, _ => if s.turn.val = t then .refused .notPending else .next { s with turn := Fin.ofNat 15 t }
  | _, _ => .refused .notPending

/-! ## The shape broadcast (step 5 of R254) -/

/-- The dispatcher of a cluster, as an engine (R395). -/
def dispatcher (cl : Nat) : Nat := 4352 + cl / 16
/-- The broadcast's words from a byte on: each is read in the launch's space and written to every core's TCM. A fault holds
it for service; a word of a peer that is not ready yet is read again later (R383, R384; log entry 5). -/
def State.broadcast (s : State) (lid : Nat) (l : Launch) (cl rank done : Nat) : Nat → State
  | 0 => s.loadSlots lid l cl rank
  | n + 1 =>
    let va := recShrec l.words + BitVec.ofNat 64 done
    let hold (s : State) (cause reason pa : Nat) : State :=
      (s.modLaunch lid (fun l => { l with shapeHeld := l.shapeHeld ++ [(cl, cause)] })).holdFault (dispatcher cl) (cl / 16) 3 cause
        reason l.issuer (l.word lid) l.pc va (BitVec.ofNat 64 pa) (BitVec.ofNat 64 done)
    match s.translateEngine l.issuer.core l.space l.priv .load va with
    | (.error f, s) => hold s f.cause 0 f.pa
    | (.ok pa, s) =>
      match s.engineFault pa with
      | some cause => hold s cause 0 pa
      | none =>
        match (s.engineSees (cl / 256) pa).readNow ⟨.ld, va, pa, 8, 0, .engine (dispatcher cl), .rx, .system, false, false, l.priv,
            l.word lid, 0, false, l.pc⟩ with
        | (.refused reason, s) => hold s 0x36 reason pa
        | (.parks _, s) => s
        | (.value v _ x, s) =>
        let s := (List.range (recCores l.words)).foldl (fun s core =>
          let (v, x) := if done = 0 then (shapeName l.words rank core 0, false) else (v, x)
          s.copyStore (.engine (dispatcher cl)) l.priv (l.word lid) .ff
            (tcmBase (cl * 8 + core) + recShtcm l.words + done) 8 v.toNat true x) s
        let s := s.modLaunch lid (fun l => { l with
          pendingShape := l.pendingShape.map (fun p => if p.1 = cl then (cl, done + 8) else p) })
        s.broadcast lid l cl rank (done + 8) n
/-- SHAPE_BROADCAST_COMPLETE: a cluster whose threads wait for its preparation gets what is left of it (R254). -/
def execShapeBroadcastComplete (cl : Nat) (s : State) : Out :=
  if 2048 ≤ cl then .fault .noSuchUnit
  else
    match (s.cluster cl).holder with
    | none => .refused .notPending
    | some lid =>
      match s.launch lid with
      | none => .refused .notPending
      | some l =>
        match l.pendingShape.find? (fun p => p.1 == cl), l.clusters.find? (fun p => p.1 == cl) with
        | some (_, done), some (_, rank) =>
          if l.shapeHeld.any (fun p => p.1 == cl) || l.killed || !(s.cluster cl).mat.idle then .refused .notPending
          else
            let s := if (s.cluster cl).mcstamp = l.stamp then s else s.resetCluster cl l.stamp
            .next (s.broadcast lid l cl rank done ((recShlen l.words - done) / 8))
        | _, _ => .refused .notPending

/-! ## The end of a launch (R255) -/

/-- Whether a message is work of a launch that keeps it live. -/
def Msg.ofLaunch (m : Msg) (launch : Word) : Bool :=
  match m with
  | .access a | .flit a _ | .toBridge _ a _ | .hostStore a | .segWrite a | .vigctl a | .vigstat a =>
    a.posted && a.launch == launch
  | .refusedStore _ l _ _ _ _ _ => l == launch
  | .refusedUnit a _ _ => a.launch == launch
  | .copyKick c => c.launch == launch
  | .matKick c | .msend c => c.launch == launch
  | .nred e => e.launches.contains launch
  | _ => false
/-- Whether a cluster's engines hold a command of a launch, or a store of it. -/
def Cluster.worksFor (c : Cluster) (launch : Word) : Bool :=
  (c.copy.run.map (fun r => r.cmd)).toList.any (fun x => x.launch == launch) || c.copy.queue.any (fun x => x.launch == launch)
    || (c.mat.run.map (fun r => r.cmd)).toList.any (fun x => x.launch == launch)
    || c.mat.queue.any (fun x => x.launch == launch) || c.segWait.any (fun x => x.acc.posted && x.acc.launch == launch)
/-- Whether a core holds messages or packets of a launch. -/
def Core.worksFor (k : Core) (launch : Word) : Bool :=
  k.spawnBuf.any (fun p => p.2.launch == launch) || k.nred.any (fun e => e.launches.contains launch)
/-- The conditions of R255. -/
def State.launchOver (s : State) (lid : Nat) (l : Launch) : Bool :=
  let w := l.word lid
  s.threads.all (fun p => p.2.launchid != w) && (l.killed || l.pendingShape.isEmpty)
    && s.cores.all (fun p => !p.2.worksFor w) && s.clusters.all (fun p => !p.2.worksFor w)
    && s.flight.all (fun f => !f.msg.ofLaunch w)
    && s.waiters.all (fun p => p.2.all (fun x => !(x.acc.posted && x.acc.launch == w)))
/-- A launch's end, its conditions holding: the entries left in its work lists are discarded, its clusters are released, its
step has ended for the Chandler, and CWORD is filled (R255, R273, R398). -/
def State.endLaunch (s : State) (lid : Nat) (l : Launch) : State :=
  let w := l.word lid
  let mine := (l.clusters.map (fun p => p.1)).filter (fun c => decide ((s.cluster c).holder = some lid))
  let s := (mine.flatMap coresOf).foldl (fun s c => if (s.core c).worklist.isEmpty then s else
    s.modCore c (fun k => { k with worklist := [] })) s
  let s := mine.foldl (fun s c => s.modCluster c (fun k => { k with holder := none })) s
  let s := match l.step with
    | some (b, q) =>
      let s := { s with chandler := { s.chandler with pastSteps := s.chandler.pastSteps ++ [(w, b, q)] } }
      s.modBind b (fun x => if x.st = StepLaunch.placed lid then { x with st := .ended } else x)
    | none => s
  let status := if l.killed then 2 else if l.faulted then 1 else 0
  s.addCword {
    lid := some lid, va := wordAt l.words 4, space := l.space, sup := l.priv, issuer := l.issuer, pc := l.pc
    slotw := l.slotw, launch := w,
    value := place status 56 ||| place l.lflags.toNat 0, budget := 2 ^ 20, parked := false, repark := false }
/-- LAUNCH_END: a launch whose work is over ends (R255); a unit that a completion word parks ends none. -/
def execLaunchEnd (lid : Nat) (s : State) : Out :=
  match s.launch lid with
  | some l =>
    if s.cwords.isEmpty && s.launchOver lid l then .next (s.endLaunch lid l) else .refused .notPending
  | none => .refused .notPending

/-- A queued record removed because its shape cannot be met any more: STATUS 3, and a record to its mailbox (R256); a step's
is refused to the Chandler as well (R309). -/
def State.dropRecord (s : State) (r : LaunchRec) : State :=
  let f := asyncFields s 3 0x2E 0 (some launchUnit) r.issuer 0 r.pc r.slotw 0 0
  let s := if wordAt r.words 5 ≠ 0 then
      { s with fmbxQueue := s.fmbxQueue ++ [⟨wordAt r.words 5, r.space, r.priv, r.issuer, districtOf r.issuer.core, f.record⟩] }
    else s.sendRecord (svcBase + districtOf r.issuer.core) f.record
  let s := match r.step with
    | some (b, _) => s.modBind b (fun x => { x with st := .refused })
    | none => s
  s.addCword {
    lid := none, va := wordAt r.words 4, space := r.space, sup := r.priv, issuer := r.issuer, pc := r.pc, slotw := r.slotw
    launch := 0, value := place 3 56, budget := 2 ^ 20, parked := false, repark := false }
/-- QUEUED_RECORD_REMOVAL: after a fence, every queued record whose shape cannot be met is removed (R256). -/
def State.removeUnmeetable (s : State) : State :=
  let gone := s.queues.toList.flatten.filter (fun r => !s.shapeMet r.words)
  gone.foldl State.dropRecord { s with queues := s.queues.map (fun q => q.filter (fun r => s.shapeMet r.words)) }

/-! ## Spawning and migration (R261, R262, R270) -/

/-- A message's thread, started in a slot (R270). -/
def State.startCarried (s : State) (slot : Nat) (c : Carried) : State :=
  s.allocate c.target slot c.launch c.space c.priv c.entry (fun th => { th with
    regs := vecOf 32 (fun i => c.regs.toList.getD i 0)
    present := (BitVec.allOnes 32 <<< 10) ||| c.present.zeroExtend 32
    poison := c.poison.zeroExtend 32
    pred := c.pred })
/-- The carry words of a MIG written to the target's TCM, with F and X as mode .fb writes them. -/
def State.writeCarry (s : State) (c : Carried) : State :=
  (c.words.zipIdx).foldl (fun s p =>
    let (v, f, x) := p.1
    s.copyStore (.thread c.origin) c.priv c.launch .fb (tcmBase c.target + c.coff + 8 * p.2) 8 v.toNat f x) s
/-- TAKING AN EXCEPTION of a MIG whose target is foreign: the origin is TRAPPED at the bundle, which has taken no effect
(R270). -/
def State.trapMig (s : State) (n : TName) (t : Trap) : State :=
  match s.named n with
  | none => s
  | some th =>
    match th.pend with
    | [] => s
    | p :: _ =>
      (s.sendTrap n.core n.slot th.gen th.launchid p.pc false t).setThread (tid n.core n.slot)
        { th.toTrap t.cause false with pc := p.pc, pend := [], sig := p.sig }
/-- A message dropped, its fault an asynchronous record to the launch (R261, R262, R396; for a MIG's to a fenced target log
entry 80). -/
def State.reportCarried (s : State) (sender seq : Nat) (c : Carried) (cause : Nat) : State :=
  (s.dropSpawn sender seq).sendAsync c.origin c.launch (asyncFields s 4 cause 0 none c.origin c.launch c.pc c.word 0 0)
/-- A message refused as foreign: a fault of the launch for SPAWN, a trap of the origin for MIG (R261, R270). -/
def State.dropForeign (s : State) (sender seq : Nat) (c : Carried) : State :=
  if c.mig then (s.dropSpawn sender seq).trapMig c.origin { cause := 0x31, va := place c.target 0, vb := c.entry }
  else s.reportCarried sender seq c 0x31
/-- Whether a cluster of a launch is still being prepared, so that no thread of the launch starts there (R254). -/
def State.unprepared (s : State) (launch : Word) (cl : Nat) : Bool :=
  ((s.launchOf launch).map (fun l => l.pendingShape.any (fun p => p.1 == cl))).getD false
/-- SPAWN_MESSAGE_ARRIVAL (R261). An accepted MIG ends its origin (R270). A message to a cluster that is still being prepared
waits there (R254). -/
def execSpawnMessageArrival (id : Nat) (s : State) : Out :=
  match s.msg? id with
  | some (.spawn sender seq) =>
    let waiting := s
    let s := s.take id
    match mget (s.core sender).spawnBuf seq with
    | none => .next s
    | some c =>
      let cl := clusterOf c.target
      let held := ((s.cluster cl).holder == some (lidOf c.launch)) && (s.launchOf c.launch).isSome
      if s.isFenced cl then .next (s.reportCarried sender seq c 0x29)
      else if !held then .next (s.dropForeign sender seq c)
      else if s.unprepared c.launch cl then .next waiting
      else
        match s.freeSlot c.target (some sender) with
        | some slot =>
          let s := (s.dropSpawn sender seq).writeCarry c
          let s := s.startCarried slot c
          .next (if c.mig then
              (s.modNamed c.origin (fun th => { th with exiting := true })).finish (tid c.origin.core c.origin.slot) (fun th => th)
            else s)
        | none =>
          if (s.core c.target).notices.length < 32 then
            .next (s.modCore c.target (fun k => { k with notices := k.notices ++ [sender] }))
          else .next (s.modCore sender (fun k => { k with spawnBuf := mset k.spawnBuf seq { c with resend := true } }))
  | _ => .refused .notPending

/-- Whether a buffered message is on its way. -/
def State.spawnInFlight (s : State) (sender seq : Nat) : Bool := s.flight.any (fun f => f.msg == .spawn sender seq)
/-- SLOT_FREE_NOTICE: the sender sends its oldest waiting message for the core again, or, with none left, gives the
reservation back (R261). -/
def execSlotFreeNotice (id : Nat) (s : State) : Out :=
  match s.msg? id with
  | some (.slotFree sender target slot) =>
    let s := s.take id
    let mine := (s.core sender).spawnBuf.filter (fun p => p.2.target == target)
    match mine.find? (fun p => !s.spawnInFlight sender p.1) with
    | some (seq, c) =>
      .next ((s.modCore sender (fun k => { k with spawnBuf := mset k.spawnBuf seq { c with resend := false } })).sendSpawn
        sender (seq, c))
    | none =>
      let k := s.core target
      if mine.isEmpty && k.reserved.contains (slot, sender) then
        .next ((s.setCore target { k with reserved := k.reserved.filter (fun p => p.1 != slot) }).slotFreed target slot)
      else .next s
  | _ => .refused .notPending
/-- SPAWN_RESEND_TICK: at a cycle that is a multiple of 4,096, refused messages that no notice list holds are sent again
(R261). -/
def execSpawnResendTick (s : State) : Out :=
  let waiting := s.cores.flatMap (fun p => (p.2.spawnBuf.filter (fun q => q.2.resend)).map (fun q => (p.1, q)))
  if s.cycle % 4096 ≠ 0 ∨ waiting = [] then .refused .notPending
  else
    .next (waiting.foldl (fun s p =>
      let (sender, seq, c) := p
      (s.modCore sender (fun k => { k with spawnBuf := mset k.spawnBuf seq { c with resend := false } })).sendSpawn sender
        (seq, c)) s)

/-! ## Load levelling (R266) -/

/-- What a core gives: its target and how many entries, by the sampled counts. -/
def State.levelMove (s : State) (core : Nat) : Option (Nat × Nat) :=
  let count c := (s.core c).worklist.length
  match leastLoaded count (s.adjacent core) with
  | some m => if count m + 2 ≤ count core then some (m, (count core - count m) / 2) else none
  | none => none
/-- LOAD_LEVELLING: every list is sampled, then entries move from the bottom of a list to the bottom of its target's, as far
as that has room. -/
def execLoadLevelling (s : State) : Out :=
  let moves := (s.cores.filter (fun p => !p.2.worklist.isEmpty)).filterMap (fun p =>
    (s.levelMove p.1).map (fun m => (p.1, m.1, m.2)))
  if s.cycle % 4096 ≠ 0 ∨ moves = [] then .refused .notPending
  else
    let given := moves.map (fun m => (m, (s.core m.1).worklist.drop ((s.core m.1).worklist.length - m.2.2)))
    let s := moves.foldl (fun s m => s.modCore m.1 (fun k => { k with worklist := k.worklist.take (k.worklist.length - m.2.2) })) s
    let s := given.foldl (fun s p =>
      let (core, tgt, _) := p.1
      let room := 1024 - (s.core tgt).worklist.length
      let s := s.modCore core (fun k => { k with worklist := k.worklist ++ p.2.drop room })
      s.modCore tgt (fun k => { k with worklist := k.worklist ++ p.2.take room })) s
    .next (moves.foldl (fun s m => s.servePops m.2.1 7) s)

/-! ## Reductions (R268) -/

/-- NRED_PACKET_ARRIVAL: a packet merges into its key's entry, opens one, or, with all 8 taken, waits in the network; a full
entry is delivered, or waits for its owner's RESTCTX (R260, R268). -/
def execNredPacketArrival (id : Nat) (s : State) : Out :=
  match s.msg? id with
  | some (.nred e) =>
    let o := (keyOwner e.key).core
    let l := mergeInto e (s.core o).nred
    if 8 < l.length then .next s
    else
      .next (((s.take id).modCore o (fun k => { k with nred := l })).deliverFull o)
  | _ => .refused .notPending

end Sys2Proof.Machine
end

