-- ==== Sys2Proof/Machine/Support.lean ====
section
/-! DEFINITION. The step support instructions (R312 to R315) as they issue. -/

namespace Sys2Proof.Machine

/-! ## The step a thread works for (R312) -/

/-- The binding and STEPSEQ of the step launch a thread belongs to. -/
def State.stepOf (s : State) (core : Nat) (launch : Word) : Option (Nat × Nat) :=
  if isSvc core then none else (s.launchOf launch).bind (fun l => l.step)
/-- A binding. -/
def State.bind (s : State) (b : Nat) : Option Bind := mget s.chandler.binds b
/-- The rows of a step: those of the open step, which in a partial re-execution are the rows that run again (R317), or those
of a step that has committed. -/
def Bind.rowsOf (b : Bind) (seq : Nat) : List Row :=
  if b.isOpen && b.stepseq.toNat == seq then b.rows else (mget b.past seq).getD []
/-- The valid row of a batch slot in a step. -/
def State.stepRow (s : State) (b seq slot : Nat) : Option Row :=
  (s.bind b).bind (fun x => (x.rowsOf seq).find? (fun r => r.slot == slot && r.fault != some 1))
/-- The physical address of a request record (R296). -/
def State.recordAddr (s : State) (ridx : Nat) : Nat :=
  ((s.chandler.config.map (fun c => fld (wordAt c.toList 0) 51 12)).getD 0) * 4096 + 256 * ridx
/-- A body of a step support instruction: outside a step launch it raises cause 0x33 (R312). -/
def inStep (major : Nat) (value : Word) (body : Nat → Nat → State → State) (s : State) : State :=
  match s.stepOf s.iss.core s.iss.snap.launchid with
  | some (b, q) => body b q s
  | none => trap { cause := 0x33, detail := major, va := value } s
/-- An operand of RREC or EMIT outside its limits (R312). -/
def stepOperand (major : Nat) (value : Word) (s : State) : State :=
  trap { cause := 0x34, detail := major, va := value } s

/-! ## The instructions -/

/-- RREC (R313). -/
def execRrec (d a : Reg) (g : PReg) (s : State) : Out :=
  .next (guarded g (needs [a] (clean [(a, 7)] fun s =>
    let v := s.iss.snap.reg a
    inStep 0x68 v (fun b q s =>
      match s.stepRow b q (fld v 43 32) with
      | some r =>
        if fld v 63 44 ≠ 0 ∨ fld v 31 5 ≠ 0 then stepOperand 0x68 v s
        else notBusy (detach (.rrec d v (s.recordAddr r.ridx + 8 * fld v 4 0)) .drain) s
      | none => stepOperand 0x68 v s) s)) s)

/-- The output KIND of a code (R314). -/
def emitKind : Nat → Option EmitKind
  | 0 => some .token | 1 => some .logp | 2 => some .fault | _ => none
/-- Whether an output keeps the limits of R314. -/
def emitOk (r : Row) (k : EmitKind) (idx : Nat) (v : Word) : Bool :=
  decide (idx < r.ntok) && (match k with
    | .token => fld v 63 32 == 0 && r.sample && idx + 1 == r.ntok
    | .logp => r.scoref
    | .fault => fld v 63 16 == 0 && fld v 15 0 != 0)
/-- EMIT hands an output of its KIND to the Chandler; after the thread's STEPEND it raises cause 0x35 whatever its operands
(R314; DEDUCED: log entry 33). -/
def emitOutput (a b : Reg) (g : PReg) (s : State) : State :=
  guarded g (needs [a, b] (clean [(a, 7), (b, 7)] fun s =>
    let v := s.iss.snap.reg a
    inStep 0x69 v (fun bi q s =>
      let slot := fld v 43 32
      let idx := fld v 15 0
      if s.iss.snap.stepEnded then
        trap { cause := 0x35, detail := 0x69, va := v, vb := BitVec.ofNat 64 (s.stepSeq s.iss.snap.launchid) } s
      else
      match s.stepRow bi q slot, emitKind (fld v 31 28) with
      | some r, some k =>
        if fld v 63 44 ≠ 0 ∨ fld v 27 16 ≠ 0 ∨ !emitOk r k idx (s.iss.snap.reg b) then stepOperand 0x69 v s
        else detach (.emit ⟨s.issName, s.iss.snap.launchid, slot, k, idx, s.iss.snap.reg b⟩) .drain s
      | _, _ => stepOperand 0x69 v s) s)) s
/-- EMIT of KIND 0 (R314). -/
def execEmitToken (a b : Reg) (g : PReg) (s : State) : Out := .next (emitOutput a b g s)
/-- EMIT of KIND 1 (R314). -/
def execEmitLogp (a b : Reg) (g : PReg) (s : State) : Out := .next (emitOutput a b g s)
/-- EMIT of KIND 2 (R314). -/
def execEmitFault (a b : Reg) (g : PReg) (s : State) : Out := .next (emitOutput a b g s)

/-- STEPEND (R315). -/
def execStepend (g : PReg) (s : State) : Out :=
  .next (guarded g (inStep 0x6A 0 (fun _ _ => detach .stepend .drain)) s)

end Sys2Proof.Machine
end

