-- ==== Sys2Proof/Machine/Context.lean ====
section
/-! DEFINITION. Ending threads and launches from outside (R422) and a thread's saved context (R429 to R431): what a save area
holds, what PREEMPT and SAVECTX wait for, and what RESTCTX puts back. -/

namespace Sys2Proof.Machine

/-! ## TKILL (R422) -/

/-- A thread's name at a place. -/
def nameAt (core slot : Nat) (th : Thread) : TName := ⟨core, slot, th.gen⟩
/-- Every waiter that a test accepts is removed from its word, with no serving (R158). -/
def State.dropAllWaiters (s : State) (p : Waiter → Bool) : State :=
  ((s.waiters.filter (fun x => x.2.any p)).map (fun x => x.1)).foldl (fun s w => s.dropWaiters w p) s
/-- A thread withdrawn from the barrier episodes it has arrived at (R265). -/
def Launch.withdraw (l : Launch) (n : TName) : Launch :=
  { l with
    episodes := (l.episodes.map (fun e => { e with arrived := e.arrived.filter (fun a => a != n) })).filter
      (fun e => !e.arrived.isEmpty) }
/-- The command that a thread is detached on and that its core has not sent yet: acceptance completes although the thread
ends, so its kick goes out (R201, R248). -/
def State.sendKick (s : State) (n : TName) (p : Pending) : State :=
  match p.phase, p.op with
  | .drain, .copy c => s.send (path 10 (clusterOf n.core) 0) (.copyKick c)
  | .drain, .matrix c => s.send (path 14 c.target (tid n.core n.slot)) (if c.cap.isSome then .msend c else .matKick c)
  | _, _ => s
/-- TKILL of one thread: it ends as at EXIT, its parked access and its barrier arrival withdrawn, a MIG of it that no target
has accepted dropped, the command it waits to have accepted sent on, and a HELD one's waiting deliveries found stale (R158,
R201, R248, R265, R422). -/
def State.killThread (s : State) (core slot : Nat) : State :=
  match s.thread (tid core slot) with
  | none => s
  | some th =>
    let n := nameAt core slot th
    let s := s.markFault th.launchid
    let s := s.dropAllWaiters (fun x => decide (x.acc.who = .thread n) && !x.acc.posted)
    let s := s.modLaunch (lidOf th.launchid) (fun l => l.withdraw n)
    let s := s.modCore core (fun k => { k with
      spawnBuf := k.spawnBuf.filter (fun p => !(p.2.mig && decide (p.2.origin = n)))
      held := mdel k.held slot })
    let s := (th.pend.head?.map (s.sendKick n)).getD s
    (s.endThread core slot).deliverFull core

/-- Whether a message is a command or a packet that a launch's kill drops. -/
def Msg.killedWith (m : Msg) (launch : Word) : Bool :=
  match m with
  | .copyKick c => c.launch == launch
  | .matKick c | .msend c => c.launch == launch
  | .nred e => e.launches.contains launch
  | _ => false
/-- What a launch's kill leaves a core. -/
def Core.killedWith (k : Core) (launch : Word) : Core :=
  { k with
    spawnBuf := k.spawnBuf.filter (fun q => q.2.launch != launch)
    nred := k.nred.filter (fun e => !e.launches.contains launch) }
/-- The commands of a launch in a cluster's engines are aborted, without tags (R422, R435). -/
def State.abortLaunch (s : State) (w : Word) (c : Nat) : State :=
  let k := s.cluster c
  let gone := (k.copy.queue.filter (fun x => x.launch == w)).length
  let s := s.modCopy c (fun e => { e with
    queue := e.queue.filter (fun x => x.launch != w), cdone := e.cdone + BitVec.ofNat 16 gone })
  let s := if (k.copy.run.map (fun r => r.cmd.launch)) == some w then s.abortCopy c none else s
  let mine := k.mat.queue.filter (fun x => x.launch == w)
  let s := s.modMat c (fun u => { u with queue := u.queue.filter (fun x => x.launch != w) })
  let s := mine.foldl (fun s x => s.modTile c x.tile (fun t => { t with owners := t.owners - 1 })) s
  let s := if (k.mat.run.map (fun r => r.cmd.launch)) == some w then s.abortMat c none else s
  s.checkTiles c
/-- TKILL of a whole launch: every thread ends, its spawn messages are dropped, its copies and matrix commands are aborted
without tags, its reductions are dropped, and its clusters start nothing more (R422, R435). -/
def State.killLaunch (s : State) (lid : Nat) : State :=
  match s.launch lid with
  | none => s
  | some l =>
    let w := l.word lid
    let s := s.modLaunch lid (fun l => { l with killed := true, shapeHeld := [] })
    let s : State := { s with cores := s.cores.map (fun p => (p.1, p.2.killedWith w)) }
    let s := (s.threads.filter (fun p => p.2.launchid == w)).foldl (fun s p => s.killThread (p.1 / 8) (p.1 % 8)) s
    let s : State := { s with flight := s.flight.filter (fun f => !f.msg.killedWith w) }
    (s.clusters.map (fun p => p.1)).foldl (fun s c => s.abortLaunch w c) s

/-! ## The words of a save area (R429) -/

/-- PEND, the data of a store form, and the slot word, for an instruction that has issued and waits. -/
def pendWords (p : Option Pending) : Word × Word × Word :=
  match p with
  | none => (0, 0, 0)
  | some p =>
    let value : Word := match p.op with
      | .access _ va _ _ _ _ _ _ => va
      | .tags _ mask _ => mask
      | .bar _ n => place n.toNat 0
      | .mwait mask => place mask.toNat 0
      | .mbx _ mask => place mask.toNat 0
      | _ => 0
    let data : Word := match p.op with
      | .access _ _ _ _ data _ _ _ => data
      | _ => 0
    (place 1 63 ||| place (b2n p.vslot) 62 ||| place (fld value 55 0) 0, data, place p.word.toNat 0)
/-- Whether an instruction waits with a fault that is not an access's: its whole bundle issues again (R421). -/
def Pending.bundleAgain (p : Pending) : Bool :=
  decide (p.phase = .faulted) && (match p.op with
    | .access .. => false
    | _ => true)
/-- The pending instruction a context saves: the one that waits, or a relaxed load whose fault service has left unanswered. -/
def Thread.savedPend (th : Thread) : Option Pending :=
  match th.pend, th.relaxed with
  | p :: _, _ => if p.bundleAgain then none else some p
  | [], some r =>
    some ⟨r.instr, .access .ld r.va r.pa r.size 0 .rx r.scope (.reg r.dest r.ty), .faulted, r.pc, r.pc + 8, r.word, false,
      false, th.sig⟩
  | [], none => none
/-- The program counter a context saves: past the bundle of an access that is held for service, and at a bundle that issues
again. -/
def Thread.savedPc (th : Thread) : Word :=
  match th.pend with
  | p :: _ => if p.bundleAgain then p.pc else if p.phase = .faulted then p.next else th.pc
  | [] => th.pc
/-- The signature state a context saves: as it was before a bundle that issues again (R113, R114). -/
def Thread.savedSig (th : Thread) : Sig :=
  match th.pend with
  | p :: _ => if p.bundleAgain then p.sig else th.sig
  | [] => th.sig
/-- Word `i` of a save area. -/
def ctxWord (core slot : Nat) (th : Thread) (stopped : Bool) (i : Nat) : Word :=
  let (pend, data, word) := pendWords th.savedPend
  let keep := 2 ^ th.grant.toNat - 1
  if i < 17 then
    ([place 1 56 ||| place (b2n th.priv) 55 ||| place (b2n stopped) 54 ||| place (nameAt core slot th).bits 0, th.savedPc,
      place th.present.toNat 32 ||| place th.poison.toNat 0, place th.predWord.toNat 0, place th.flags.toNat 0,
      place th.want.toNat 16 ||| place th.grant.toNat 8 ||| place th.vl.toNat 0, place th.waitbud.toNat 0, th.cpmbx,
      th.nrctl, th.space, th.launchid, sigWord th.savedSig, repstWord th.rep, th.chkid, pend, data, word]).getD i 0
  else if 32 ≤ i ∧ i < 64 then th.regs.toList.getD (i - 32) 0
  else if 64 ≤ i ∧ i < 72 then
    place ((th.rep.code.getD (2 * (i - 64)) 0).toNat) 0 ||| place ((th.rep.code.getD (2 * (i - 64) + 1) 0).toNat) 32
  else if 72 ≤ i ∧ i < 80 then th.msgbuf.toList.getD (i - 72) 0
  else if 96 ≤ i ∧ i < 128 then place ((th.vpoison.toList.getD (i - 96) 0).toNat &&& keep) 0
  else if 128 ≤ i ∧ i < 1152 then
    let v := th.vregs.toList.getD ((i - 128) / 32) (Vector.replicate 64 0)
    let lane (k : Nat) : Nat := if k < th.grant.toNat then (laneAt v k).toNat else 0
    place (lane ((i - 128) % 32 * 2)) 0 ||| place (lane ((i - 128) % 32 * 2 + 1)) 32
  else 0

/-- A supervisor thread's address, for the words of a save area. -/
def State.ctxAddress (s : State) (n : TName) (k : Kind) (va : Word) : Except Nat Nat × State :=
  match s.named n with
  | none => (.error 0x20, s)
  | some th =>
    match s.translateEngine n.core th.space th.priv k va with
    | (.error f, s) => (.error f.cause, s)
    | (.ok pa, s) =>
      match s.engineFault pa with
      | some cause => (.error cause, s)
      | none => (.ok pa, s)
/-- The words of a save area stored one after another, as ST; the first fault stops them with its cause. -/
def State.storeCtx (s : State) (n : TName) (launch : Word) (area : Word) (w : Nat → Word) : Nat → Option Nat × State
  | 0 => (none, s)
  | k + 1 =>
    let i := 1151 - k
    let va := area + BitVec.ofNat 64 (8 * i)
    match s.ctxAddress n .store va with
    | (.error cause, s) => (some cause, s)
    | (.ok pa, s) =>
      let a : Access := ⟨.st, va, pa, 8, w i, .thread n, .sc, .system, false, true, true, launch, 0, false, 0⟩
      match s.peerSays a with
      | (some _, s) => (some 0x36, s)
      | (none, s) => ((s.engineTouches (dieOf n.core) pa).storeNow a).storeCtx n launch area w k
/-- The words of a save area read one after another, each with its X; none while a word of a peer is not ready (log entry
5). -/
def State.loadCtx (s : State) (n : TName) (area : Word) : Nat → Option (Except Nat (List (Word × Bool))) × State
  | 0 => (some (.ok []), s)
  | k + 1 =>
    let va := area + BitVec.ofNat 64 (8 * (1151 - k))
    match s.ctxAddress n .load va with
    | (.error cause, s) => (some (.error cause), s)
    | (.ok pa, s) =>
      match (s.engineSees (dieOf n.core) pa).readNow
          ⟨.ld, va, pa, 8, 0, .thread n, .sc, .system, false, false, true, 0, 0, false, 0⟩ with
      | (.parks _, s) => (none, s)
      | (.refused _, s) => (some (.error 0x36), s)
      | (.value v _ x, s) =>
        match s.loadCtx n area k with
        | (some (.ok l), s) => (some (.ok ((v, x) :: l)), s)
        | other => other
/-- Whether a word of a save area holds something that cannot be poisoned: all but the general registers and the lanes, which
take the word's mark (log entry 92). -/
def ctxControl (i : Nat) : Bool := decide (i < 17) || decide (64 ≤ i ∧ i < 128)

/-! ## PREEMPT and SAVECTX (R430) -/

/-- Whether an access of a thread is parked at its bank: one that has been served there has its reply on the way. -/
def State.isParked (s : State) (n : TName) : Bool :=
  s.waiters.any (fun p => p.2.any (fun x => decide (x.acc.who = .thread n) && !x.acc.posted))
/-- Whether a thread has nothing outstanding but a wait that a save area can hold, or a fault that waits for service (R122,
R201, R248, R270). -/
def State.quiet (s : State) (core slot : Nat) (th : Thread) : Bool :=
  !th.exiting && !s.inFlightStores (nameAt core slot th) .system && (match th.relaxed with
    | none => true
    | some r => r.faulted) && (match th.pend with
    | [] => true
    | [p] =>
      match p.phase, p.op with
      | .parked, .access .. => s.isParked (nameAt core slot th)
      | .faulted, _ => true
      | .waiting, .tags .. | .waiting, .bar .. | .waiting, .wlpop _ | .waiting, .mwait _ | .waiting, .mbx .. => true
      | _, _ => false
    | p :: _ => p.bundleAgain)
/-- A parked access's waiter is removed; it will be replayed as a new instance (R158). -/
def State.unpark (s : State) (n : TName) : State := s.dropAllWaiters (fun x => decide (x.acc.who = .thread n) && !x.acc.posted)
/-- What a HELD slot keeps: its name, launch and privilege; everything else is in its save area (R430). -/
def Thread.heldFrom (th : Thread) : Thread :=
  { Thread.init with
    gen := th.gen, launchid := th.launchid, space := th.space, priv := th.priv, flags := th.flags
    stepEnded := th.stepEnded, run := .held }
/-- A thread becomes HELD: its grant and its energy standing go (R37, R39). -/
def State.holdSlot (s : State) (core slot : Nat) (th : Thread) : State :=
  (s.setThread (tid core slot) th.heldFrom).modCore core (fun k => { k with
    held := mset k.held slot ⟨[], false⟩
    starved := setBit k.starved slot false
    charges := k.charges.filter (fun p => p.1 != slot)
    mbxq := k.mbxq.filter (fun x => x != slot)
    walks := k.walks.filter (fun w => w.slot != slot) })
/-- PREEMPT's or SAVECTX's outcome for a target that has nothing outstanding: the status. -/
def State.saveContext (s : State) (sender : TName) (area : Word) (core slot : Nat) (th : Thread) (preempt : Bool) :
    Nat × State :=
  let n := nameAt core slot th
  let s := s.unpark n
  let stopped := if preempt then th.stopq else true
  let launch := ((s.named sender).map (fun t => t.launchid)).getD 0
  match s.storeCtx sender launch area (ctxWord core slot th stopped) 1152 with
  | (some cause, s) =>
    let replay (th : Thread) : Thread :=
      th.modHead (fun p => if p.phase = .parked then { p with phase := .drain, repark := false } else p)
    (3 + cause * 256,
      if preempt then s.modThread (tid core slot) (fun th => { replay th with run := .stopped, stopq := false, hold := false })
      else s)
  | (none, s) => (0, if preempt then s.holdSlot core slot th else s)

/-! ## RESTCTX (R431) -/

/-- The instruction of PEND's slot word, issued again as a new instance with the address or operand PEND kept; the bits of a
mask that PEND has no room for are read from ga. -/
def restoredOp (th : Thread) (word : Lane) (vslot : Bool) (value data : Word) (pa : Nat) : Option Op :=
  let mask (a : Reg) : Word := value ||| (th.reg a &&& 0xFF00000000000000#64)
  let acc (f : Form) (t : Ity) (o : MemOrd) (sc : Scope) (dest : Dest) : Option Op :=
    some (.access f value pa t.size data o sc dest)
  match if vslot then decodeV word.toNat else decodeA word.toNat none with
  | .ok i =>
    match i with
    | .ld d _ t _ sc _ _ => acc .ld t .sc sc (.reg d t)
    | .st _ _ t o sc _ _ => acc .st t o sc .none
    | .ldw d _ _ o sc _ _ => acc .ldw .n64 o sc (.reg d .n64)
    | .ldc d _ _ o sc _ _ => acc .ldc .n64 o sc (.reg d .n64)
    | .stf _ _ _ o sc _ _ => acc .stf .n64 o sc .none
    | .ste _ _ _ o sc _ _ => acc .ste .n64 o sc .none
    | .fest f _ _ o sc _ _ => acc (.fest f) .n64 o sc .none
    | .feq p _ _ o sc _ _ => acc .feq .n64 o sc (.pred p)
    | .lrw d _ _ o sc _ _ => acc .lrw .n64 o sc (.reg d .n64)
    | .sch d _ _ o sc _ _ => acc .sch .n64 o sc (.status d)
    | .rcan _ _ o sc _ _ => acc .rcan .n64 o sc .none
    | .twall a _ => some (.tags true (mask a) none)
    | .twany a _ => some (.tags false (mask a) none)
    | .tfirst d a _ => some (.tags false (mask a) (some d))
    | .bar sc _ _ => some (.bar sc (BitVec.ofNat 16 value.toNat))
    | .wlpop d _ => some (.wlpop d)
    | .mwait _ => some (.mwait (BitVec.ofNat 4 value.toNat))
    | .mbxwait d _ _ => some (.mbx d (BitVec.ofNat 8 value.toNat))
    | _ => none
  | .error _ => none
/-- The registers and state of R429 read back from a save area's words, with their X. The program counter's bits 2:0 are 0 (R70), and a
thread of a service core is privileged (R393); reserved fields read 0, and WAITBUD is at most its limit (R7, R157). -/
def restoredThread (core : Nat) (old : Thread) (w : List (Word × Bool)) : Thread :=
  let v (i : Nat) := (w.getD i (0, false)).1
  let x (i : Nat) := (w.getD i (0, false)).2
  let rep := v 12
  { Thread.init with
    regs := vecOf 32 (fun i => v (32 + i))
    present := BitVec.ofNat 32 (fld (v 2) 63 32)
    poison := (List.range 32).foldl (fun b i => if x (32 + i) then setBit b i true else b) (BitVec.ofNat 32 (fld (v 2) 31 0))
    pred := BitVec.ofNat 8 (v 3).toNat ||| 1
    pc := v 1 &&& ~~~7
    flags := BitVec.ofNat 6 (v 4).toNat
    vl := BitVec.ofNat 7 (fld (v 5) 6 0)
    grant := BitVec.ofNat 7 (fld (v 5) 14 8)
    want := BitVec.ofNat 7 (fld (v 5) 22 16)
    gen := old.gen
    waitbud := waitbudWrite (v 6)
    cpmbx := v 7 &&& cpmbxMask
    nrctl := v 8 &&& nrctlMask
    space := v 9 &&& spaceMask
    launchid := v 10 &&& launchidMask
    sig := ⟨BitVec.ofNat 32 (fld (v 11) 31 0), BitVec.ofNat 22 (fld (v 11) 53 32), bit (v 11) 54⟩
    rep := ⟨BitVec.ofNat 13 (fld rep 47 35), BitVec.ofNat 13 (fld rep 34 22), fld rep 16 13, Fin.ofNat 8 (fld rep 12 10),
      Fin.ofNat 8 (fld rep 9 7), Fin.ofNat 8 (fld rep 6 4), bit rep 1, bit rep 0,
      (List.range (min 16 (fld rep 21 17))).map (fun i => BitVec.ofNat 32 (fld (v (64 + i / 2)) (i % 2 * 32 + 31) (i % 2 * 32)))⟩
    chkid := v 13
    msgbuf := vecOf 8 (fun i => v (72 + i))
    vpoison := vecOf 32 (fun r => (List.range 64).foldl (fun b i => if x (128 + 32 * r + i / 2) then setBit b i true else b)
      (v (96 + r)))
    vregs := vecOf 32 (fun r => vecOf 64 (fun i =>
      BitVec.ofNat 32 (fld (v (128 + 32 * r + i / 2)) (i % 2 * 32 + 31) (i % 2 * 32))))
    priv := isSvc core || bit (v 0) 55
    stepEnded := old.stepEnded
    run := if bit (v 0) 54 then .stopped else .run }
/-- The name a save area holds, as one of the two places it can stand for that is HELD: a core's, or a service core's. -/
def State.heldNamed (s : State) (w : Word) : Option (Nat × Nat × Thread) :=
  let core := fld w 16 3
  let slot := fld w 2 0
  let at_ (core : Nat) : Option (Nat × Nat × Thread) := (s.thread (tid core slot)).bind (fun th =>
    if th.run = .held ∧ th.gen.toNat = fld w 28 17 then some (core, slot, th) else none)
  match at_ core with
  | some x => some x
  | none => if core % 128 = 0 then at_ (svcBase + core / 128) else none
/-- Whether a thread has arrived at an open episode of its launch. -/
def State.hasArrived (s : State) (launch : Word) (n : TName) : Bool :=
  ((s.launchOf launch).map (fun l => l.episodes.any (fun e => e.arrived.contains n))).getD false
/-- A thread's translation of an address, its leaf walked for at once when no TLB holds it (R161). -/
def State.translateWalked (s : State) (core slot : Nat) (space : Word) (sup : Bool) (k : Kind) (va : Word) :
    Except MemFault Nat × State :=
  let answer : Trans → Except MemFault Nat
    | .ok pa => .ok pa
    | .fault f => .error f
    | .miss => .error { cause := 0x20 }
  match s.translate core slot space sup k va with
  | .miss =>
    let s := s.touchWalk space va.toNat
    match s.walk space va.toNat with
    | .error f => (.error f, s)
    | .ok l => (answer (leafTrans l k sup va.toNat), s.fillTlbs core slot space l)
  | x => (answer x, s)
/-- The checks of a form on a physical address: existence, metadata and a port's link (R147, R171, R387). -/
def State.formFault (s : State) (f : Form) (pa : Nat) : Option MemFault :=
  match regionOf pa with
  | .absent => some { cause := 0x25, pa := pa }
  | .peer p =>
    if isFullEmpty f then some { cause := 0x26, pa := pa }
    else if (s.ports.toList[p]?.map (fun q => q.up)).getD false then none
    else some { cause := 0x37, pa := pa }
  | _ => if isFullEmpty f && !hasMeta pa then some { cause := 0x26, pa := pa } else none
/-- An access's address on the way to memory again: translated and checked as at its first issue (R158, R162, R171). -/
def State.addressAgain (s : State) (core slot : Nat) (th : Thread) (f : Form) (va : Word) : Except MemFault Nat × State :=
  match s.translateWalked core slot th.space th.priv (formKind f) va with
  | (.ok pa, s) =>
    match s.formFault f pa with
    | some e => (.error e, s)
    | none => (.ok pa, s)
  | x => x
/-- A context put back in its slot: every field, then the PUTs that the core kept and the deliveries that wait in its entries
(R268), then the pending instruction as a new instance. A BAR whose episode has completed is done; one whose episode is open
keeps its arrival; one whose episode a fence has ended raises a snuffed-target fault (R265). -/
def State.restore (s : State) (core slot : Nat) (old : Thread) (w : List (Word × Bool)) : State :=
  let v (i : Nat) := (w.getD i (0, false)).1
  let th := restoredThread core old w
  let n := nameAt core slot old
  let h := (mget (s.core core).held slot).getD ⟨[], false⟩
  let th := h.puts.foldl (fun th p => th.setReg (Fin.ofNat 32 p.1) p.2.1 p.2.2) th
  let s := (s.modCore core (fun k => { k with held := mdel k.held slot })).setThread (tid core slot) th
  let s := s.deliverFull core
  let pend := v 14
  let value := place (fld pend 55 0) 0
  let word := BitVec.ofNat 32 (v 16).toNat
  let vslot := bit pend 62
  if !bit pend 63 then s
  else
    match restoredOp th word vslot value (v 15) 0, if vslot then decodeV word.toNat else decodeA word.toNat none with
    | some op, .ok i =>
      let add (op : Op) (ph : Phase) (s : State) : State := s.modThread (tid core slot) (fun th =>
        { th with pend := [⟨i, op, ph, th.pc - 8, th.pc, word, vslot, false, th.sig⟩] })
      match op with
      | .access f va _ size data ord sc dest =>
        match s.addressAgain core slot th f va with
        | (.ok pa, s) => add (.access f va pa size data ord sc dest) .drain s
        | (.error e, s) => (add op .drain s).trapPending core slot (e.trap va)
      | .bar .. =>
        if h.barFault then (add op .waiting s).trapPending core slot { cause := 0x29 }
        else if s.hasArrived th.launchid n then add op .waiting s
        else s
      | .mbx .. => (add op .waiting s).modCore core (fun k => { k with mbxq := k.mbxq ++ [slot] })
      | _ => add op .waiting s
    | _, _ => s

end Sys2Proof.Machine
end

