-- ==== Sys2Proof/Machine/Fence.lean ====
section
/-! DEFINITION. Mailboxes and fault mailboxes (R394, R400, R423) and snuff regions: the fence (R413, R158, R201, R262, R265). -/

namespace Sys2Proof.Machine

/-! ## A core's mailbox (R394, R423) -/

/-- A record's CLASS. -/
def recordClass (r : Record) : Nat := fld (wordAt r.toList 0) 63 60
/-- The slots that wait in MBXWAIT, oldest first, each take the oldest record of a class in their mask (R423). -/
def State.serveMailbox (s : State) (core : Nat) : List Nat → State
  | [] => s
  | slot :: rest =>
    let s := match s.thread (tid core slot) with
      | some th =>
        match th.pend with
        | { op := .mbx d mask, phase := .waiting, .. } :: _ =>
          match (s.core core).mailbox.find? (fun r => mask.getLsbD (recordClass r)) with
          | some r =>
            let s := s.modCore core (fun k =>
              { k with mailbox := k.mailbox.erase r, mbxq := k.mbxq.filter (fun x => x != slot) })
            s.finish (tid core slot) (fun th => { th.setReg d (wordAt r.toList 0) false with msgbuf := r })
          | none => s
        | _ => s
      | none => s
    s.serveMailbox core rest
/-- MAILBOX_RECORD_ARRIVAL: a record joins a core's mailbox; a full one drops and counts a notice, and lets any other record
wait in the network (R394). -/
def execMailboxRecordArrival (id : Nat) (s : State) : Out :=
  match s.msg? id with
  | some (.record core r) =>
    let k := s.core core
    if k.mailbox.length < 32 then
      let s := (s.take id).modCore core (fun k => { k with mailbox := k.mailbox ++ [r] })
      .next (s.serveMailbox core (s.core core).mbxq)
    else if recordClass r = 3 then
      .next ((s.take id).modCore core (fun k => { k with lost := if k.lost = 0xFFFF#16 then k.lost else k.lost + 1 }))
    else .next s
  | _ => .refused .notPending

/-! ## Fault mailboxes (R400) -/

/-- The physical address of a word of a fault mailbox; none when the access faults. -/
def State.fmbxWord (s : State) (r : FmbxRec) (k : Kind) (va : Word) : Option Nat × State :=
  match if va.toNat % 8 = 0 then s.translateEngine r.issuer.core r.space r.sup k va else (.error { cause := 0x23 }, s) with
  | (.error _, s) => (none, s)
  | (.ok pa, s) => if (s.engineFault pa).isSome then (none, s) else (some pa, s)
/-- A word of a fault mailbox read: its address and value; none when the access faults. A word of a peer that is not ready
keeps the record waiting (R383, R384). -/
inductive MailRead where
  | value (pa : Nat) (v : Word)
  | fault
  | waits
  deriving DecidableEq, Repr
def State.fmbxLoad (s : State) (r : FmbxRec) (va : Word) : MailRead × State :=
  match s.fmbxWord r .load va with
  | (some pa, s) =>
    match s.readNow ⟨.ld, va, pa, 8, 0, .engine launchUnit, .sc, .system, false, false, r.sup, 0, 0, false, 0⟩ with
    | (.value v _ _, s) => (.value pa v, s)
    | (.parks _, s) => (.waits, s)
    | (.refused _, s) => (.fault, s)
  | (none, s) => (.fault, s)
/-- A store of the launch unit. -/
def State.unitStore (s : State) (sup : Bool) (f : Form) (va : Word) (pa : Nat) (v : Word) : State :=
  s.storeNow ⟨f, va, pa, 8, v, .engine launchUnit, .sc, .system, false, true, sup, 0, 0, false, 0⟩
/-- Words of a fault mailbox stored one after another, each with its form; the first fault stops them. -/
def State.fmbxStores (s : State) (r : FmbxRec) : List (Form × Word × Word) → Bool × State
  | [] => (true, s)
  | (f, va, v) :: rest =>
    match s.fmbxWord r .store va with
    | (none, s) => (false, s)
    | (some pa, s) => (s.unitStore r.sup f va pa v).fmbxStores r rest
/-- The stores of an offer: a full place counts the record lost; an empty one takes words 1 to 7 and then word 0, which fills
it; HEAD rises last (R400). -/
def fmbxOffer (r : FmbxRec) (place head lost : Word) (full : Bool) : List (Form × Word × Word) :=
  (if full then [(.st, r.addr + 16, lost + 1)]
  else (List.range 7).map (fun i => (Form.st, place + BitVec.ofNat 64 (8 * (i + 1)), wordAt r.record.toList (i + 1))) ++
    [(.stf, place, wordAt r.record.toList 0)]) ++ [(.st, r.addr, head + 1)]
/-- FMBX_RECORD_OFFER: the launch unit offers the oldest record to its mailbox: it reads CAP and HEAD, looks at the place's
full bit with a load's rights, and makes the stores of the offer; a bad CAP or a fault sends the record to the service core
instead (R400). -/
def execFmbxRecordOffer (s : State) : Out :=
  match s.fmbxQueue with
  | [] => .refused .notPending
  | r :: rest =>
    let s0 := s
    let s := { s with fmbxQueue := rest }
    let back (s : State) : Out := .next (s.sendRecord (svcBase + r.district) r.record)
    let offer (s : State) (place head lost : Word) (full : Bool) : Out :=
      match s.fmbxStores r (fmbxOffer r place head lost full) with
      | (true, s) => .next s
      | (false, s) => back s
    match s.fmbxLoad r (r.addr + 8) with
    | (.fault, s) => back s
    | (.waits, _) => .next s0
    | (.value _ c, s) =>
      match s.fmbxLoad r r.addr with
      | (.fault, s) => back s
      | (.waits, _) => .next s0
      | (.value _ head, s) =>
        let cap := c.toNat
        if cap = 0 ∨ 1024 < cap ∨ 1024 % cap ≠ 0 then back s
        else
          let spot := r.addr + 64 + BitVec.ofNat 64 (64 * (head.toNat % cap))
          match s.fmbxWord r .load spot with
          | (none, s) => back s
          | (some p, s) =>
            let s := s.wordError (wordOfAddr p) (place launchUnit 0)
            if !hasMeta p then back s
            else if (s.wordMeta (wordOfAddr p)).full then
              match s.fmbxLoad r (r.addr + 16) with
              | (.fault, s) => back s
              | (.waits, _) => .next s0
              | (.value _ lost, s) => offer s spot head lost true
            else offer s spot head 0 false

/-! ## Fences (R412, R413) -/

/-- Whether a core, or an address of a cluster, lies inside a region. -/
def Snuff.holdsCore (r : Snuff) (core : Nat) : Bool := !isSvc core && r.covers (core / 8)
def Snuff.holdsCell (r : Snuff) (pa : Nat) : Bool := ((clusterOfAddr pa).map r.covers).getD false
/-- Whether an issuer is inside: a thread of a core, an engine of a cluster, or the key-value port of a district that lies
inside whole. -/
def Snuff.holdsWho (r : Snuff) : Who → Bool
  | .thread n => r.holdsCore n.core
  | .engine n =>
    if n < 4096 then r.covers (n % 2048) else decide (n < 4224) && (List.range 16).all (fun k => r.covers (16 * (n - 4096) + k))
  | _ => false
/-- Whether a record comes from inside: a trap's, an asynchronous fault's or a flare's name, but not the trap that fences
(R402), or the core that a notice's message found without its target (R189, R260). -/
def Snuff.holdsRecord (r : Snuff) (x : Record) : Bool :=
  let w := wordAt x.toList 0
  if recordClass x = 3 then !bit (wordAt x.toList 2) 41 && r.holdsCore (fld (wordAt x.toList 2) 16 3)
  else !bit w 30 && !bit w 34 && (if bit w 35 then r.holdsWho (.engine (fld w 13 0)) else r.holdsCore (fld w 16 3))
/-- Whether a request acts on the thread its target names. -/
def SysOp.onThread : SysOp → Bool
  | .tset .. | .tresume .. | .tkill _ | .preempt _ | .savectx _ => true
  | _ => false
/-- What a fence does with a message in flight: `none` when it goes on. A request addressed into the region is answered with
cause 0x29; what comes from inside, or goes to a core inside, is dropped (step 1, step 4). A read that has passed its gateway
goes on, since others may have joined it (R207), and a reservation on its way to a core inside goes back (R261). -/
def Snuff.cut (r : Snuff) (f : Flight) : Option (State → State) :=
  let drop : Option (State → State) := some (fun s => s)
  match f.msg with
  | .access a | .flit a _ | .toBridge _ a _ | .hostStore a | .segWrite a | .vigctl a | .vigstat a =>
    if r.holdsWho a.who && decide (a.opened = 0) then drop
    else if r.holdsAddr a.pa then some (fun s => s.refuseAt a 0x29) else none
  | .fromBank .. => none
  | .put n tgt _ _ _ =>
    if r.holdsCore n.core then drop
    else if r.holdsCore (fld tgt 16 3) then some (fun s => s.bounced n { cause := 0x29, va := tgt }) else none
  | .copyKick c => if r.holdsCore c.name.core then drop else none
  | .matKick c => if r.holdsCore c.name.core then drop else none
  | .msend c =>
    if r.holdsCore c.name.core then drop
    else if r.covers c.target then some (fun s => s.bounced c.name { cause := 0x29, va := c.a }) else none
  | .sys n op tgt _ =>
    if r.holdsCore n.core then drop
    else if op.onThread && !bit tgt 40 && !bit tgt 41 && r.holdsCore (fld tgt 16 3) then
      some (fun s => s.send (path 8 n.core n.slot) (.reply n (.value 4 false)))
    else none
  | .launch l _ => if l.step.isNone && r.holdsCore l.issuer.core then drop else none
  | .spawn sender _ => if r.holdsCore sender then drop else none
  | .slotFree sender tgt slot =>
    if r.holdsCore tgt then drop
    else if r.holdsCore sender then
      some (fun s => (s.modCore tgt (fun k => { k with reserved := k.reserved.filter (fun p => p.1 != slot) })).slotFreed tgt slot)
    else none
  | .nred e => if r.holdsCore (keyOwner e.key).core then drop else none
  | .record core x => if r.holdsCore core || r.holdsRecord x then drop else none
  | .output o => if r.holdsCore o.name.core then drop else none
  | .stepEnd n _ => if r.holdsCore n.core then drop else none
  | .reply n _ | .relaxedReply n _ => if r.holdsCore n.core then drop else none
  | .refusedStore n _ _ _ _ _ _ => if r.holdsCore n.core then drop else none
  | .refusedUnit a _ _ => if r.holdsWho a.who then drop else none
  | .unitReply w _ => if r.holdsWho w then drop else none
/-- The messages cut, in order of sending. -/
def State.cutFlights (s : State) (r : Snuff) : List Flight → State
  | [] => s
  | f :: rest =>
    match r.cut f with
    | some g => (g (s.take f.id)).cutFlights r rest
    | none => s.cutFlights r rest
/-- The HOLDs of threads inside are discarded, their words staying empty (R158), and those on words of clusters inside, which
are reset. -/
def State.dropHolds (s : State) (r : Snuff) : State :=
  (s.marks.filter (fun p => (p.2.hold.map (fun w => r.holdsWho w || r.holdsCell p.1)).getD false)).foldl (fun s p =>
    let m := s.wordMeta p.1
    (s.setMeta p.1 { m with hold := none, holdRec := none, holdSeq := 0 }).afterHold p.1 m) s
/-- The waiters from outside on banks inside are released, each with cause 0x29 (R158). -/
def State.releaseWaiters (s : State) (r : Snuff) : State :=
  (s.waiters.filter (fun p => r.holdsAddr p.1)).foldl (fun s p =>
    let s := s.dropWaiters p.1 (fun _ => true)
    p.2.foldl (fun s x => s.refuseAt x.acc 0x29) s) s
/-- A waiter of an ended episode, outside the region, raises cause 0x29; a pre-empted one does when it is restored (R265). -/
def State.endWait (s : State) (n : TName) : State :=
  match s.named n with
  | none => s
  | some th =>
    if th.run = .held then
      s.modCore n.core (fun k => { k with
        held := k.held.map (fun p => if p.1 = n.slot then (p.1, { p.2 with barFault := true }) else p) })
    else s.trapPending n.core n.slot { cause := 0x29 }
/-- The episodes of launches that gather a thread inside end, every other waiter with cause 0x29 (R265). -/
def State.endEpisodes (s : State) (r : Snuff) : State :=
  s.launches.foldl (fun s p =>
    let w := p.2.word p.1
    let gone (e : Episode) : Bool :=
      (s.launchThreads w (fun c => barUnit e.scope c == e.place)).any (fun t => r.holdsCore (t.1 / 8))
    let ended := p.2.episodes.filter gone
    let s := s.modLaunch p.1 (fun l => { l with episodes := l.episodes.filter (fun e => !gone e) })
    let s := { s with groups := s.groups.filter (fun g => !ended.any (fun e => g.1 == p.2.groupId * 16 + e.scope)) }
    ((ended.flatMap (fun e => e.arrived)).filter (fun n => !r.holdsCore n.core)).foldl State.endWait s) s
/-- Step 3: each launch that holds a cluster inside gets a record naming the region, and loses the clusters; a step's rows
are all run again. -/
def State.withdrawLaunch (s : State) (region : Nat) (r : Snuff) (lid : Nat) : State :=
  match s.launch lid with
  | none => s
  | some l =>
    if !l.clusters.any (fun p => r.covers p.1) then s
    else
      let w := l.word lid
      let s := s.sendAsync l.issuer w (asyncFields s 3 0x29 0 (some launchUnit) l.issuer w l.pc (place region 0) 0 0)
      let s := s.markFault w
      let s := s.modLaunch lid (fun l => { l with
        clusters := l.clusters.filter (fun p => !r.covers p.1)
        pendingShape := l.pendingShape.filter (fun p => !r.covers p.1)
        shapeHeld := l.shapeHeld.filter (fun p => !r.covers p.1) })
      match l.step with
      | some (b, q) => s.modBind b (fun x =>
          if x.isOpen && x.stepseq.toNat == q then { x with flared := x.rows.map (fun y => y.slot) } else x)
      | none => s
/-- The spawn buffer of a core inside is discarded, each message reported to its launch (R262). -/
def State.discardSpawns (s : State) (core : Nat) : State :=
  (s.core core).spawnBuf.foldl (fun s p =>
    s.sendAsync p.2.origin p.2.launch
      (asyncFields s 4 0x29 0 none p.2.origin p.2.launch p.2.pc p.2.word 0 0)) s
/-- Messages that wait outside for a core inside are dropped, each reported to its launch (R262). -/
def State.dropSpawnsTo (s : State) (r : Snuff) : State :=
  (s.cores.filter (fun p => !r.holdsCore p.1)).foldl (fun s p =>
    (p.2.spawnBuf.filter (fun q => r.holdsCore q.2.target)).foldl (fun s q => s.reportCarried p.1 q.1 q.2 0x29) s) s
/-- Step 5, a core: module reset contents, its slots at new generations. -/
def State.resetCore (s : State) (core : Nat) : State :=
  let k := s.core core
  s.setCore core { Core.reset with slotGen := k.slotGen.map (fun g => g + 1) }
/-- Step 5, a cluster: as after module reset, but for its marks, its withholding, the stamp it last held, and its tiles' row
poison, every bit of which is set (R248). -/
def State.resetFenced (s : State) (cl : Nat) : State :=
  let k := s.cluster cl
  let s := s.setCluster cl { Cluster.reset with
    withheld := k.withheld, mcstamp := k.mcstamp
    mat := { Cluster.reset.mat with
      marked := k.mat.marked
      tiles := Vector.replicate 4 { TileState.reset with rowPoison := BitVec.allOnes 64 } }
    copy := { Cluster.reset.copy with marked := k.copy.marked } }
  (coresOf cl).foldl State.resetCore s
/-- Step 2, the key-value ports inside stop: a command in hand is dropped. -/
def State.stopPorts (s : State) (r : Snuff) : State :=
  { s with districts := s.districts.map (fun p => if r.holdsWho (.engine (4096 + p.1)) then (p.1, { p.2 with kv := none }) else p) }
/-- A fence of a region (R413). -/
def State.fence (s : State) (n : Nat) : State :=
  match s.snuffs.toList[n]? with
  | none => s
  | some r0 =>
    let r := { r0 with fenced := true }
    let s := { s with snuffs := vecOf 16 (fun i => if i = n then r else s.snuffs.toList.getD i r) }
    let s := s.cutFlights r s.flight
    let s := { s with fmbxQueue := s.fmbxQueue.filter (fun x => !r.holdsRecord x.record) }
    let s := s.endEpisodes r
    let s := ((s.cores.filter (fun p => r.holdsCore p.1)).foldl (fun s p => s.discardSpawns p.1) s).dropSpawnsTo r
    let s := (s.dropAllWaiters (fun x => r.holdsWho x.acc.who)).stopPorts r
    let s := (s.dropHolds r).releaseWaiters r
    let s := { s with threads := s.threads.filter (fun p => !r.holdsCore (p.1 / 8)) }
    let s := (s.launches.map (fun p => p.1)).foldl (fun s lid => s.withdrawLaunch n r lid) s
    let s := { s with
      mem := s.mem.filter (fun p => !r.holdsCell p.1)
      marks := s.marks.filter (fun p => !r.holdsCell p.1) }
    let s := ((List.range 2048).filter r.covers).foldl State.resetFenced s
    let s := s.launches.foldl (fun s p => (s.settleBars (p.2.word p.1)).settlePops (p.2.word p.1)) s
    s.removeUnmeetable

end Sys2Proof.Machine
end

