-- ==== Sys2Proof/Machine/System.lean ====
section
/-! DEFINITION. The system instructions (R416 to R431): each as it issues, and what its request does when it arrives at the
target's core or at the hub (R417). -/

namespace Sys2Proof.Machine

/-! ## Names (R417) -/

/-- What a name names. -/
inductive SysName where
  | thread (n : TName)
  | engine (n : Nat)
  deriving DecidableEq, Repr
/-- A name operand; none when a bit outside its form is set. -/
def sysName (a : Word) : Option SysName :=
  let gen := BitVec.ofNat 12 (fld a 28 17)
  if bit a 40 then (if fld a 63 41 = 0 ∧ fld a 39 14 = 0 then some (.engine (fld a 13 0)) else none)
  else if bit a 41 then
    (if fld a 63 42 = 0 ∧ fld a 40 29 = 0 ∧ fld a 9 3 = 0 then some (.thread ⟨svcBase + fld a 16 10, fld a 2 0, gen⟩) else none)
  else if fld a 63 29 = 0 then some (.thread ⟨fld a 16 3, fld a 2 0, gen⟩)
  else none

/-! ## Issuing (R417) -/

/-- An operand outside its limits: fn, value, and 0 for ga or 1 for gb (R396). -/
def sysTrap (fn : Nat) (value : Word) (which : Nat) : Trap :=
  { cause := 0x17, detail := fn, va := value, vb := BitVec.ofNat 64 which }
/-- A system instruction: guard, presence, poison, privilege, then the operand limits and what it does. -/
def sysIssue (fn : Nat) (sup : Bool) (srcs : List Reg) (g : PReg) (body : State → State) (s : State) : State :=
  guarded g (needs srcs (clean (srcs.map (fun r => (r, 7))) (if sup then supervisor fn body else body))) s
/-- Whether a request makes memory accesses of its issuer, which then has no other outstanding (R20, R430, R431). -/
def SysOp.accesses : SysOp → Bool
  | .preempt _ | .savectx _ | .restctx _ => true
  | _ => false
/-- A request: its operands' limits, then the drain and the wait for the answer. -/
def sysRequest (fn : Nat) (srcs : List Reg) (g : PReg) (d : Option Reg) (bad : List Word → Option Nat)
    (op : List Word → SysOp × Word) (s : State) : State :=
  sysIssue fn true srcs g (fun s =>
    let v := srcs.map s.iss.snap.reg
    match bad v with
    | some i => trap (sysTrap fn (wordAt v i) i) s
    | none =>
      let (o, t) := op v
      (if o.accesses then notBusy (detach (.sys o t d) .drain) else detach (.sys o t d) .drain) s) s
/-- The limits of a name operand; `eng` says whether an engine may be named. -/
def badName (eng : Bool) (a : Word) : Bool :=
  match sysName a with
  | some (.engine _) => !eng
  | some (.thread _) => false
  | none => true
/-- The first of two limits that is broken. -/
def firstBad (p q : Bool) : Option Nat := if p then some 0 else if q then some 1 else none

/-- TSTATE (R419). -/
def execTstate (d a b : Reg) (g : PReg) (s : State) : Out :=
  .next (sysRequest 0x00 [a, b] g (some d) (fun v => firstBad (badName true (wordAt v 0)) (decide (3 < (wordAt v 1).toNat)))
    (fun v => (.tstate (wordAt v 1).toNat, wordAt v 0)) s)
/-- TSET, its operation in b[63:56] (R420). -/
def tset (d a b : Reg) (g : PReg) (s : State) : State :=
  sysRequest 0x01 [a, b] g (some d) (fun v => firstBad (badName false (wordAt v 0)) (!within 1 3 (fld (wordAt v 1) 63 56)))
    (fun v => (.tset (fld (wordAt v 1) 63 56) (place (fld (wordAt v 1) 55 3) 3), wordAt v 0)) s
/-- TSET 1, STOP (R420). -/
def execTsetStop (d a b : Reg) (g : PReg) (s : State) : Out := .next (tset d a b g s)
/-- TSET 2, RUN (R420). -/
def execTsetRun (d a b : Reg) (g : PReg) (s : State) : Out := .next (tset d a b g s)
/-- TSET 3, SETPC (R420). -/
def execTsetSetpc (d a b : Reg) (g : PReg) (s : State) : Out := .next (tset d a b g s)
/-- TRESUME, its action in b[1:0] and its target in b[55:3] (R421). -/
def tresume (d a b : Reg) (g : PReg) (s : State) : State :=
  sysRequest 0x02 [a, b] g (some d)
    (fun v => firstBad (badName true (wordAt v 0)) (fld (wordAt v 1) 63 56 != 0 || bit (wordAt v 1) 2))
    (fun v => (.tresume (fld (wordAt v 1) 1 0) (place (fld (wordAt v 1) 55 3) 3), wordAt v 0)) s
/-- TRESUME 00, retry (R421). -/
def execTresumeRetry (d a b : Reg) (g : PReg) (s : State) : Out := .next (tresume d a b g s)
/-- TRESUME 01, skip (R421). -/
def execTresumeSkip (d a b : Reg) (g : PReg) (s : State) : Out := .next (tresume d a b g s)
/-- TRESUME 10, go (R421). -/
def execTresumeGo (d a b : Reg) (g : PReg) (s : State) : Out := .next (tresume d a b g s)
/-- TRESUME 11, stop (R421). -/
def execTresumeStop (d a b : Reg) (g : PReg) (s : State) : Out := .next (tresume d a b g s)
/-- TKILL; b[0] kills the whole launch (R422). -/
def tkill (d a b : Reg) (g : PReg) (s : State) : State :=
  sysRequest 0x03 [a, b] g (some d) (fun v => firstBad (badName false (wordAt v 0)) (fld (wordAt v 1) 63 1 != 0))
    (fun v => (.tkill (bit (wordAt v 1) 0), wordAt v 0)) s
/-- TKILL of a thread (R422). -/
def execTkill (d a b : Reg) (g : PReg) (s : State) : Out := .next (tkill d a b g s)
/-- TKILL of a launch (R422). -/
def execTkillLaunch (d a b : Reg) (g : PReg) (s : State) : Out := .next (tkill d a b g s)
/-- FLTRD reads the message buffer, at once (R423). -/
def execFltrd (d a : Reg) (g : PReg) (s : State) : Out :=
  .next (sysIssue 0x04 false [a] g (fun s =>
    let v := s.iss.snap.reg a
    if fld v 63 3 ≠ 0 then trap (sysTrap 0x04 v 0) s
    else writeReg d (s.iss.snap.msgbuf.toList.getD v.toNat 0) false s) s)
/-- SNUFF's rectangle within its limits (R424). -/
def badRect (b : Word) : Bool :=
  fld b 63 32 != 0 || bit b 29 || fld b 23 22 != 0 || fld b 15 13 != 0 || fld b 7 6 != 0
    || decide (fld b 21 16 < fld b 5 0) || decide (fld b 28 24 < fld b 12 8)
/-- SNUFF, its region in a[3:0] and its operation in a[9:8] (R424). -/
def snuff (d a b : Reg) (g : PReg) (s : State) : State :=
  sysRequest 0x05 [a, b] g (some d)
    (fun v => firstBad (fld (wordAt v 0) 63 10 != 0 || fld (wordAt v 0) 7 4 != 0) (badRect (wordAt v 1)))
    (fun v => (.snuff (fld (wordAt v 0) 3 0) (fld (wordAt v 0) 9 8) (wordAt v 1), 0)) s
/-- SNUFF 00, define (R424). -/
def execSnuffDefine (d a b : Reg) (g : PReg) (s : State) : Out := .next (snuff d a b g s)
/-- SNUFF 01, fence (R413, R424). -/
def execSnuffFence (d a b : Reg) (g : PReg) (s : State) : Out := .next (snuff d a b g s)
/-- SNUFF 10, release (R424). -/
def execSnuffRelease (d a b : Reg) (g : PReg) (s : State) : Out := .next (snuff d a b g s)
/-- SNUFF 11, read (R424). -/
def execSnuffRead (d a b : Reg) (g : PReg) (s : State) : Out := .next (snuff d a b g s)
/-- ERRLOG (R425). -/
def execErrlog (d a : Reg) (g : PReg) (s : State) : Out :=
  .next (sysRequest 0x06 [a] g (some d) (fun _ => none) (fun v => (.errlog (wordAt v 0), 0)) s)
/-- The page size of TLBFILL's SIZE, in bits. -/
def sizeBits : Nat → Option Nat
  | 0 => some 16 | 1 => some 21 | 2 => some 30 | _ => none
/-- TLBFILL fills the issuing cluster's second-level TLB, and with L1EN the issuing core's first-level TLB for a slot
(R426). -/
def execTlbfill (a b : Reg) (g : PReg) (s : State) : Out :=
  .next (sysIssue 0x07 true [a, b] g (fun s =>
    let va := s.iss.snap.reg a
    let vb := s.iss.snap.reg b
    match sizeBits (fld vb 53 52) with
    | none => trap (sysTrap 0x07 vb 1) s
    | some lg =>
      let page := fld va 55 16 * 2 ^ 16
      if page % 2 ^ lg ≠ 0 then trap (sysTrap 0x07 va 0) s
      else if fld vb 63 62 ≠ 2 ∨ fld vb 51 8 * 256 % 2 ^ lg ≠ 0 then trap (sysTrap 0x07 vb 1) s
      else
        let asn := BitVec.ofNat 16 (fld va 15 0)
        let leaf := setFld (setFld vb 52 7 0) 0 8 0
        let s := s.modCluster (clusterOf s.iss.core) (fun k =>
          { k with tlb := tlbFill 2048 s.fresh k.tlb ⟨asn, none, page / 2 ^ lg, lg, leaf⟩ })
        (if bit vb 58 then s.modCore s.iss.core (fun k =>
            { k with tlb := tlbFill 128 s.fresh k.tlb ⟨asn, some (fld vb 57 55), page / 2 ^ lg, lg, leaf⟩ })
          else s).bump) s)
/-- TLBINV, its kind in b[1:0] and reach in b[3:2] (R427). -/
def tlbinv (a b : Reg) (g : PReg) (s : State) : State :=
  sysRequest 0x08 [a, b] g none
    (fun v =>
      let va := wordAt v 0
      let vb := wordAt v 1
      let kind := fld vb 1 0
      firstBad (match kind with
        | 0 => fld va 63 56 != 0
        | 1 => fld va 63 16 != 0
        | 2 => va != 0
        | _ => false) (kind == 3 || fld vb 63 4 != 0))
    (fun v => (.tlbinv (fld (wordAt v 1) 1 0) (fld (wordAt v 1) 3 2) (wordAt v 0), 0)) s
/-- TLBINV 00, one page (R427). -/
def execTlbinvPage (a b : Reg) (g : PReg) (s : State) : Out := .next (tlbinv a b g s)
/-- TLBINV 01, an ASN (R427). -/
def execTlbinvAsn (a b : Reg) (g : PReg) (s : State) : Out := .next (tlbinv a b g s)
/-- TLBINV 10, all (R427). -/
def execTlbinvAll (a b : Reg) (g : PReg) (s : State) : Out := .next (tlbinv a b g s)
/-- MBXWAIT (R423): a mask of 0 writes 0 at once. -/
def execMbxwait (d a : Reg) (g : PReg) (s : State) : Out :=
  .next (sysIssue 0x09 false [a] g (fun s =>
    let v := s.iss.snap.reg a
    if fld v 63 8 ≠ 0 then trap (sysTrap 0x09 v 0) s
    else if v = 0 then writeReg d 0 false s
    else detach (.mbx d (BitVec.ofNat 8 v.toNat)) .waiting s) s)
/-- A save area's alignment (R429). -/
def badArea (v : Word) : Bool := decide (v.toNat % 256 ≠ 0)
/-- PREEMPT (R430). -/
def execPreempt (d a b : Reg) (g : PReg) (s : State) : Out :=
  .next (sysRequest 0x0A [a, b] g (some d) (fun v => firstBad (badName false (wordAt v 0)) (badArea (wordAt v 1)))
    (fun v => (.preempt (wordAt v 1), wordAt v 0)) s)
/-- SAVECTX (R430). -/
def execSavectx (d a b : Reg) (g : PReg) (s : State) : Out :=
  .next (sysRequest 0x0B [a, b] g (some d) (fun v => firstBad (badName false (wordAt v 0)) (badArea (wordAt v 1)))
    (fun v => (.savectx (wordAt v 1), wordAt v 0)) s)
/-- RESTCTX (R431). -/
def execRestctx (d a : Reg) (g : PReg) (s : State) : Out :=
  .next (sysRequest 0x0C [a] g (some d) (fun v => firstBad (badArea (wordAt v 0)) false)
    (fun v => (.restctx (wordAt v 0), 0)) s)
/-- ENBUD (R428). -/
def execEnbud (a b : Reg) (g : PReg) (s : State) : Out :=
  .next (sysRequest 0x0D [a, b] g none
    (fun v => firstBad (fld (wordAt v 0) 63 18 != 0 || fld (wordAt v 0) 15 14 != 0) (fld (wordAt v 1) 63 16 != 0))
    (fun v => (.enbud (fld (wordAt v 0) 17 16) (fld (wordAt v 0) 13 0) (refillWrite (fld (wordAt v 1) 15 0)), 0)) s)

/-! ## A thread's state as TSTATE reports it (R418, R419) -/

/-- WAIT and the wait object of an issued instruction: a word address, a tag or tile mask, a barrier count, or 0 (R419). -/
def waitOf (p : Pending) : Nat × Word :=
  match p.phase, p.op with
  | .drain, _ => (14, 0)
  | .parked, .access _ va _ _ _ _ _ _ => (2, place (va.toNat / 8) 3)
  | _, .access _ va _ _ _ _ _ _ | _, .rrec _ va _ => (1, place (va.toNat / 8) 3)
  | _, .vector _ _ _ (e :: _) _ => (1, place (e.va.toNat / 8) 3)
  | _, .vector _ _ _ [] _ | _, .unit _ => (1, 0)
  | _, .put _ _ _ _ => (13, 0)
  | _, .fence _ | _, .nred _ _ _ _ _ => (14, 0)
  | _, .copy _ => (6, 0)
  | _, .tags _ mask _ => (4, mask)
  | _, .spawn _ | _, .mig _ | _, .launch _ _ => (8, 0)
  | _, .bar _ n => (5, place n.toNat 0)
  | _, .wlpush _ _ | _, .wlpop _ => (15, 0)
  | _, .emit _ | _, .stepend | _, .sys _ _ _ => (12, 0)
  | _, .mbx _ _ => (11, 0)
  | _, .matrix c => (7, BitVec.twoPow 64 c.tile.val)
  | _, .mwait mask => (7, place mask.toNat 0)
/-- STATE, WAIT, the wait object, and the cause of a trap. -/
def Thread.stateOf (th : Thread) : Nat × Nat × Word × Nat :=
  match th.run with
  | .run =>
    match th.pend with
    | [] => (0, 0, 0, 0)
    | p :: _ => (1, (waitOf p).1, (waitOf p).2, 0)
  | .detached w o => (1, w, o, 0)
  | .trapped c _ => (2, 0, 0, c)
  | .stopped => (3, 0, 0, 0)
  | .held => (4, 0, 0, 0)
/-- Word `b` of a thread's state. -/
def Thread.stateWord (th : Thread) (b : Nat) : Word :=
  let (st, wait, obj, cause) := th.stateOf
  match b with
  | 0 => place st 60 ||| place wait 56 ||| place (b2n th.priv) 55 ||| place (b2n th.stopq) 54 ||| place th.grant.toNat 47
      ||| place cause 39
  | 1 => th.pc
  | 2 => obj
  | _ => th.launchid
/-- Whether an engine holds a command for service. -/
def State.engineHeld (s : State) (n : Nat) : Bool :=
  if n < 2048 then ((s.cluster n).copy.run.map (fun r => r.held.isSome)).getD false
  else if n < 4096 then ((s.cluster (n - 2048)).mat.run.map (fun r => r.held.isSome)).getD false
  else s.launches.any (fun p => p.2.shapeHeld.any (fun c => decide (dispatcher c.1 = n)))

/-! ## What requests do (R419 to R431) -/

/-- A relaxed load that service has answered issues again as a new instance, translated and guarded as at its first issue
(R162, R421; log entry 80). -/
def State.resendRelaxed (s : State) (core slot : Nat) : State :=
  match s.thread (tid core slot) with
  | none => s
  | some th =>
    match th.relaxed with
    | some r =>
      if !r.faulted then s
      else
        let n := nameAt core slot th
        let s := s.setThread (tid core slot) { th with relaxed := some { r with faulted := false, joined := none } }
        match s.addressAgain core slot th .ld r.va with
        | (.ok pa, s) =>
          (s.modThread (tid core slot) (fun th => { th with relaxed := th.relaxed.map (fun r => { r with pa := pa }) })).sendAccess
            n ⟨.ld, r.va, pa, r.size, 0, .thread n, .rx, r.scope, false, false, th.priv, th.launchid, 0, false, r.pc⟩
        | (.error f, s) => s.send (path 8 core slot) (.relaxedReply n (.fault f.cause f.detail r.va (BitVec.ofNat 64 f.pa) 0))
    | none => s
/-- TSET (R420): the status and the state. -/
def State.doTset (s : State) (core slot : Nat) (th : Thread) (op : Nat) (pc : Word) : Nat × State :=
  let t := tid core slot
  match op, th.run with
  | _, .held => (2, s)
  | 1, .run => (0, s.setThread t (if th.pend.isEmpty then { th with run := .stopped } else { th with stopq := true }))
  | 1, .stopped => (0, s)
  | 1, _ => (0, s.setThread t { th with stopq := true })
  | 2, .stopped => (0, (s.setThread t { th.reissue with run := .run, stopq := false }).resendRelaxed core slot)
  | 2, _ => (0, s.setThread t { th with stopq := false })
  | _, .stopped => (0, s.setThread t (th.leaveFor pc))
  | _, _ => (2, s)
/-- TRESUME of a thread (R421). -/
def State.doTresume (s : State) (core slot : Nat) (th : Thread) (action : Nat) (pc : Word) : Nat × State :=
  match th.run with
  | .trapped _ took =>
    let s := s.setThread (tid core slot) (th.resume took action pc)
    (0, if action = 0 then s.resendRelaxed core slot else s)
  | _ => (2, s)
/-- TRESUME of an engine: resume or abort (R165, R254, R421). -/
def State.doResumeEngine (s : State) (n action : Nat) : Nat × State :=
  if 1 < action ∨ !s.engineHeld n then (2, s)
  else
    let abort := decide (action = 1)
    if n < 2048 then (0, s.resumeCopy n abort)
    else if n < 4096 then (0, s.resumeMat (n - 2048) abort)
    else
      (0, s.launches.foldl (fun s p =>
        match p.2.shapeHeld.find? (fun c => decide (dispatcher c.1 = n)) with
        | none => s
        | some (cl, cause) =>
          if abort then
            let w := p.2.word p.1
            let done := ((p.2.pendingShape.find? (fun x => x.1 == cl)).map (fun x => x.2)).getD 0
            let s := s.sendAsync p.2.issuer w (asyncFields s 3 cause 0 (some n) p.2.issuer w p.2.pc p.2.slotw
              (BitVec.ofNat 64 done) (recShrec p.2.words + BitVec.ofNat 64 done))
            s.killLaunch p.1
          else s.modLaunch p.1 (fun l => { l with shapeHeld := l.shapeHeld.filter (fun c => dispatcher c.1 != n) })) s)
/-- TKILL (R422). -/
def State.doTkill (s : State) (core slot : Nat) (th : Thread) (whole : Bool) : State :=
  if whole && (s.launchOf th.launchid).isSome then s.killLaunch (lidOf th.launchid) else s.killThread core slot
/-- A region's entry as SNUFF read gives it (R424). -/
def Snuff.word (r : Snuff) : Word :=
  place r.x0 0 ||| place r.y0 8 ||| place r.x1 16 ||| place r.y1 24 ||| place (b2n r.en) 30 ||| place (b2n r.auto) 31
    ||| place (b2n r.fenced) 63
/-- Whether two rectangles overlap. -/
def Snuff.overlaps (p q : Snuff) : Bool :=
  decide (p.x0 ≤ q.x1) && decide (q.x0 ≤ p.x1) && decide (p.y0 ≤ q.y1) && decide (q.y0 ≤ p.y1)
/-- SNUFF (R424): the value and the state. -/
def State.doSnuff (s : State) (n op : Nat) (b : Word) : Word × State :=
  let r := s.snuffs.toList.getD n ⟨0, 0, 0, 0, false, false, false⟩
  let put (x : Snuff) : State := { s with snuffs := vecOf 16 (fun i => if i = n then x else s.snuffs.toList.getD i x) }
  match op with
  | 0 =>
    let x : Snuff := ⟨fld b 5 0, fld b 12 8, fld b 21 16, fld b 28 24, bit b 30, bit b 31, false⟩
    let clash := x.en && (List.range 16).any (fun i =>
      decide (i ≠ n) && ((s.snuffs.toList[i]?.map (fun q => q.en && q.overlaps x)).getD false))
    if r.fenced || clash then (2, s) else (0, put x)
  | 1 => if !r.en || r.fenced then (2, s) else (0, s.fence n)
  | 2 => if r.fenced then (0, put { r with fenced := false }) else (2, s)
  | _ => (r.word, s)
/-- ERRLOG (R425). -/
def State.errlogWord (s : State) (a : Word) : Word :=
  let n := fld a 63 2
  let w := fld a 1 0
  if n = 2 ^ 62 - 1 then
    (if w = 0 then BitVec.ofNat 64 s.logSeq else if w = 1 then BitVec.ofNat 64 s.logLost else 0)
  else if n < s.logSeq ∧ s.logSeq ≤ n + 4096 then ((mget s.log (n % 4096)).map (fun e => e.toList.getD w 0)).getD 0
  else 0
/-- Whether a core's cluster is in a reach of an issuer's: own cluster, district, die, device (R427). -/
def inReach (reach issuer core : Nat) : Bool :=
  match reach with
  | 0 => clusterOf core == clusterOf issuer
  | 1 => districtOf core == districtOf issuer
  | 2 => dieOf core == dieOf issuer
  | _ => true
/-- Whether TLBINV removes an entry. -/
def TlbEntry.gone (kind : Nat) (a : Word) (e : TlbEntry) : Bool :=
  match kind with
  | 0 => decide (e.asn.toNat = fld a 15 0) && decide (e.page = fld a 55 16 * 2 ^ 16 / 2 ^ e.lg)
  | 1 => decide (e.asn.toNat = fld a 15 0)
  | _ => true
/-- TLBINV: every TLB in reach loses the entries (R427). -/
def State.doTlbinv (s : State) (issuer kind reach : Nat) (a : Word) : State :=
  let near (cl : Nat) : Bool :=
    inReach reach issuer (if cl < 2048 then cl * 8 else svcBase + (cl - 2048))
  let s : State := { s with cores := s.cores.map (fun p =>
    (p.1, if inReach reach issuer p.1 then { p.2 with tlb := p.2.tlb.filter (fun e => !e.gone kind a) } else p.2)) }
  { s with clusters := s.clusters.map (fun p =>
      (p.1, if near p.1 then { p.2 with tlb := p.2.tlb.filter (fun e => !e.gone kind a) } else p.2)) }
/-- The cores of ENBUD's reach (R428). -/
def enbudCores (reach core : Nat) : List Nat :=
  match reach with
  | 0 => [core]
  | 1 => coresOf (clusterOf core)
  | 2 => (List.range 128).map (fun i => core / 128 * 128 + i)
  | _ => List.range 16384

/-! ## SYSTEM_REQUEST_ARRIVAL (R417, R260) -/

/-- A request's answer. -/
def State.answerSys (s : State) (n : TName) (r : Reply) : State := s.send (path 8 n.core n.slot) (.reply n r)
/-- A request to a thread: a stale one gives status 1 and a notice of kind 2; TSTATE of a stale name gives NONE and no
notice (R260, R417, R419). -/
def State.toThread (s : State) (sender n : TName) (stale : Word) (note : Bool)
    (f : Thread → Word × State) : State :=
  match s.named n with
  | some th => (f th).2.answerSys sender (.value (f th).1 false)
  | none => (if note then s.notice sender.core 2 n.word 0 else s).answerSys sender (.value stale false)
/-- A status as a value. -/
def stat (p : Nat × State) : Word × State := (place p.1 0, p.2)
/-- Whether a target's state lets PREEMPT, or SAVECTX, act on it (R430). -/
def ctxAccepts (preempt : Bool) (th : Thread) : Bool :=
  match th.run with
  | .run | .detached _ _ => preempt
  | .stopped => !preempt
  | _ => false
/-- The message of a request, marked begun. -/
def State.beginSys (s : State) (id : Nat) : State :=
  { s with flight := s.flight.map (fun f => match f.msg with
      | .sys n op t _ => if f.id = id then { f with msg := .sys n op t true } else f
      | _ => f) }
/-- PREEMPT or SAVECTX at its target: refused in a state it does not act on, waiting while the target has something
outstanding, which PREEMPT keeps from issuing more, and else saving (R430). -/
def State.doSave (s : State) (id : Nat) (sender n : TName) (area : Word) (preempt : Bool) : State :=
  match s.named n with
  | none => ((s.take id).notice sender.core 2 n.word 0).answerSys sender (.value 1 false)
  | some th =>
    let t := tid n.core n.slot
    if !ctxAccepts preempt th then
      ((s.take id).setThread t { th with hold := false }).answerSys sender (.value 2 false)
    else if !s.quiet n.core n.slot th then
      if preempt then s.setThread t { th with hold := true } else s
    else
      let (st, s) := (s.take id).saveContext sender area n.core n.slot { th with hold := false } preempt
      s.answerSys sender (.value (place st 0) false)
/-- RESTCTX: it reads the whole area before it acts, and waits for lanes, or for a peer's word, with nothing done. A poisoned
word that no register takes raises the issuer's poison message (R431; log entry 92). -/
def State.doRestctx (s : State) (id : Nat) (sender : TName) (area : Word) : State :=
  match s.loadCtx sender area 1152 with
  | (none, _) => s
  | (some (.error cause), s) => (s.take id).answerSys sender (.value (place (3 + cause * 256) 0) false)
  | (some (.ok w), s1) =>
    let v (i : Nat) := (w.getD i (0, false)).1
    if (List.range 128).any (fun i => ctxControl i && (w.getD i (0, false)).2) then
      let ga := (((s1.named sender).bind (fun th => th.pend.head?)).map (fun p => bits p.word.toNat 15 5)).getD 0
      (s1.take id).answerSys sender (.fault 0x10 (ga + 32 * 7) 0 0 0)
    else if fld (v 0) 63 56 ≠ 1 then (s1.take id).answerSys sender (.fault 0x17 0x0C area 0 0)
    else
      match s1.heldNamed (v 0) with
      | none => ((s1.take id).notice sender.core 2 (place (fld (v 0) 28 0) 0) 0).answerSys sender (.value 1 false)
      | some (core, slot, old) =>
        if s1.freeLanes (clusterOf core) < fld (v 5) 14 8 then s
        else ((s1.take id).restore core slot old w).answerSys sender (.value 0 false)
/-- SYSTEM_REQUEST_ARRIVAL: a request reaches its target's core or the hub and is answered; one that must wait stays
(R417 to R431). -/
def execSystemRequestArrival (id : Nat) (s : State) : Out :=
  match s.msg? id with
  | some (.sys sender op target begun) =>
    let n : TName := match sysName target with
      | some (.thread n) => n
      | _ => ⟨0, 7, 0⟩
    let eng : Option Nat := match sysName target with
      | some (.engine e) => some e
      | _ => none
    let s1 := s.take id
    match op with
    | .tstate b =>
      match eng with
      | some e => .next (s1.answerSys sender (.value (if b = 0 ∧ s.engineHeld e then place 2 60 else 0) false))
      | none => .next (s1.toThread sender n (if b = 0 then place 5 60 else 0) false (fun th => (th.stateWord b, s1)))
    | .tset o pc => .next (s1.toThread sender n 1 true (fun th => stat (s1.doTset n.core n.slot th o pc)))
    | .tresume a pc =>
      match eng with
      | some e =>
        let (st, s) := s1.doResumeEngine e a
        .next (s.answerSys sender (.value (place st 0) false))
      | none => .next (s1.toThread sender n 1 true (fun th => stat (s1.doTresume n.core n.slot th a pc)))
    | .tkill whole => .next (s1.toThread sender n 1 true (fun th => (0, s1.doTkill n.core n.slot th whole)))
    | .snuff r o b =>
      let (v, s) := s1.doSnuff r o b
      .next (s.answerSys sender (.value v false))
    | .errlog a => .next (s1.answerSys sender (.value (s1.errlogWord a) false))
    | .tlbinv kind reach a =>
      if s.cores.any (fun p => inReach reach sender.core p.1 && p.2.walks.any (fun w => decide (w.id < id))) then .next s
      else .next ((s1.doTlbinv sender.core kind reach a).answerSys sender .done)
    | .preempt area => .next (s.doSave id sender n area true)
    | .savectx area => .next (s.doSave id sender n area false)
    | .restctx area => .next (s.doRestctx id sender area)
    | .enbud reach core refill =>
      let l := enbudCores reach core
      if begun then
        (if l.all (fun c => (s.core c).newRefill.isNone) then .next (s1.answerSys sender .done) else .next s)
      else .next ((l.foldl (fun s c => s.modCore c (fun k => { k with newRefill := some refill })) s).beginSys id)
  | _ => .refused .notPending

/-! ## The fence of a poison trap (R402, R432) -/

/-- The SNUFF releases of a region that are in flight complete. -/
def State.finishReleases (s : State) (n : Nat) : State :=
  s.flight.foldl (fun s f => match f.msg with
    | .sys sender (.snuff r 2 b) _ _ =>
      if r = n then ((s.take f.id).doSnuff r 2 b).2.answerSys sender (.value (s.doSnuff r 2 b).1 false) else s
    | _ => s) s
/-- AUTO_FENCE: the region of a poison trap is fenced in the trap's cycle, after any release of it that is in flight (R402,
R432). -/
def execAutoFence (n : Nat) (s : State) : Out :=
  match s.snuffs.toList[n]? with
  | some _ =>
    let s := s.finishReleases n
    match s.snuffs.toList[n]? with
    | some r => if r.en && r.auto && !r.fenced then .next (s.fence n) else .refused .notPending
    | none => .refused .notPending
  | none => .fault .noSuchUnit

end Sys2Proof.Machine
end

