-- ==== Sys2Proof/Machine/Pump.lean ====
section
/-! DEFINITION. What an issued instruction that a thread waits on does at the thread's turn (R18, R174): it drains, leaves the
core, or looks at its condition again. -/

namespace Sys2Proof.Machine

/-- The scope at which an instruction drains before it acts, when it does (R174). -/
def Op.drains : Op → Option Scope
  | .access _ _ _ _ _ _ sc _ => some sc
  | .vector .. | .put .. | .copy _ | .spawn _ | .mig _ | .launch .. | .wlpush .. | .sys .. | .matrix _ => some .system
  | .fence sc | .bar sc _ | .nred sc _ _ _ _ => some sc
  | .rrec .. | .emit _ | .stepend => some .device
  | .unit _ | .tags .. | .wlpop _ | .mbx .. | .mwait _ => none

/-- The head instruction's phase set, and the head's operation replaced. -/
def State.setPhase (s : State) (t : Nat) (ph : Phase) : State := s.modThread t (fun th => th.modHead (fun p => { p with phase := ph }))
def State.setOp (s : State) (t : Nat) (op : Op) (ph : Phase) : State :=
  s.modThread t (fun th => th.modHead (fun p => { p with op := op, phase := ph }))

/-! ## Vector accesses (R135 to R138) -/

/-- The element to send next, put first: which is free, but that elements of one address go in ascending order (R136,
R137). -/
def nextElem (fresh : Nat) (todo : List Elem) : List Elem :=
  match todo[Config.elementOrder fresh % todo.length]? with
  | none => todo
  | some e =>
    match todo.find? (fun x => x.pa == e.pa) with
    | some x => x :: todo.erase x
    | none => todo
/-- A vector access sends its next element. -/
def State.sendElem (s : State) (t : Nat) (n : TName) (th : Thread) (store : Bool) (v : VReg) (ty : Ty) (todo done : List Elem) :
    State :=
  let todo := nextElem s.fresh todo
  match todo with
  | [] => s
  | e :: _ =>
    (s.bump.setOp t (.vector store v ty todo done) .sent).sendAccess n
      ⟨if store then .st else .ld, e.va, e.pa, ty.store / 8, e.data, .thread n, .sc, .system, false, false, th.priv,
        th.launchid, 0, store && e.poison, (th.pend.head?.map (fun p => p.pc)).getD 0⟩
/-- A load's elements written once all have arrived (R138). -/
def gathered (v : VReg) (ty : Ty) (done : List Elem) (th : Thread) : Thread :=
  let elem (i : Nat) : ElemRes :=
    match done.find? (fun e => e.idx == i) with
    | some e => (e.data.toNat, e.poison, 0)
    | none => (0, false, 0)
  th.vset v (mapElems ty done.length (th.vget v) elem).1

/-! ## LAUNCH's record (R271) -/

/-- LAUNCH sends the load of its record's next word, or, when it has all 16, the record to the launch unit (R271). -/
def State.readRecord (s : State) (core slot : Nat) (th : Thread) (p : Pending) (addr : Word) (words : List Word) : State :=
  let t := tid core slot
  let n := nameAt core slot th
  if 16 ≤ words.length then
    (s.setPhase t .sent).send (path 11 0 t)
      (.launch ⟨words, th.space, 0, th.priv, n, p.pc, place p.word.toNat 0, th.launchid, none⟩ addr)
  else
    let va := addr + BitVec.ofNat 64 (8 * words.length)
    match s.addressAgain core slot th .ld va with
    | (.error f, s) => s.trapPending core slot (f.trap va)
    | (.ok pa, s) =>
      (s.setPhase t .sent).sendAccess n
        ⟨.ld, va, pa, 8, 0, .thread n, .sc, .system, false, false, th.priv, th.launchid, 0, false, p.pc⟩
/-- A word of the record has come: a poisoned one traps before anything is sent to the launch unit (R271). -/
def State.recordWord (s : State) (core slot : Nat) (p : Pending) (addr : Word) (words : List Word) (v : Word) (x : Bool) : State :=
  if x then s.trapPending core slot (poisonTrap (Fin.ofNat 32 (bits p.word.toNat 15 5)) 7)
  else s.setOp (tid core slot) (.launch addr (words ++ [v])) .drain

/-! ## Migration (R270) -/

/-- Whether a copy that a thread issued has not completed (R198, R270). -/
def State.copiesOf (s : State) (n : TName) : Bool :=
  let e := (s.cluster (clusterOf n.core)).copy
  e.queue.any (fun c => c.name == n) || (e.run.map (fun r => r.cmd)).toList.any (fun c => c.name == n) ||
    s.flight.any (fun f => match f.msg with
      | .copyKick c => c.name == n
      | _ => false)
/-- A message enters its core's spawn buffer and is sent (R261). -/
def State.bufferSpawn (s : State) (core : Nat) (c : Carried) : State :=
  let seq := s.nextId
  let s := { s with nextId := s.nextId + 1 }
  (s.modCore core (fun k => { k with spawnBuf := mset k.spawnBuf seq c })).sendSpawn core (seq, c)
/-- The words a MIG carries, with F and X. -/
def State.carryWords (s : State) (core : Nat) (c : Carried) : List (Word × Bool × Bool) :=
  (List.range c.words.length).map (fun i =>
    let pa := tcmBase core + c.coff + 8 * i
    (s.readWord pa, (s.wordMeta pa).full, (s.wordMeta pa).poison))

/-! ## Acting -/

/-- BAR's lane rule for a thread (R37). -/
def State.laneRule (s : State) (core slot : Nat) : State :=
  s.modThread (tid core slot) (fun th =>
    let g := BitVec.ofNat 7 (s.barGrant (clusterOf core) th.grant.toNat)
    { th with grant := g, vl := if g < th.vl then g else th.vl })
/-- STEPEND or EMIT after the thread's STEPEND (R314, R315). -/
def State.lateStep (s : State) (core slot : Nat) (th : Thread) (major : Nat) (p : Pending) : State :=
  let ga : Word := if major = 0x69 then th.reg (Fin.ofNat 32 (bits p.word.toNat 15 5)) else 0
  s.trapPending core slot { cause := 0x35, detail := major, va := ga, vb := BitVec.ofNat 64 (s.stepSeq th.launchid) }
/-- A drained instruction acts: what it sends, or what it waits for. -/
def State.act (s : State) (core slot : Nat) (th : Thread) (p : Pending) : State :=
  let t := tid core slot
  let n := nameAt core slot th
  let cl := clusterOf core
  match p.op with
  | .access f va pa size data ord sc _ =>
    (s.setPhase t .sent).sendAccess n
      ⟨f, va, pa, size, data, .thread n, ord, sc, p.repark, false, th.priv, th.launchid, 0, false, p.pc⟩
  | .vector store v ty todo done => s.sendElem t n th store v ty todo done
  | .unit _ => (s.setPhase t .sent).send (path 9 t 0) (.reply n .done)
  | .put tgt idx v x => (s.setPhase t .sent).send (path 4 t (fld tgt 16 3)) (.put n tgt idx v x)
  | .fence _ => s.finish t (fun th => th)
  | .copy c => (s.setPhase t .sent).send (path 10 cl 0) (.copyKick c)
  | .tags all mask first =>
    let tags := (s.core core).tags
    if tagsMet all tags mask then s.finish t (tagsResult tags mask first) else s.setPhase t .waiting
  | .spawn c =>
    if (s.core core).spawnBuf.length < 8 then (s.bufferSpawn core c).finish t (fun th => th) else s.setPhase t .waiting
  | .mig c =>
    if s.copiesOf n || decide (8 ≤ (s.core core).spawnBuf.length) then s.setPhase t .waiting
    else
      let c := { c with words := s.carryWords core c }
      (s.setOp t (.mig c) .sent).bufferSpawn core c
  | .launch addr words => s.readRecord core slot th p addr words
  | .bar sc n' =>
    let s := s.laneRule core slot
    match (s.launchOf th.launchid).bind (fun l => barLevel l sc) with
    | none => s.finish t (fun th => th)
    | some level => s.barArrive n th.launchid sc level n'
  | .wlpush v x =>
    match s.pushTarget core with
    | some c => (s.pushEntry c v x).finish t (fun th => th)
    | none => s.setPhase t .waiting
  | .wlpop _ => ((s.setPhase t .waiting).servePops core 7).settlePops th.launchid
  | .nred _ v i x key =>
    let e : NredEntry := ⟨key, v, i, 1, x, [th.launchid]⟩
    (s.send (path 7 (keyOwner key).core t) (.nred e)).finish t (fun th => th)
  | .rrec _ _ pa =>
    (s.setPhase t .sent).sendAccess n
      ⟨.ld, BitVec.ofNat 64 pa, pa, 8, 0, .thread n, .sc, .device, false, false, th.priv, th.launchid, 0, false, p.pc⟩
  | .emit o =>
    if th.stepEnded then s.lateStep core slot th 0x69 p else (s.setPhase t .sent).send (path 12 0 t) (.output o)
  | .stepend =>
    if th.stepEnded then s.lateStep core slot th 0x6A p else (s.setPhase t .sent).send (path 12 0 t) (.stepEnd n th.launchid)
  | .sys op tgt _ => (s.setPhase t .sent).send (path 13 (if tgt = 0 then 0 else fld tgt 16 3 + 1) t) (.sys n op tgt false)
  | .mbx _ _ =>
    let s := s.setPhase t .waiting
    let s := s.modCore core (fun k => if k.mbxq.contains slot then k else { k with mbxq := k.mbxq ++ [slot] })
    s.serveMailbox core (s.core core).mbxq
  | .matrix c =>
    (s.setPhase t .sent).send (path 14 c.target t) (if c.cap.isSome then .msend c else .matKick c)
  | .mwait mask =>
    if (s.cluster cl).locked (mask.zeroExtend 64) then s.setPhase t .waiting else s.finish t (fun th => th)
/-- A thread's oldest issued instruction at a turn of its thread. BAR, once it waits for others, is not looked at again; a
vector access waits for the relaxed load of its bundle (R20); an instruction that issues again does so in full at the turn
itself. -/
def State.pump (s : State) (core slot : Nat) : State :=
  match s.thread (tid core slot) with
  | none => s
  | some th =>
    match th.pend with
    | [] => s
    | p :: _ =>
      let drained := match p.op.drains with
        | some sc => !s.inFlightStores (nameAt core slot th) sc
        | none => true
      match p.phase, p.op with
      | .again, _ | .waiting, .bar _ _ => s
      | .drain, .vector .. => if drained && th.relaxed.isNone then s.act core slot th p else s
      | .drain, _ | .waiting, _ => if drained then s.act core slot th p else s
      | .sent, _ | .parked, _ | .faulted, _ => s

end Sys2Proof.Machine
end

