-- ==== Sys2Proof/Machine/Events.lean ====
section
/-! DEFINITION. The steps of cores and banks (file 95): energy refills (R39), accesses arriving at home banks (R148, R156),
page walks (R161), refused stores (R456), PUTs (R188), stores to VIGCTL and VIGSTAT (R154) and to host memory (R376), and
the checks of chunks on their way (R404 to R409). -/

namespace Sys2Proof.Machine

/-! ## Energy (R39, R40, R428) -/

/-- Pre-payment from a slot upward: balance, starved bits, the threads paid, and NEXTPP. It stops at the first starved slot
whose charge exceeds the balance. -/
def prepay (charges : List (Nat × Nat)) : Nat → Nat → Nat → BitVec 7 → List Nat → Nat → Nat × BitVec 7 × List Nat × Nat
  | 0, _, bal, st, paid, next => (bal, st, paid, next)
  | n + 1, i, bal, st, paid, next =>
    if !st.getLsbD i then prepay charges n ((i + 1) % 7) bal st paid next
    else
      let c := (mget charges i).getD 0
      if bal < c then (bal, st, paid, i)
      else prepay charges n ((i + 1) % 7) (bal - c) (setBit st i false) (paid ++ [i]) ((i + 1) % 7)
/-- ENERGY_REFILL: at a multiple of 1,024 cycles a new REFILL applies, BALANCE becomes REFILL, and starved slots are paid
(R39, R428). -/
def execEnergyRefill (core : Nat) (s : State) : Out :=
  if 16384 + 128 ≤ core then .fault .noSuchUnit
  else if s.cycle % 1024 ≠ 0 then .refused .notPending
  else
    let k := s.core core
    let refill := k.newRefill.getD k.refill
    let (bal, st, paid, next) := prepay k.charges 7 k.nextpp.val refill.toNat k.starved [] k.nextpp.val
    let s := s.setCore core { k with
      refill := refill, newRefill := none, balance := BitVec.ofNat 16 bal, starved := st, nextpp := Fin.ofNat 7 next
      charges := k.charges.filter (fun p => !paid.contains p.1) }
    .next (paid.foldl (fun s slot => s.modThread (tid core slot) (fun th => { th with prepaid := true })) s)

/-! ## Home banks (R141, R148, R156) -/

/-- What refuses an access on its way to its bank: a fence (R413) or a link that has fallen (R387). -/
def State.wayBlocked (s : State) (pa : Nat) : Option Nat :=
  match regionOf pa with
  | .peer p => if (s.ports.toList[p]?.map (fun q => q.up)).getD false then none else some 0x37
  | _ => if s.addrFenced pa then some 0x29 else none
/-- Whether an access stands behind a store of its issuer to a SEGFMT register of the same window that still waits: the
accesses of one issuer to one bank perform in order (R66, R175). -/
def State.behindStore (s : State) (a : Access) : Bool :=
  match regionOf a.pa with
  | .clusterCtl c _ => (s.cluster c).segWait.any (fun x => decide (x.acc.who = a.who))
  | _ => false
/-- BANK_ACCESS_ARRIVAL: an access reaches its home bank, and performs or parks; the two words of a flit are handled as one
action (R148, R150, R209, R409). -/
def execBankAccessArrival (id : Nat) (s : State) : Out :=
  match s.msg? id with
  | some (.access a) =>
    match s.wayBlocked a.pa with
    | some cause => .next ((s.take id).refuseAt a cause)
    | none => if s.behindStore a then .next s else .next (((s.take id).wordError (wordOfAddr a.pa) a.who.word).perform a)
  | some (.flit a b) =>
    let s := s.take id
    match s.wayBlocked a.pa with
    | some cause => .next (s.refuseAt a cause)
    | none => .next ((((s.wordError (wordOfAddr a.pa) a.who.word).perform a).wordError (wordOfAddr b.pa) b.who.word).perform b)
  | _ => .refused .notPending
/-- WAIT_BUDGET_EXHAUSTED: a woken access that would park again, its issuer's budget spent, faults instead (R156). -/
def execWaitBudgetExhausted (id : Nat) (s : State) : Out :=
  match s.msg? id with
  | some (.access a) =>
    let p := a.asPerformed
    if a.repark && !holds p.form (s.wordMeta (wordOfAddr p.pa)) && decide (s.budgetOf a.who = 0) then
      execBankAccessArrival id s
    else .refused .notPending
  | _ => .refused .notPending

/-! ## Page walks (R160, R161) -/

/-- PAGE_WALK_COMPLETE: a walk ends. A valid leaf fills both TLBs and its thread issues its bundle again; any other end is a
fault of that bundle (R161, R162). -/
def execPageWalkComplete (core id : Nat) (s : State) : Out :=
  match (s.core core).walks.find? (fun w => w.id == id) with
  | none => .refused .notPending
  | some w =>
    let s := s.modCore core (fun k => { k with walks := k.walks.filter (fun x => x.id != id) })
    match s.named ⟨core, w.slot, w.gen⟩ with
    | none => .next s
    | some th =>
      let waits := match th.run with
        | .detached 1 _ => true
        | _ => false
      if !waits then .next s
      else
        let s := s.touchWalk th.space w.va.toNat (nameAt core w.slot th).word
        match s.walk th.space w.va.toNat with
        | .ok l => .next ((s.fillTlbs core w.slot th.space l).setThread (tid core w.slot) th.rejoin)
        | .error f =>
          let s := s.sendTrap core w.slot th.gen th.launchid th.pc false (f.trap w.va)
          .next (s.setThread (tid core w.slot) (th.toTrap f.cause false))

/-! ## Posted stores that are refused (R456) -/

/-- The thread for which an engine or unit works: its running command's, or its launch's issuer. -/
def State.worksFor (s : State) (n : Nat) (launch : Word) : TName :=
  let cmd : Option TName :=
    if n < 2048 then (s.cluster n).copy.run.map (fun r => r.cmd.name)
    else if n < 4096 then (s.cluster (n - 2048)).mat.run.map (fun r => r.cmd.name)
    else none
  cmd.getD (((s.launchOf launch).map (fun l => l.issuer)).getD ⟨0, 7, 0⟩)
/-- The refusal of a unit's posted store: a copy or matrix command whose store a fence stops is aborted (R413); any other is
reported to the launch it worked for, as a thread's is; one of the host port, an agent or a peer is entered in the error log
(R66, R163, R456; log entry 76). -/
def State.unitRefused (s : State) (a : Access) (cause reason : Nat) : State :=
  match a.who with
  | .engine n =>
    let fenced := decide (cause = 0x29)
    if fenced && decide (n < 2048) && (s.cluster n).copy.run.isSome then s.abortCopy n (some ⟨0x29, 0, a.va⟩)
    else if fenced && decide (2048 ≤ n ∧ n < 4096) && (s.cluster (n - 2048)).mat.run.isSome then
      s.abortMat (n - 2048) (some ⟨0x29, 0, a.va⟩)
    else
      let issuer := s.worksFor n a.launch
      s.sendAsync issuer a.launch
        (asyncFields s 5 cause reason (some n) issuer a.launch a.pc a.va (BitVec.ofNat 64 a.pa) a.va)
  | _ => s.logEntry 3 false cause (bankLoc a.pa) 0 a.va
/-- POSTED_STORE_REFUSED: the refusal of a posted store is back at its issuer, which sends its record (R456). -/
def execPostedStoreRefused (id : Nat) (s : State) : Out :=
  match s.msg? id with
  | some (.refusedStore n launch pc cause reason va pa) =>
    .next ((s.take id).sendAsync n launch
      (asyncFields s 5 cause reason none n launch pc va (BitVec.ofNat 64 pa) va))
  | some (.refusedUnit a cause reason) => .next ((s.take id).unitRefused a cause reason)
  | _ => .refused .notPending

/-! ## PUT (R188, R189, R430) -/

/-- PUT_ARRIVAL: the register is written, or kept for a HELD thread, and the sender answered; a stale one is dropped, with a
notice to the sender's core (R188, R189, R260, R430). -/
def execPutArrival (id : Nat) (s : State) : Out :=
  match s.msg? id with
  | some (.put sender tgt idx v x) =>
    let s := s.take id
    let n : TName := ⟨fld tgt 16 3, fld tgt 2 0, BitVec.ofNat 12 (fld tgt 28 17)⟩
    let answer (s : State) : Out := .next (s.send (path 4 (tid n.core n.slot) sender.core) (.reply sender .done))
    if s.isFenced (clusterOf n.core) then .next (s.bounced sender { cause := 0x29, va := tgt })
    else
      match s.named n with
      | none => answer (s.notice sender.core 0 n.word idx.val)
      | some th =>
        if th.run = .held then
          answer (s.modCore n.core (fun k =>
            let h := (mget k.held n.slot).getD ⟨[], false⟩
            { k with held := mset k.held n.slot { h with puts := mset h.puts idx.val (v, x) } }))
        else answer (s.setThread (tid n.core n.slot) (th.setReg idx v x))
  | _ => .refused .notPending

/-! ## VIGCTL and VIGSTAT (R154) -/

/-- VIGCTL_WRITE: only a supervisor writes it, and only while no record is in use; a fence refuses it (R154, R456). -/
def execVigctlWrite (id : Nat) (s : State) : Out :=
  match s.msg? id with
  | some (.vigctl a) =>
    match regionOf a.pa with
    | .districtCtl d _ =>
      let s := s.take id
      if s.addrFenced a.pa then .next (s.refuseAt a 0x29)
      else if !a.sup then .next (s.refuse a 0x12 0 a.va 0 0)
      else
        let v := mergeWord (s.district d).vigctl a.pa a.size a.data.toNat
        let s := s.modDistrict d (fun k => if k.records.isEmpty then { k with vigctl := v } else k)
        .next (s.answer a .done)
    | _ => .next (s.take id)
  | _ => .refused .notPending
/-- VIGSTAT_PEAK_WRITE: any 1 written in PEAK sets it to USED; a fence refuses it (R154, R456). -/
def execVigstatPeakWrite (id : Nat) (s : State) : Out :=
  match s.msg? id with
  | some (.vigstat a) =>
    match regionOf a.pa with
    | .districtCtl d _ =>
      if s.addrFenced a.pa then .next ((s.take id).refuseAt a 0x29)
      else
        let v := mergeWord 0 a.pa a.size a.data.toNat
        let s := (s.take id).modDistrict d (fun k =>
          if fld v 47 24 = 0 then k else { k with peak := BitVec.ofNat 24 k.records.length })
        .next (s.answer a .done)
    | _ => .next (s.take id)
  | _ => .refused .notPending

/-! ## Stores to host memory (R376) -/

/-- HOST_STORE_COMPLETION: the host returns a store's completion, at which the store performs (R376). -/
def execHostStoreCompletion (id : Nat) (s : State) : Out :=
  match s.msg? id with
  | some (.hostStore a) => .next (((s.take id).busWrite a.pa a.size a.data.toNat).answer a .done)
  | _ => .refused .notPending

/-! ## Wicks (R404, R336) -/

/-- The lantern mix (R336). -/
def lantern (x : Word) : Word :=
  let x := x ^^^ (x >>> 29)
  let x := x * 0xA3B19C572E4D6F81#64
  let x := x ^^^ (x >>> 32)
  let x := x * 0x5C2FE8A97B13D045#64
  x ^^^ (x >>> 31)
/-- The prime of R404. -/
def wickPrime : Nat := 2 ^ 61 - 1
/-- The stored sum of a chunk, which always equals this function of its words (R404). -/
def State.chunkSum (s : State) (pa : Nat) : Nat :=
  (List.range 512).foldl (fun n i => (n + (i + 1) * ((s.readWord (pa + 8 * i)).toNat % wickPrime)) % wickPrime) 0
/-- The wick of a chunk under an identity (R404). -/
def State.wick (s : State) (pa handle low seq : Nat) : Nat :=
  (s.chunkSum pa + (lantern (lantern (place handle 32 ||| place low 0) ^^^ BitVec.ofNat 64 seq)).toNat % wickPrime) % wickPrime

/-! ## CHUNK_HOP_CHECK (R406 to R409) -/

/-- A transfer that a chunk belongs to: the issuer, its launch and bundle, the engine, HANDLE, LOW, the rows it concerns, the
chunk's places at its source and its destination, whether no write to its source performed between the engine's first and
last read of it (R406). -/
structure Transfer where
  name : TName
  launch : Word
  pc : Word
  eng : Nat
  handle : Nat
  low : Nat
  rowp : Nat
  src : Nat
  dst : Nat
  steady : Bool
  deriving DecidableEq, Repr
/-- The byte at which each of a command's destination chunks begins, among those it has moved (R405, R406). -/
def CopyCmd.chunkStarts (c : CopyCmd) (done : Nat) : List Nat :=
  let l : List Nat := match c.kind with
    | .cpy => (List.range (done / 4096)).map (fun j => (4096 - c.dest.toNat % 4096) % 4096 + 4096 * j)
    | .cpys => (List.range (done / 4096)).map (fun j => 4096 * j)
    | .cpyd =>
      let b := dpatB c.dpat
      (List.range (done / b + 1)).flatMap (fun k =>
        let skip := (4096 - (fld c.dpat 39 24 * 64 + k / dpatNc c.dpat * b) % 4096) % 4096
        (List.range ((b - skip) / 4096)).map (fun q => k * b + skip + 4096 * q))
  l.filter (fun i => decide (i + 4096 ≤ done))
/-- Where the source of the chunk at a destination byte begins; a raw CPYS chunk takes 4,224 bytes (R195). -/
def CopyCmd.chunkSource (c : CopyCmd) (i : Nat) : Word :=
  match c.kind with
  | .cpy => c.src + BitVec.ofNat 64 i
  | .cpys => c.src + BitVec.ofNat 64 (i / 4096 * (if c.fromSeg then 4096 else 4224))
  | .cpyd => c.src + BitVec.ofNat 64 (i / dpatB c.dpat * c.stride + i % dpatB c.dpat)
/-- The chunk of a running copy at chunk address `pa`, when the copy moves it whole and unconverted between aligned places and
has moved it (R405, R406). -/
def State.chunkOfCopy (s : State) (eng : Nat) (r : CopyRun) (pa : Nat) : Option Transfer :=
  let c := r.cmd
  if (s.convOf c).isSome then none
  else
    (c.chunkStarts r.done).findSome? (fun i =>
      match (s.translateEngine c.name.core c.space c.sup .load (c.chunkSource i)).1, (s.destAddress c i).1 with
      | .ok src, .ok dst =>
        if src % 4096 = 0 ∧ dst % 4096 = 0 ∧ (dst = pa ∨ src = pa) then
          some ⟨c.name, c.launch, c.pc, eng, fld c.chkid 63 32, fld c.chkid 31 19 * 2 ^ 19 + (fld c.chkid 18 0 + i / 4096) % 2 ^ 19,
            fld c.chkid 31 19, src, dst, ((mget r.reads (src / 4096)).map (fun n => n.1 == n.2)).getD false⟩
        else none
      | _, _ => none)
/-- The chunk that the page engine's last move took whole between aligned places: its physical address is the HANDLE, and no
issuer and no step stand behind it (R404; log entry 60). -/
def State.chunkOfMove (s : State) (pa : Nat) : Option Transfer :=
  s.chandler.lastMove.bind (fun m =>
    (List.range (m.2.2 / 4096)).findSome? (fun i =>
      let src := m.1 + 4096 * i
      let dst := m.2.1 + 4096 * i
      if src % 4096 = 0 ∧ dst % 4096 = 0 ∧ (dst = pa ∨ src = pa) then
        some ⟨⟨0, 7, 0⟩, 0, 0, 4224, src % 2 ^ 32, 0, 0, src, dst, true⟩
      else none))
/-- The record of a port's command, its raw block's size and place in the slice (R327). -/
def State.kvRecord (s : State) (d : Nat) (kick : Word) : List Word :=
  (List.range 4).map (fun i => s.readWord (sramBaseOf d + fld kick 21 5 * 32 + 8 * i))
def kvRoot (w : List Word) : Nat := fld (wordAt w 0) 51 8 * 256
def kvOp (w : List Word) : Nat := fld (wordAt w 0) 63 62
def kvLayer (w : List Word) : Nat := fld (wordAt w 1) 41 32
def kvBlk (w : List Word) : Nat := fld (wordAt w 1) 12 0
def kvData (d : Nat) (w : List Word) : Nat := sramBaseOf d + fld (wordAt w 2) 21 8 * 256
/-- The transfer of a chunk that a hop can check: a copy's, the lowest cluster's; the page engine's; at hop 7 only one through a
Beacon port; at hop 4 only one that was not written while it was read. Hop 6 is the decode of a port, which KV_FETCH checks
(R406). -/
def State.transferOf (s : State) (hop pa : Nat) : Option Transfer :=
  let peer (a : Nat) : Bool := match regionOf a with
    | .peer _ => true
    | _ => false
  let t := match s.clusters.findSome? (fun p => p.2.copy.run.bind (fun r => s.chunkOfCopy p.1 r pa)) with
    | some t => some t
    | none => s.chunkOfMove pa
  t.filter (fun t => hop != 6 && (hop != 4 || t.steady) && (hop != 7 || peer t.src || peer t.dst))
/-- The unit of a location marked (R411). -/
def State.markLoc (s : State) (l : Nat) : State :=
  let n := l % 2 ^ 28
  match l / 2 ^ 28 with
  | 7 => s.modMat n (fun u => { u with marked := true })
  | 8 => s.modCopy n (fun e => { e with marked := true })
  | 9 => s.modDistrict n (fun d => { d with kvMarked := true })
  | _ => s
/-- Words from an address on poisoned. -/
def State.poisonWords (s : State) (pa n : Nat) : State :=
  (List.range n).foldl (fun s i => s.setMeta (pa + 8 * i) { s.wordMeta (pa + 8 * i) with poison := true }) s
/-- The stores of an engine to a chunk that are still on their way poisoned (R406). -/
def Access.poisonedBy (eng dst : Nat) (a : Access) : Access :=
  if decide (a.who = .engine eng) && decide (dst ≤ a.pa ∧ a.pa < dst + 4096) then { a with poison := true } else a
def Msg.poisonStores (eng dst : Nat) : Msg → Msg
  | .access a => .access (a.poisonedBy eng dst)
  | .flit a b => .flit (a.poisonedBy eng dst) (b.poisonedBy eng dst)
  | .toBridge die a b => .toBridge die (a.poisonedBy eng dst) (b.map (fun b => b.poisonedBy eng dst))
  | .hostStore a => .hostStore (a.poisonedBy eng dst)
  | m => m
/-- What a second mismatch delivers with X = 1: every word of the chunk, those still on their way too; the coded form of a block
that moves is not architectural, and its raw words take the marks (R325, R406). -/
def State.deliverBad (s : State) (t : Transfer) : State :=
  if t.eng = 4224 then
    let start := (s.chandler.lastMove.map (fun m => m.2.1)).getD t.dst
    { s with chandler := { s.chandler with kvRaw := s.chandler.kvRaw.map (fun p =>
        if p.1 = start then (p.1, (p.2.1, List.range (p.2.1.length / 8))) else p) } }
  else
    ({ s with flight := s.flight.map (fun f => { f with msg := f.msg.poisonStores t.eng t.dst }) } : State).poisonWords t.dst 512
/-- WHO of an entry about a transfer: its issuer, or the page engine, behind which no issuer stands (R414). -/
def Transfer.who (t : Transfer) : Word := if t.eng = 4224 then 4224 else t.name.word
/-- CHUNK_HOP_CHECK: a hop's verdict on a chunk of a transfer: good; corrected on the second attempt, a transient entry; or
a second mismatch, a flare, the data going on with X = 1 on every word (R406, R407, R409). `chunk` is the number of the
4 KiB chunk at its source or destination. Hop 5 is the residue tree of a matrix unit, which finds a fault of its own in
the K-block it is at (R237); there `chunk` gives the element. The wick carried by a coded block is not architectural. -/
def execChunkHopCheck (hop : Nat) (locn : BitVec 32) (chunk : Nat) (result : CheckResult) (s : State) : Out :=
  let l := locn.toNat
  if hop = 5 then
    match (s.cluster (l % 2 ^ 28)).mat.run with
    | some r =>
      if r.cmd.fn ≠ 0 ∨ !r.consumed ∨ r.finished ∨ 2048 ≤ l % 2 ^ 28 ∨ l / 2 ^ 28 ≠ 7 then .refused .notPending
      else
        match result with
        | .good => .next s
        | .corrected => .next (s.logEntry 1 false 0x19 l r.cmd.name.word (BitVec.ofNat 64 r.block))
        | .mismatch =>
          let t := (s.cluster (l % 2 ^ 28)).tile r.cmd.tile.val
          .next (s.residueFail (l % 2 ^ 28) r (t.activeRows.map (fun p => p.1)) (chunk / 64 % 64) (chunk % 64))
    | none => .refused .notPending
  else
    match s.transferOf hop (4096 * chunk) with
    | none => .refused .notPending
    | some t =>
      let id := place t.handle 32 ||| place t.low 0
      match result with
      | .good => .next s
      | .corrected => .next (s.logEntry 1 false 0x19 l t.who id)
      | .mismatch =>
        let carried :=
          if t.eng = 4224 then Config.badWick (s.fresh + 1) % wickPrime else s.wick t.src t.handle t.low (s.stepSeq t.launch)
        let found := Config.badWick s.fresh % wickPrime
        let s := (s.bump.bump.deliverBad t).markLoc l
        .next (s.flare hop t.name (some t.eng) t.launch t.pc id (BitVec.ofNat 64 found) t.rowp l (BitVec.ofNat 64 carried))

end Sys2Proof.Machine
end

