-- ==== Sys2Proof/Machine/Records.lean ====
section
/-! DEFINITION. What the Chandler stands on: its configuration block (R296), bindings (R297), request records (R301), its
accesses in AGSPACE (R342, R212), and the device memory its firmware takes (R351). -/

namespace Sys2Proof.Machine

/-! ## Configuration (R296) -/

/-- The Chandler changed. -/
def modCh (f : Chandler → Chandler) (s : State) : State := { s with chandler := f s.chandler }
/-- A word of the configuration block; 0 before the first. -/
def State.cfgWord (s : State) (i : Nat) : Word := (s.chandler.config.map (fun c => wordAt c.toList i)).getD 0
/-- RECCNT, ADMBASE, ADMCNT, AGSPACE, BINDBASE and NBIND. -/
def State.recCount (s : State) : Nat := fld (s.cfgWord 1) 18 0
def State.admBase (s : State) : Word := s.cfgWord 2
def State.admCount (s : State) : Nat := fld (s.cfgWord 3) 8 0
def State.agSpace (s : State) : Word := s.cfgWord 4
def State.bindBase (s : State) : Word := s.cfgWord 5
def State.bindCount (s : State) : Nat := fld (s.cfgWord 6) 4 0

/-! ## Request records (R301) -/

/-- A field of a request record: word, high bit, low bit. -/
structure RField where
  word : Nat
  hi : Nat
  lo : Nat
  deriving DecidableEq, Repr

def rState : RField := ⟨0, 63, 56⟩
def rGen : RField := ⟨0, 55, 44⟩
def rIdx : RField := ⟨0, 43, 26⟩
def rPclass : RField := ⟨0, 25, 24⟩
def rEclass : RField := ⟨0, 23, 20⟩
def rCreg : RField := ⟨0, 19, 16⟩
def rProg : RField := ⟨0, 15, 0⟩
def rImage : RField := ⟨1, 63, 48⟩
def rBind : RField := ⟨1, 47, 32⟩
def rTlen : RField := ⟨2, 63, 32⟩
def rPos : RField := ⟨2, 31, 0⟩
def rKvroot : RField := ⟨3, 51, 8⟩
def rStop1 : RField := ⟨5, 63, 32⟩
def rStop0 : RField := ⟨5, 31, 0⟩
def rEn0 : RField := ⟨6, 63, 63⟩
def rEn1 : RField := ⟨6, 62, 62⟩
def rMaxpos : RField := ⟨6, 31, 0⟩
def rSeed : RField := ⟨7, 63, 0⟩
def rTemp : RField := ⟨8, 63, 32⟩
def rTopk : RField := ⟨8, 31, 16⟩
def rReppen : RField := ⟨9, 63, 32⟩
def rFreqpen : RField := ⟨9, 31, 0⟩
def rPenh : RField := ⟨10, 31, 0⟩
def rOp : RField := ⟨11, 63, 56⟩
def rPhase : RField := ⟨11, 55, 48⟩
def rDone : RField := ⟨11, 31, 0⟩
def rProga : RField := ⟨12, 63, 0⟩
def rProgn : RField := ⟨13, 63, 0⟩
def rProgs : RField := ⟨14, 63, 0⟩
def rMark : RField := ⟨15, 63, 32⟩
def rProgx : RField := ⟨15, 31, 0⟩
def rProgpc : RField := ⟨16, 55, 0⟩
def rLasttok : RField := ⟨17, 31, 0⟩
def rLaststep : RField := ⟨18, 63, 32⟩
def rInb : RField := ⟨18, 12, 12⟩
def rBslot : RField := ⟨18, 11, 0⟩
def rFcode : RField := ⟨19, 63, 56⟩
def rFstep : RField := ⟨19, 31, 0⟩
def rReexec : RField := ⟨20, 63, 32⟩
def rFlstep : RField := ⟨20, 31, 0⟩
def rWait : RField := ⟨21, 63, 32⟩
def rEvicts : RField := ⟨21, 31, 0⟩
def rShareid : RField := ⟨22, 63, 0⟩
def rProgm : RField := ⟨23, 63, 56⟩
def rProgt : RField := ⟨23, 55, 0⟩

/-- Words that a unit reads one after another, with what the code of their cells finds (R409). -/
def State.touchWords (s : State) (pa n : Nat) (who : Word := 0) : State :=
  (List.range n).foldl (fun s i => s.wordError (pa + 8 * i) who) s
/-- A word of a record. -/
def State.rword (s : State) (r i : Nat) : Word := s.readWord (s.recordAddr r + 8 * i)
/-- A word of a record written, with a plain store. -/
def State.rwrite (s : State) (r i : Nat) (v : Word) : State := s.storeWord (s.recordAddr r + 8 * i) v
/-- A field of a record. -/
def State.rget (s : State) (r : Nat) (f : RField) : Nat := fld (s.rword r f.word) f.hi f.lo
def State.rset (s : State) (r : Nat) (f : RField) (v : Nat) : State :=
  s.rwrite r f.word (setFld (s.rword r f.word) f.lo (f.hi + 1 - f.lo) v)
/-- Several fields written. -/
def State.rsets (s : State) (r : Nat) : List (RField × Nat) → State
  | [] => s
  | (f, v) :: rest => (s.rset r f v).rsets r rest
/-- The records of the table. -/
def State.records (s : State) : List Nat := List.range s.recCount
/-- A record's name, RIDX in 43:26 and RGEN in 55:44 (R352). -/
def State.rname (s : State) (r : Nat) : Word := place (s.rget r rGen) 44 ||| place r 26

/-! ## Accesses in AGSPACE (R342, R212) -/

/-- The physical address of a virtual one: through the tables of AGSPACE, with a user's rights and no near region. -/
def State.agAddr (s : State) (k : Kind) (va : Word) : Except Nat Nat :=
  if fld va 63 56 ≠ 0 then .error 0x20
  else if va.toNat < nearEnd then .error 0x22
  else
    match s.walk s.agSpace va.toNat with
    | .error f => .error f.cause
    | .ok l =>
      match leafTrans l k false va.toNat with
      | .fault f => .error f.cause
      | .miss => .error 0x20
      | .ok pa =>
        match s.engineFault pa with
        | some cause => .error cause
        | none => .ok pa
/-- An access of the Chandler's in AGSPACE (R342, R212). -/
def agentAccess (who : Nat) (f : Form) (va : Word) (pa n : Nat) (v : Word) (repark posted : Bool) : Access where
  form := f
  va := va
  pa := pa
  size := n
  data := v
  who := .agent who
  ord := .sc
  scope := .system
  repark := repark
  posted := posted
  sup := false
  launch := 0
  opened := 0
  poison := false
  pc := 0
/-- The number by which the Chandler makes its own accesses; those of programs carry the program's number. -/
def chandlerWho : Nat := 65536
/-- What a load answers in place of a cause when it must wait: for a word of a peer that is not ready (R384), or for a store of an
agent's that is on its way to the same word (R342, R376). What makes it goes again. -/
def agWaits : Nat := 0x100
/-- Whether a store of the Chandler's or of a program's to a word has still to perform. -/
def State.agStoring (s : State) (pa : Nat) : Bool :=
  s.flight.any (fun f => match f.msg.postedStore with
    | some (.agent _, p) => wordOfAddr p == wordOfAddr pa
    | _ => match f.msg with
      | .hostStore a => (match a.who with | .agent _ => wordOfAddr a.pa == wordOfAddr pa | _ => false)
      | _ => false)
/-- A load of `n` bytes; a poisoned word is cause 0x10 (R344), and a peer's refusal cause 0x36 (R386). -/
def State.agLoad (s : State) (va : Word) (n : Nat) : Except Nat Nat × State :=
  let s := s.touchWalk s.agSpace va.toNat
  match s.agAddr .load va with
  | .error cause => (.error cause, s)
  | .ok pa =>
    if s.agStoring pa then (.error agWaits, s)
    else
      match s.readNow (agentAccess chandlerWho .ld va pa n 0 false false) with
      | (.value v _ x, s) => (if x then .error 0x10 else .ok v.toNat, s)
      | (.parks _, s) => (.error agWaits, s)
      | (.refused _, s) => (.error 0x36, s)
/-- Loads at `step` bytes from one another, until one fails. -/
def State.agLoads (s : State) (va : Word) (step : Nat) : Nat → Except Nat (List Nat) × State
  | 0 => (.ok [], s)
  | n + 1 =>
    match s.agLoad va step with
    | (.error cause, s) => (.error cause, s)
    | (.ok v, s) =>
      match s.agLoads (va + BitVec.ofNat 64 step) step n with
      | (.error cause, s) => (.error cause, s)
      | (.ok l, s) => (.ok (v :: l), s)
/-- An access of the Chandler's at its bank: its cause when it is refused on the way there. `asked` accesses are answered. -/
def State.agAccess (s : State) (who : Nat) (f : Form) (va : Word) (n v : Nat) (repark asked : Bool) : Option Nat × State :=
  let s := s.touchWalk s.agSpace va.toNat
  match s.agAddr (formKind f) va with
  | .error cause => (some cause, s)
  | .ok pa =>
    if isFullEmpty f && !hasMeta pa then (some 0x26, s)
    else
      let a := agentAccess who f va pa n (BitVec.ofNat 64 v) repark !asked
      match a.msg with
      | .access _ => (none, (s.wordError (wordOfAddr pa) a.who.word).perform a)
      | m => (none, s.send (path 3 (bankOf pa) (2 ^ 20)) m)
/-- A plain store of `n` bytes. -/
def State.agStore (s : State) (who : Nat) (va : Word) (n v : Nat) : Option Nat × State := s.agAccess who .st va n v false false
/-- Words stored from an address up as full words (R309); the cause of the first refused. -/
def State.agStores (s : State) (who : Nat) (va : Word) : List Word → Option Nat × State
  | [] => (none, s)
  | v :: r =>
    match s.agStore who va 8 v.toNat with
    | (some cause, s) => (some cause, s)
    | (none, s) =>
      match s.agAccess who (.fest true) va 8 0 false false with
      | (some cause, s) => (some cause, s)
      | (none, s) => s.agStores who (va + 8) r

/-! ## Bindings (R297) -/

/-- A binding's entry: KREC, SLOTS, TOKMAX, PCHUNK, AREA, IMAGE and NEND. -/
structure BindEntry where
  krec : Word
  slots : Nat
  tokmax : Nat
  pchunk : Nat
  area : Word
  image : Nat
  nend : Nat
  deriving DecidableEq, Repr
/-- The entry of a binding, when it can be read and keeps its limits. -/
def State.bindEntry (s : State) (b : Nat) : Option BindEntry :=
  match (s.agLoads (s.bindBase + BitVec.ofNat 64 (32 * b)) 8 4).1 with
  | .ok [a, c, d, e] =>
    let w (n : Nat) : Word := BitVec.ofNat 64 n
    let x : BindEntry :=
      ⟨w a, fld (w c) 44 32, fld (w c) 31 16, fld (w c) 11 0, w d, fld (w e) 63 48, fld (w e) 15 0⟩
    if b < s.bindCount ∧ 1 ≤ x.slots ∧ x.slots ≤ 4096 ∧ 1 ≤ x.tokmax ∧ 1 ≤ x.pchunk ∧ fld x.krec 63 56 = 0 ∧ fld x.krec 5 0 = 0
        ∧ fld x.area 63 56 = 0 ∧ fld x.area 11 0 = 0 ∧ fld (w c) 63 45 = 0 ∧ fld (w c) 15 12 = 0 ∧ fld (w e) 47 16 = 0 then
      some x
    else none
  | _ => none

/-! ## The firmware's memory (R351) -/

/-- The physical address of an offset of the firmware's memory, in the lower half of the HBM4E of die 0. -/
def heapAt (off : Nat) : Nat := Config.heapBase % 2 ^ 26 * 256 + off
/-- How many bytes the firmware may take: how many is free, but they hold at least the directory and string of one request of
the largest image (log entry 14). -/
def heapLimit : Nat := 2 ^ 27 + Config.heapSize % (2 ^ 33 - 2 ^ 27)
/-- The first gap of `n` bytes, from an offset on, among pieces in ascending order. -/
def gapFrom (n : Nat) : Nat → List (Nat × Nat) → Option Nat
  | at', [] => if at' + n ≤ heapLimit then some at' else none
  | at', (o, l) :: r => if at' + n ≤ o then some at' else gapFrom n (o + l) r
/-- A piece of `n` bytes, its size rounded up to a multiple of 256, taken; none when there is no room. -/
def State.takeHeap (s : State) (n : Nat) : Option (Nat × State) :=
  let n := (n + 255) / 256 * 256
  (gapFrom n 0 s.chandler.heap).map (fun o => (o, modCh (fun c => { c with heap := mset c.heap o n }) s))
def State.freeHeap (s : State) (off : Nat) : State := modCh (fun c => { c with heap := mdel c.heap off }) s

/-! ## Token strings (R301, R351) -/

/-- Where a request's token string lies. -/
def State.stringAt (s : State) (r : Nat) : Nat := heapAt ((mget s.chandler.strings r).getD 0)
/-- A token of a request, and tokens of it. -/
def State.token (s : State) (r i : Nat) : Nat := s.readN (s.stringAt r + 4 * i) 4
def State.tokens (s : State) (r lo n : Nat) : List Nat := (List.range n).map (fun i => s.token r (lo + i))
/-- Tokens written into a string from a position on, each with a plain store of 4 bytes, which the sum store of its chunk counts
(R404, R406). -/
def State.putTokens (s : State) (r pos : Nat) : List Nat → State
  | [] => s
  | t :: rest => (s.busWrite (s.stringAt r + 4 * pos) 4 t).putTokens r (pos + 1) rest
/-- A request in a step that is open: it has a row there, or one that waits for others of its BEAM group (R303, R317). -/
def State.inOpenStep (s : State) (r : Nat) : Bool :=
  s.chandler.binds.any (fun p => p.2.isOpen && (p.2.rows ++ p.2.kept).any (fun x => x.ridx == r && x.fault != some 1))

end Sys2Proof.Machine
end

