-- ==== Sys2Proof/Machine/Kv.lean ====
section
/-! DEFINITION. Key-value pages (chapter 15): layer directories and block entries (R322, R324), count words (R326), forking and
freeing (R329), eviction (R318, R331), moves between tiers and holds (R332, R334), and the districts' key-value ports (R327,
R328). A block's coded form is not architectural (R325): the raw content is kept beside it. -/

namespace Sys2Proof.Machine

/-! ## Directories and entries (R322, R324) -/

/-- NLAYER, KVW and NBLK of a directory's word 0. -/
def dirLayers (w : Word) : Nat := fld w 41 32
def dirKvw (w : Word) : Nat := if fld w 23 16 = 0 then 256 else fld w 23 16
def dirNblk (w : Word) : Nat := fld w 12 0
/-- Raw bytes of a block. -/
def rawSize (w : Word) : Nat := 4096 * dirKvw w
/-- The directory of a request. -/
def State.rootOf (s : State) (r : Nat) : Nat := s.rget r rKvroot * 256
def State.dir (s : State) (root : Nat) : Word := s.readWord root
/-- The address of an entry, and the entry. -/
def State.entryAddr (s : State) (root l b : Nat) : Nat := fld (s.readWord (root + 8 * (1 + l))) 51 8 * 256 + 8 * b
def State.entry (s : State) (root l b : Nat) : Word := s.readWord (s.entryAddr root l b)
/-- An entry stored, as an 8-byte store does (R163, R328). -/
def State.setEntry (s : State) (root l b : Nat) (e : Word) : State := s.storeWord (s.entryAddr root l b) e
/-- TIER, RCI and the physical address of a block. -/
def entTier (e : Word) : Nat := fld e 63 62
def entRci (e : Word) : Nat := fld e 49 30
def lpddrBase : Nat := 0x10000000000
def entLoc (e : Word) : Nat :=
  if entTier e = 1 then fld e 29 27 * 0x1000000000 + fld e 25 0 * 1024 else lpddrBase + fld e 29 0 * 1024
/-- An entry. -/
def mkEntry (tier size rci addr : Nat) : Word := place tier 62 ||| place (size % 4096) 50 ||| place rci 30 ||| place addr 0
/-- Positions a request may hold. -/
def State.capacity (s : State) (r : Nat) : Nat := 64 * dirNblk (s.dir (s.rootOf r))
/-- Every layer and block of a directory. -/
def State.places (s : State) (root : Nat) : List (Nat × Nat) :=
  (List.range (dirLayers (s.dir root))).flatMap (fun l => (List.range (dirNblk (s.dir root))).map (fun b => (l, b)))
/-- A list of places handled one after another. -/
def State.overPlaces (s : State) (f : State → Nat × Nat → State) (l : List (Nat × Nat)) : State := l.foldl f s

/-! ## Count words (R326) -/

def countAddr (i : Nat) : Nat := lpddrBase + 8 * i
def State.count (s : State) (i : Nat) : Nat := (s.readWord (countAddr i)).toNat
/-- A count that its holder's SCH stores; the HOLD ends with the holder's action. -/
def State.setCount (s : State) (i n : Nat) : State := s.storeWord (countAddr i) (BitVec.ofNat 64 n)
/-- The holders of count words but the ports: the Chandler for one of its actions, and its page engine for one of its commands.
An action of the Chandler is a word that acts on a record, the end of an instruction in progress there, or the commit of a
binding's step; a command of the page engine is an eviction or the promotion of a block. -/
def countWho (act : Nat) : Who := .chandler act
def actWord (r : Nat) : Nat := r
def actEnd (r : Nat) : Nat := 2 ^ 18 + r
def actCommit (b : Nat) : Nat := 2 ^ 19 + b
def evictWho : Who := .pager 0
def promoteWho (rci : Nat) : Who := .pager (rci + 1)
/-- Whether an agent may act on a block: it holds the count word, or LRW proceeds there with room for its HOLD (R153, R183,
R326). -/
def State.countAvail (s : State) (who : Who) (i : Nat) : Bool :=
  let m := s.wordMeta (countAddr i)
  m.hold == some who || (m.full && s.roomAt (countAddr i) true != .full)
/-- The LRW of a count word, and the RCAN that frees one whose holder stores nothing more. -/
def countAccess (who : Who) (f : Form) (w : Nat) (repark posted : Bool) : Access where
  form := f
  va := 0
  pa := w
  size := 8
  data := 0
  who := who
  ord := .sc
  scope := .system
  repark := repark
  posted := posted
  sup := true
  launch := 0
  opened := 0
  poison := false
  pc := 0
/-- Whether the next LRW of an agent reissues a woken one (R151, R156). -/
def State.asksAgain (s : State) : Who → Bool
  | .pager n => ((mget s.chandler.pagerCmds n).map (fun p => p.2)).getD false
  | .engine n => ((s.district (n - 4096)).kv.map (fun r => r.repark)).getD false
  | _ => false
/-- Count words given up with RCAN, those that wait there being served, and waits there withdrawn (R326). -/
def State.leaveCounts (s : State) (who : Who) (keep : Nat → Bool) : State :=
  let s := s.dropAllWaiters (fun x => x.acc.who == who && x.acc.form == .lrw && !keep x.acc.pa)
  (s.marks.filter (fun p => p.2.hold == some who && !keep p.1)).foldl (fun s p => s.perform (countAccess who .rcan p.1 false true)) s
/-- An agent asks for the count words of an action. It acts when it can have all; else it gives up those it holds and waits
with an LRW at the first that it cannot have, in the order of arrival there, so that no two agents each wait for what the
other holds (R151, R326; DESIGN CHOICE: log entry 87). -/
def State.askCounts (s : State) (who : Who) (l : List Nat) : Bool × State :=
  match l.find? (fun i => !s.countAvail who i) with
  | none => (true, s)
  | some i =>
    let s := s.leaveCounts who (fun pa => pa == countAddr i)
    let heard := s.flight.any (fun f => match f.msg with
      | .unitReply w _ => w == who
      | _ => false)
    if heard || (s.waitersAt (countAddr i)).any (fun x => x.acc.who == who) then (false, s)
    else (false, s.perform (countAccess who .lrw (countAddr i) (s.asksAgain who) false))
/-- An agent's action is over: it waits for no count word and holds none (R326). -/
def State.releaseCounts (s : State) (who : Who) : State :=
  let s := s.leaveCounts who (fun _ => false)
  match who with
  | .pager n => modCh (fun c => { c with pagerCmds := mdel c.pagerCmds n }) s
  | _ => s
/-- An action of the Chandler under the count words it needs: it waits, or acts and frees them. -/
def withCounts (action : Nat) (l : List Nat) (act wait : State → State) (s : State) : State :=
  match s.askCounts (countWho action) l with
  | (true, s) => (act s).releaseCounts (countWho action)
  | (false, s) => wait s
/-- The answer to the page engine: woken, its command asks again; refused, the command ends with an entry of the error log, and
a later one is a new instance (R153, R156, R163, R414). -/
def State.pagerAnswer (s : State) (n : Nat) (x : Reply) : State :=
  match x with
  | .wake =>
    let left := ((mget s.chandler.pagerCmds n).map (fun p => p.1)).getD (2 ^ 20)
    modCh (fun c => { c with pagerCmds := mset c.pagerCmds n (left, true) }) s
  | .fault cause _ _ vb _ => (s.releaseCounts (.pager n)).logEntry 3 false cause (loc 10 0) 4224 vb
  | _ => s
/-- The answer to the Chandler's LRW: refused, an entry of the error log, and the action asks again (R153, R414). -/
def State.chandlerAnswer (s : State) (x : Reply) : State :=
  match x with
  | .fault cause _ _ vb _ => s.logEntry 3 false cause (loc 11 0) 0 vb
  | _ => s
/-- The lowest free index. -/
def State.newCount (s : State) (who : Who) : Option Nat :=
  lowest (2 ^ 20) (fun i => s.count i == 0 && s.countAvail who i)

/-! ## Room for blocks -/

/-- The places of blocks in the upper half of the HBM4E of a die and in LPDDR6, as ADDR fields. -/
def hbmPlace (die j : Nat) : Nat := die * 2 ^ 27 + (24576 + (Config.kvBase die + j) % 24576) * 1024
def lpddrPlace (j : Nat) : Nat := 8192 + 1024 * j
def lpddrBlocks : Nat := 786424
def State.locUsed (s : State) (loc : Nat) : Bool := (mget s.chandler.kvRaw loc).isSome
/-- The lowest free place of a die, which has at least one, and of LPDDR6 (log entry 14). -/
def State.hbmRoom (s : State) (die : Nat) : Option Nat :=
  (lowest (Config.kvBlocks die + 1) (fun j => !s.locUsed (entLoc (mkEntry 1 0 0 (hbmPlace die j))))).map (hbmPlace die)
def State.lpddrRoom (s : State) : Option Nat :=
  (lowest lpddrBlocks (fun j => !s.locUsed (entLoc (mkEntry 2 0 0 (lpddrPlace j))))).map lpddrPlace
/-- A block's raw bytes and poisoned words. -/
def State.raw (s : State) (loc : Nat) : List Byte × List Nat := (mget s.chandler.kvRaw loc).getD ([], [])
def State.setRaw (s : State) (loc : Nat) (v : List Byte × List Nat) : State := modCh (fun c => { c with kvRaw := mset c.kvRaw loc v }) s
def State.dropRaw (s : State) (loc : Nat) : State := modCh (fun c => { c with kvRaw := mdel c.kvRaw loc }) s

/-! ## Forking and freeing (R329) -/

/-- A count raised for an entry. -/
def State.raiseEntry (s : State) (e : Word) : State :=
  if entTier e = 0 then s else s.setCount (entRci e) (s.count (entRci e) + 1)
/-- A count lowered for an entry; a block that none names is freed. -/
def State.lowerEntry (s : State) (e : Word) : State :=
  if entTier e = 0 then s
  else
    let n := s.count (entRci e)
    let s := s.setCount (entRci e) (n - 1)
    if n ≤ 1 then s.dropRaw (entLoc e) else s
/-- A block's entry lowered and cleared. -/
def State.clearEntry (s : State) (root : Nat) (p : Nat × Nat) : State :=
  (s.lowerEntry (s.entry root p.1 p.2)).setEntry root p.1 p.2 0
/-- Bytes of a directory and its tables. -/
def dirBytes (w : Word) : Nat := (8 * (1 + dirLayers w) + 255) / 256 * 256 + dirLayers w * tableBytes w
where
  /-- Bytes of one table. -/
  tableBytes (w : Word) : Nat := (8 * dirNblk w + 255) / 256 * 256
/-- A directory built for an image, every entry 0 (R322); none when there is no room. -/
def State.newDir (s : State) (w : Word) : Option (Nat × State) :=
  (s.takeHeap (dirBytes w)).map (fun p =>
    let root := heapAt p.1
    let s := (List.range (dirBytes w / 8)).foldl (fun s i => s.storeWord (root + 8 * i) 0) p.2
    let s := s.storeWord root w
    let first := root + (8 * (1 + dirLayers w) + 255) / 256 * 256
    (p.1, (List.range (dirLayers w)).foldl (fun s l =>
      s.storeWord (root + 8 * (1 + l)) (BitVec.ofNat 64 (first + l * dirBytes.tableBytes w))) s))
/-- A directory that names the blocks of another, each count raised (R329); none when there is no room. -/
def State.forkDir (s : State) (src : Nat) : Option (Nat × State) :=
  (s.newDir (s.dir src)).map (fun p =>
    (p.1, p.2.overPlaces (fun s q =>
      let e := s.entry src q.1 q.2
      (s.raiseEntry e).setEntry (heapAt p.1) q.1 q.2 e) (s.places src)))
/-- A directory freed: every count lowered, and its memory given back (R329). -/
def State.freeDir (s : State) (root : Nat) : State :=
  (s.overPlaces (fun s q => s.clearEntry root q) (s.places root)).freeHeap (root - heapAt 0)
/-- The count words that a directory's blocks name, and those that the directories of some requests name. -/
def State.countsOf (s : State) (root : Nat) : List Nat :=
  (((s.places root).map (fun q => s.entry root q.1 q.2)).filter (fun e => entTier e != 0)).map entRci
def State.countsOfAll (s : State) (l : List Nat) : List Nat := (l.flatMap (fun r => s.countsOf (s.rootOf r))).dedup
/-- Whether a directory has a block in LPDDR6, which must be promoted before it is shared (R326). -/
def State.demoted (s : State) (root : Nat) : Option Nat :=
  ((s.places root).find? (fun q => entTier (s.entry root q.1 q.2) == 2)).map
    (fun q => q.1 * dirNblk (s.dir root) + q.2)

/-! ## Records as CNEW and CFREE leave them (R351, R354) -/

/-- A record freed: its tables, its string, STATE 0 (R329, R354). -/
def State.freeRecordOf (s : State) (r : Nat) : State :=
  let s := s.freeDir (s.rootOf r)
  let s := s.freeHeap ((mget s.chandler.strings r).getD 0)
  (modCh (fun c => { c with strings := mdel c.strings r, uncounted := mdel c.uncounted r, ident := mdel c.ident r }) s).rset r
    rState 0
/-- The lowest record whose STATE is 0. -/
def State.newRecord (s : State) : Option Nat := s.records.find? (fun r => s.rget r rState == 0)
/-- A fresh record bound to a program's register, with a directory already built; none when the string has no room. -/
def State.buildRecord (s : State) (r prog creg bind image pclass eclass dirOff : Nat) : Option State :=
  (s.takeHeap (4 * 64 * dirNblk (s.dir (heapAt dirOff)))).map (fun p =>
    let gen := (s.rget r rGen + 1) % 4096
    let s := modCh (fun c => { c with strings := mset c.strings r p.1, uncounted := mdel c.uncounted r, ident := mdel c.ident r }) p.2
    let s := (List.range 32).foldl (fun s i => s.rwrite r i 0) s
    s.rsets r [(rState, 1), (rGen, gen), (rIdx, r), (rPclass, pclass), (rEclass, eclass), (rCreg, creg), (rProg, prog),
      (rImage, image), (rBind, bind), (rKvroot, heapAt dirOff / 256), (⟨4, 55, 3⟩, fld (BitVec.ofNat 64 (heapAt p.1)) 55 3)])
/-- The positions whose tokens have not raised their penalty counters (R359), and how many positions SHAREID covers (R306). -/
def State.uncountedOf (s : State) (r : Nat) : List Nat := (mget s.chandler.uncounted r).getD []
def State.setUncounted (s : State) (r : Nat) (l : List Nat) : State :=
  modCh (fun c => { c with uncounted := if l.isEmpty then mdel c.uncounted r else mset c.uncounted r l }) s
def State.identOf (s : State) (r : Nat) : Nat := (mget s.chandler.ident r).getD 0
def State.setIdent (s : State) (r n : Nat) : State := modCh (fun c => { c with ident := mset c.ident r n }) s
/-- A record made a copy of another's (R353): TLEN to SHAREID, sampler, stop and penalty fields, the string and the tables;
none when a record or room is lacking. Its classes are those of the program's descriptor (R302). -/
def State.forkRecord (s : State) (src prog creg pclass eclass : Nat) : Option (Nat × State) :=
  match s.newRecord, s.forkDir (s.rootOf src) with
  | some r, some (off, s) =>
    (s.buildRecord r prog creg (s.rget src rBind) (s.rget src rImage) pclass eclass off).map
      (fun s =>
        let s := ([2, 5, 6, 7, 8, 9, 10, 22]).foldl (fun s i => s.rwrite r i (s.rword src i)) s
        let s := s.rset r rLasttok (s.rget src rLasttok)
        let s := (s.setUncounted r (s.uncountedOf src)).setIdent r (s.identOf src)
        (r, s.putTokens r 0 (s.tokens src 0 (s.rget src rTlen))))
  | _, _ => none

/-! ## What a request still needs, and its rows (R307, R358) -/

/-- The first position a SCORE or CHOOSE has still to score from. -/
def State.scoreFrom (s : State) (r : Nat) : Nat := s.rget r rProga + s.rget r rDone - 1
/-- Tokens still needed in the instruction in progress; 0 when it needs no further step. -/
def State.needs (s : State) (r : Nat) : Nat :=
  match s.rget r rOp with
  | 0x20 | 0x21 | 0x25 => s.rget r rTlen - s.rget r rPos
  | 0x22 | 0x23 => if s.rget r rDone = s.rget r rProgn then 0 else s.rget r rTlen - 1 - s.rget r rPos
  | 0x24 => if s.rget r rPhase = 0 ∧ s.rget r rProgx ≠ 0 then 0 else s.rget r rTlen - s.rget r rPos
  | _ => 0
/-- A row's NTOK: it spans neither the eviction mark nor the first position scored, and a BEAM or SPEC step stands alone. -/
def State.cutRow (s : State) (r n : Nat) : Nat :=
  let pos := s.rget r rPos
  let len := s.rget r rTlen
  let n := min n (len - pos)
  let n := if pos < s.rget r rMark then min n (s.rget r rMark - pos) else n
  match s.rget r rOp with
  | 0x22 | 0x23 => if pos < s.scoreFrom r then min n (s.scoreFrom r - pos) else n
  | 0x24 | 0x25 => if pos + 1 < len then min n (len - 1 - pos) else n
  | _ => n
/-- PHASE of an instruction in progress: 1 once its next row draws, scores or verifies, that row having the tokens that its
binding lets one row have; STEP_FORMATION sets it by the row that a step's budget leaves (R361, R362, R365, R366). -/
def State.setPhaseOf (s : State) (r : Nat) : State :=
  let pos := s.rget r rPos
  let len := s.rget r rTlen
  match s.rget r rOp with
  | 0x21 =>
    let most := ((s.bindEntry (s.rget r rBind)).map (fun e => min e.pchunk e.tokmax)).getD 1
    s.rset r rPhase (b2n (pos + s.cutRow r (min (s.needs r) most) == len))
  | 0x25 => s.rset r rPhase (b2n (pos + 1 == len))
  | 0x22 | 0x23 => s.rset r rPhase (b2n (decide (s.scoreFrom r ≤ pos)))
  | _ => s

/-! ## Eviction (R318, R331) -/

/-- Whether a vigil list or a HOLD pins a block's place (R158). -/
def State.pinned (s : State) (loc size : Nat) : Bool :=
  let inside (a : Nat) : Bool := decide (loc ≤ a) && decide (a < loc + size)
  s.waiters.any (fun p => !p.2.isEmpty && inside p.1) || s.marks.any (fun p => p.2.hold.isSome && inside p.1)
/-- The count words of a directory's unshared blocks, which an eviction drops (R331). -/
def State.unshared (s : State) (root : Nat) : List Nat := (s.countsOf root).filter (fun i => s.count i == 1)
/-- Whether a request is eligible: not exempt, in no open step, none of its pages pinned (R318). -/
def State.evictable (s : State) (r : Nat) : Bool :=
  let root := s.rootOf r
  s.rget r rState != 0 && s.rget r rEclass != 0 && !s.inOpenStep r &&
    (s.places root).all (fun q =>
      let e := s.entry root q.1 q.2
      entTier e == 0 || !s.pinned (entLoc e) (rawSize (s.dir root)))
/-- Whether a first victim goes before a second (R318). -/
def State.victimBefore (s : State) (a b : Nat) : Bool :=
  let key (r : Nat) : List Int :=
    [-(s.rget r rEclass : Int), -(s.rget r rPclass : Int), (s.rget r rLaststep : Int), -(r : Int)]
  decide (key a < key b)
/-- The eligible requests in the order in which they are taken. -/
def State.victims (s : State) : List Nat := (s.records.filter s.evictable).insertionSort (fun a b => s.victimBefore a b = true)
/-- Whether dropping a request's unshared blocks frees memory. -/
def State.frees (s : State) (r : Nat) : Bool := !(s.unshared (s.rootOf r)).isEmpty
/-- The victims taken for one need: in order, up to the first whose eviction frees memory; none when no eviction would (log
entry 84). -/
def State.taken (s : State) : List Nat :=
  let l := s.victims
  if l.any s.frees then l.takeWhile (fun r => !s.frees r) ++ (l.find? s.frees).toList else []
/-- The leading block indices whose entries are present in every layer. -/
def State.leading (s : State) (root : Nat) : Nat :=
  ((List.range (dirNblk (s.dir root))).takeWhile (fun b =>
    (List.range (dirLayers (s.dir root))).all (fun l => entTier (s.entry root l b) != 0))).length
/-- A victim's unshared blocks dropped; POS, the mark, EVICTS and STATE follow, and DONE of an APPEND and PHASE of the
others (R318, R331, R358, R366). -/
def State.evict (s : State) (r : Nat) : State :=
  let root := s.rootOf r
  let pos := s.rget r rPos
  let s := s.overPlaces (fun s q => if s.count (entRci (s.entry root q.1 q.2)) = 1 then s.clearEntry root q else s)
    (s.places root)
  let new := min (64 * s.leading root) (s.rget r rTlen)
  let s := s.rsets r [(rPos, new), (rMark, max (s.rget r rMark) pos), (rEvicts, s.rget r rEvicts + 1)]
  let s := if s.rget r rOp = 0x20 then s.rset r rDone (min (s.rget r rProgn) (new - s.rget r rProga)) else s
  if s.rget r rState = 2 ∨ s.rget r rState = 4 then (s.rset r rState 4).setPhaseOf r else s

/-! ## Moves between tiers (R332, R334) -/

/-- The requests and blocks that the page engine is to promote: those of suspended requests, and those of requests that a
word of a look-ahead will step or fork (R332, R326). -/
def wantsBlocks : Instr → Option CReg
  | .append c _ _ | .gen c _ | .score c _ _ _ | .choose c _ _ _ | .beam c _ _ | .spec c _ _ => some c
  | .cfork _ c => some c
  | _ => none
/-- The record a program's context register names, when its RGEN still holds (R300). -/
def State.ctxRecord (s : State) (g : Program) (c : CReg) : Option Nat :=
  (g.c.toList.getD c.val none).bind (fun b => if s.rget b.ridx rGen = b.rgen.toNat then some b.ridx else none)
def State.promoWanted (s : State) : List (Nat × Nat) :=
  let waiting := s.records.filter (fun r => s.rget r rState == 4)
  let ahead := s.chandler.programs.flatMap (fun p => p.2.words.filterMap (fun w =>
    ((decodeF w.bits.toNat).toOption.bind wantsBlocks).bind (fun c => s.ctxRecord p.2 c)))
  (waiting ++ ahead.filter (fun r => !s.inOpenStep r)).dedup.filterMap (fun r =>
    (s.demoted (s.rootOf r)).map (fun b => (r, b)))
/-- A free place in the HBM4E of the lowest die that has one. -/
def State.anyHbm (s : State) : Option Nat := (List.range 8).findSome? s.hbmRoom

/-! ## A page's metadata (R167) -/

/-- The packed block of a page's metadata, word `j`, and the F and X that it holds for page word `i`. Only a page that leaves
device memory for host memory, or returns, has one: PAGE_MOVE moves none there. -/
def State.packedWord (s : State) (page j : Nat) : Word :=
  place ((List.range 32).foldr (fun k n =>
    let m := s.wordMeta (page + 8 * (32 * j + k))
    b2n m.full + 2 * b2n m.poison + 4 * n) 0) 0
def packedMeta (block : Nat → Word) (i : Nat) : Bool × Bool :=
  (bit (block (i / 32)) (2 * (i % 32)), bit (block (i / 32)) (2 * (i % 32) + 1))
/-- Bytes of a block's coded form (R324). -/
def entBytes (e : Word) : Nat := (fld e 61 50 + 1) * 256
/-- A block's content moves, and every word's F and X with it (R167, R332). -/
def State.moveBlock (s : State) (old new n : Nat) : State :=
  let inside (base : Nat) (p : Nat × Meta) : Bool := decide (base ≤ p.1) && decide (p.1 < base + n)
  let s1 := (s.marks.filter (inside new)).foldl (fun s p => s.setMeta p.1 ⟨true, false, none, none, 0⟩) s
  let s1 := (s.marks.filter (inside old)).foldl (fun s p => s.setMeta (p.1 - old + new) p.2) s1
  modCh (fun c => { c with lastMove := some (old, new, n) }) ((s1.setRaw new (s.raw old)).dropRaw old)

/-! ## The key-value port (R327, R328) -/

/-- A port's engine number, its identity, and its kick word. -/
def portEngine (d : Nat) : Nat := 4096 + d
def portWho (d : Nat) : Who := .engine (portEngine d)
def kickAddr (d : Nat) : Nat := districtCtlBase d + kvkickOff
/-- Whether a command is malformed, or its directory, with the layer word it names (R322, R327). -/
def State.kvBad (s : State) (w : List Word) : Bool :=
  let dw := s.dir (kvRoot w)
  let m (i : Nat) (mask : Word) : Bool := wordAt w i &&& ~~~mask != 0
  m 0 0xC00FFFFFFFFFFF00#64 || m 1 0x3FF00001FFF#64 || m 2 0x3FFF00#64
    || m 3 0x80000000003FFFF8#64 || decide (2 ≤ kvOp w) || regionOf (kvRoot w) == .absent
    || dw &&& ~~~0x3FF00FF1FFF#64 != 0 || dirLayers dw == 0 || dirNblk dw == 0 || decide (dirLayers dw ≤ kvLayer w)
    || decide (dirNblk dw ≤ kvBlk w) || s.readWord (kvRoot w + 8 * (1 + kvLayer w)) &&& ~~~0xFFFFFFFFFFF00#64 != 0
    || decide (0x400000 < fld (wordAt w 2) 21 8 * 256 + rawSize dw)
/-- The kick a free port would take; a port in a fenced region has stopped (R413). -/
def State.waitingKick (s : State) (d : Nat) : Option Word :=
  if (s.district d).kv.isNone && !s.addrFenced (kickAddr d) && (s.wordMeta (kickAddr d)).full then some (s.busWord (kickAddr d)) else none
/-- The record of the command a port is at, while it waits for nothing, or of the kick it would take. -/
def State.kvCommand (s : State) (d : Nat) : Option (List Word) :=
  match (s.district d).kv with
  | some r => if r.status.isNone && !r.parked then some r.record else none
  | none => (s.waitingKick d).map (s.kvRecord d)
/-- Whether a port carries out a command as a store. -/
def State.kvStores (s : State) (d : Nat) (w : List Word) : Bool := !(s.district d).kvMarked && !s.kvBad w && kvOp w == 1
/-- The kick consumed with LDC, and the record read: parked kicks behind it are served. -/
def State.takeKick (s : State) (d : Nat) (w : List Word) : State :=
  if (s.district d).kv.isSome then s
  else
    let kick := s.busWord (kickAddr d)
    let s1 := (s.touchWords (sramBaseOf d + fld kick 21 5 * 32) 4 (portWho d).word).perform
      (countAccess (portWho d) .ldc (kickAddr d) false true)
    s1.modDistrict d (fun k => { k with kv := some {
      kick := kick
      record := w
      issuer := (s.district d).kickBy
      status := none
      moved := 0
      parked := false
      repark := false
      budget := 2 ^ 20 } })
/-- A port's command changed. -/
def State.modKv (s : State) (d : Nat) (f : KvRun → KvRun) : State := s.modDistrict d (fun k => { k with kv := k.kv.map f })
/-- Whether a store needs a new block: none is there, or the one there is shared. -/
def State.kvFresh (s : State) (e : Word) : Bool := entTier e == 0 || decide (1 < s.count (entRci e))
/-- Whether key-value memory is needed and none is free: a port's store, or a promotion (R318). -/
def State.roomNeeded (s : State) : Bool :=
  s.districts.any (fun p => match s.kvCommand p.1 with
    | some w =>
      s.kvStores p.1 w && s.kvFresh (s.entry (kvRoot w) (kvLayer w) (kvBlk w)) &&
        ((s.hbmRoom (p.1 / 16)).isNone || (s.newCount (portWho p.1)).isNone)
    | none => false) || (!s.promoWanted.isEmpty && s.anyHbm.isNone)
/-- A command has its STATUS: the port holds no count word, nor does the page engine for room no longer needed (R326). -/
def State.kvEnd (s : State) (d status moved : Nat) : State :=
  let s := (s.modKv d (fun r => { r with status := some status, moved := moved, repark := false })).releaseCounts (portWho d)
  if s.roomNeeded then s else s.releaseCounts evictWho
/-- What a port does under the count word of its block, or it waits for the word (R326). -/
def State.kvUnder (s : State) (d : Nat) (e : Word) (act : State → State) : State :=
  match s.askCounts (portWho d) [entRci e] with
  | (true, s) => act s
  | (false, s) => s.modKv d (fun r => { r with parked := true })
/-- The words of a command's directory and entry, read. -/
def State.kvTouch (s : State) (d : Nat) (w : List Word) : State :=
  let who := (portWho d).word
  ((s.touchWords (kvRoot w) 1 who).touchWords (kvRoot w + 8 * (1 + kvLayer w)) 1 who).touchWords
    (s.entryAddr (kvRoot w) (kvLayer w) (kvBlk w)) 1 who
/-- The checks of a decode, chunk by chunk: a first mismatch decodes again, a transient entry; a second flares, and marks the
port (R406, R407, R409). Which occur is free. Answers whether the block is delivered with X = 1. -/
def State.decodeChecks (s : State) (d : Nat) (w : List Word) : Bool × State :=
  let (n, l, pc) := (((s.district d).kv.bind (fun r => r.issuer)).getD (⟨128 * d, 7, 0⟩, 0, 0))
  let entry := s.entryAddr (kvRoot w) (kvLayer w) (kvBlk w)
  (List.range (rawSize (s.dir (kvRoot w)) / 4096)).foldl (fun p i =>
    let id := place entry 32 ||| place i 0
    let (bad, s) := p
    let verdict := Config.decodeCheck s.fresh
    let s := s.bump
    if verdict = 0 then (bad, s)
    else if verdict = 1 then (bad, s.logEntry 1 false 0x19 (loc 9 d) (place (portEngine d) 0) id)
    else
      let carried := Config.badWick (s.fresh + 1) % wickPrime
      let found := Config.badWick s.fresh % wickPrime
      (true, (s.bump.bump.markLoc (loc 9 d)).flare 6 n (some (portEngine d)) l pc id
        (BitVec.ofNat 64 found) 0 (loc 9 d) (BitVec.ofNat 64 carried))) (false, s)
/-- A block decoded into the slice, each word with mode .ff, once its chunks are checked (R325, R328, R406). -/
def State.kvDecode (s : State) (d : Nat) (w : List Word) (e : Word) : State :=
  let n := rawSize (s.dir (kvRoot w))
  let (raw, x) := s.raw (entLoc e)
  let (bad, s) := s.decodeChecks d w
  let words := (List.range (n / 8)).map (fun i => (natOfBytes ((raw.drop (8 * i)).take 8), bad || x.contains i))
  (words.zipIdx.foldl (fun s p => s.copyStore (portWho d) true 0 .ff (kvData d w + 8 * p.2) 8 p.1.1 true p.1.2) s).kvEnd d 0 n
/-- KV_FETCH: the port takes a kick that is no store, and decodes a resident block into the slice, under its count word. A
marked port refuses every command (R326, R328, R411). -/
def execKvFetch (d : Nat) (s : State) : Out :=
  if 128 ≤ d then .fault .noSuchUnit
  else
    match s.kvCommand d with
    | none => .refused .notPending
    | some w =>
      if s.kvStores d w then .refused .notPending
      else
        let s := s.takeKick d w
        if (s.district d).kvMarked then .next (s.kvEnd d 256 0)
        else if s.kvBad w then .next (s.kvEnd d 3 0)
        else
          let s := s.kvTouch d w
          let e := s.entry (kvRoot w) (kvLayer w) (kvBlk w)
          match entTier e with
          | 2 => .next (s.kvEnd d 1 0)
          | 1 => .next (s.kvUnder d e (fun s => s.kvDecode d w e))
          | _ => .next (s.kvEnd d 2 0)
/-- The raw block a store reads from the slice, and its poisoned words. -/
def State.kvSource (s : State) (d : Nat) (w : List Word) : List Byte × List Nat :=
  let n := rawSize (s.dir (kvRoot w))
  ((List.range n).map (fun i => Memory.read s.mem (kvData d w + i)),
    (List.range (n / 8)).filter (fun i => s.isPoisonAt (kvData d w + 8 * i)))
/-- The coded size field of a block: coding never makes it larger than it is (R325). -/
def sizeField (raw : List Byte) : Nat := min (Config.codedSize raw) (raw.length / 256 - 1)
/-- FCODE 0x06 for the row whose block found no memory (R317). -/
def State.kvNoRoom (s : State) (root : Nat) : State :=
  modCh (fun c => { c with binds := c.binds.map (fun p => (p.1, { p.2 with rows := p.2.rows.map (fun x =>
    if s.rootOf x.ridx = root ∧ x.fault = none then { x with fault := some 6 } else x) })) }) s
/-- A block coded out: into a new place when it is new or shared, else in place. Without room for it an eligible victim is
evicted first; with none the status is 4 (R318, R328). -/
def State.kvEncode (s : State) (d : Nat) (w : List Word) (e : Word) : State :=
  let root := kvRoot w
  let raw := s.kvSource d w
  let n := rawSize (s.dir root)
  if s.kvFresh e then
    match s.newCount (portWho d), s.hbmRoom (d / 16) with
    | some c, some a =>
      let e' := mkEntry 1 (sizeField raw.1) c a
      let s := (s.setRaw (entLoc e') raw).setCount c 1
      let s := if entTier e = 1 then s.setCount (entRci e) (s.count (entRci e) - 1) else s
      (s.setEntry root (kvLayer w) (kvBlk w) e').kvEnd d 0 n
    | _, _ => if s.taken.isEmpty then (s.kvNoRoom root).kvEnd d 4 0 else s
  else
    (((s.setRaw (entLoc e) raw).setCount (entRci e) 1).setEntry root (kvLayer w) (kvBlk w)
      (mkEntry 1 (sizeField raw.1) (entRci e) (fld e 29 0))).kvEnd d 0 n
/-- KV_STORE: the port takes a store's kick, and codes the block out, under its count word when it has one (R326, R328). -/
def execKvStore (d : Nat) (s : State) : Out :=
  if 128 ≤ d then .fault .noSuchUnit
  else
    match s.kvCommand d with
    | none => .refused .notPending
    | some w =>
      if !s.kvStores d w then .refused .notPending
      else
        let s := (s.takeKick d w).kvTouch d w
        let s := s.touchWords (kvData d w) (rawSize (s.dir (kvRoot w)) / 8) (portWho d).word
        let e := s.entry (kvRoot w) (kvLayer w) (kvBlk w)
        match entTier e with
        | 2 => .next (s.kvEnd d 1 0)
        | 1 => .next (s.kvUnder d e (fun s => s.kvEncode d w e))
        | _ => .next (s.kvEncode d w e)
/-- EVICTION: memory is needed and none is free, and victims' unshared blocks are dropped, under their count words, until one
frees memory (R318, R326, R331). -/
def execEviction (s : State) : Out :=
  let l := s.taken
  if l.isEmpty ∨ !s.roomNeeded then .refused .notPending
  else
    match s.askCounts evictWho (l.flatMap (fun r => s.unshared (s.rootOf r))) with
    | (true, s) => .next ((l.foldl State.evict s).releaseCounts evictWho)
    | (false, s) => .next s

/-- The completion word of a port's command, its address in the slice; none when EN is clear. -/
def kvDone (d : Nat) (w : List Word) : Option Nat :=
  if bit (wordAt w 3) 63 then some (sramBaseOf d + fld (wordAt w 3) 21 3 * 8) else none
/-- A port free for its next kick. -/
def State.freePort (s : State) (d : Nat) : State :=
  (s.releaseCounts (portWho d)).modDistrict d (fun k => { k with kv := none })
/-- A command that ends without a word to say so is reported to its issuer's launch (R257, R327). -/
def State.kvReport (s : State) (d : Nat) (r : KvRun) (cause : Nat) : State :=
  match r.issuer with
  | some (n, launch, pc) =>
    s.sendAsync n launch
      (asyncFields s 2 cause 0 (some (portEngine d)) n launch pc r.kick (BitVec.ofNat 64 r.moved) 0)
  | none => s.logEntry 3 false cause (loc 9 d) 0 r.kick
/-- KV_COMMAND_COMPLETE: the completion word is filled with STATUS and the bytes moved, or the end is reported; a full word
parks the fill (R327). The manual gives such a report no cause, which is free (log entry 27). A refusal by a marked port is
reported with cause 0x18 (R411). -/
def execKvCommandComplete (d : Nat) (s : State) : Out :=
  if 128 ≤ d then .fault .noSuchUnit
  else
    match (s.district d).kv with
    | some r =>
      match r.status with
      | none => .refused .notPending
      | some st =>
        if r.parked then .refused .notPending
        else if st = 256 then .next ((s.kvReport d r 0x18).freePort d)
        else
          match kvDone d r.record with
          | none => .next ((if st = 0 then s else s.kvReport d r (Config.kvCause st).toNat).freePort d)
          | some pa =>
            let s := s.wordError pa (portWho d).word
            let park := (s.wordMeta pa).full
            let (launch, pc) := (r.issuer.map (fun x => x.2)).getD (0, 0)
            let a : Access := { countAccess (portWho d) .stf pa r.repark (!park) with
              data := place st 56 ||| place r.moved 0, ord := .rel, launch := launch, pc := pc }
            .next ((if park then s.modKv d (fun r => { r with parked := true }) else s.freePort d).perform a)
    | none => .refused .notPending
/-- A bank's answer to a port that waits: it has the count word it asked for, or its completion word; woken, it asks or fills
again; refused, it reports and is free. -/
def State.portAnswer (s : State) (d : Nat) (x : Reply) : State :=
  match (s.district d).kv with
  | none => s
  | some r =>
    if !r.parked then s
    else
      match x with
      | .wake => s.modKv d (fun r => { r with parked := false, repark := true })
      | .fault cause _ _ _ _ => (s.kvReport d r cause).freePort d
      | .value _ _ => s.modKv d (fun r => { r with parked := false })
      | _ => s.freePort d

/-! ## PAGE_MOVE and holds (R332, R334) -/

/-- PAGE_MOVE: a block, numbered layer × NBLK + index, moves between HBM4E and LPDDR6 with its content and metadata under its
count word, and its entry is rewritten. Both take only a block of count 1; demotion takes none under a hold or of a request
in an open step, and does not wait for the count word; promotion takes none of a row between its step's close and its
commit; neither takes a pinned page (R326, R332, R333). -/
def execPageMove (r blk : Nat) (lpddr : Bool) (s : State) : Out :=
  let root := s.rootOf r
  let d := s.dir root
  let (l, b) := (blk / dirNblk d, blk % dirNblk d)
  let e := s.entry root l b
  let rci := entRci e
  let who := promoteWho rci
  let old := entLoc e
  if s.recCount ≤ r ∨ s.rget r rState = 0 ∨ dirLayers d ≤ l ∨ s.pinned old (rawSize d) ∨ s.inOpenStep r ∨ s.count rci ≠ 1 then
    .refused .notPending
  else
    let move (s : State) (tier addr : Nat) : State :=
      let e' := mkEntry tier (fld e 61 50) rci addr
      ((s.moveBlock old (entLoc e') (entBytes e)).setEntry root l b e').releaseCounts who
    if lpddr then
      match s.lpddrRoom with
      | some a =>
        if entTier e = 1 ∧ !s.chandler.holds.any (fun h => h.rci == rci) ∧ s.countAvail who rci then .next (move s 2 a)
        else .refused .notPending
      | none => .refused .notPending
    else
      match s.anyHbm with
      | some a =>
        if entTier e = 2 then
          match s.askCounts who [rci] with
          | (true, s) =>
            .next (modCh (fun c => if s.rget r rState = 4 then { c with promos := c.promos ++ [(r, rci)] } else c) (move s 1 a))
          | (false, s) => .next s
        else .refused .notPending
      | none => .refused .notPending
/-- PROMOTION_COMPLETE: the last block a suspended request waited for is resident; each one promoted for it is held, and the
request is ready (R334). -/
def execPromotionComplete (r : Nat) (s : State) : Out :=
  if s.recCount ≤ r ∨ s.rget r rState ≠ 4 ∨ (s.demoted (s.rootOf r)).isSome then .refused .notPending
  else
    let b := s.rget r rBind
    let mine := (s.chandler.promos.filter (fun p => p.1 == r)).map (fun p => (⟨b, r, p.2, 2⟩ : ResHold))
    .next ((modCh (fun c => { c with promos := c.promos.filter (fun p => p.1 != r), holds := c.holds ++ mine }) s).rset r
      rState 2)
/-- RESIDENCY_HOLD_EXPIRY: holds of a binding whose two deadlines have passed end (R334). -/
def execResidencyHoldExpiry (b : Nat) (s : State) : Out :=
  if s.chandler.holds.any (fun h => h.bind == b && h.left == 0) then
    .next (modCh (fun c => { c with holds := c.holds.filter (fun h => !(h.bind == b && h.left == 0)) }) s)
  else .refused .notPending

end Sys2Proof.Machine
end

