-- ==== Sys2Proof/Machine/Agent.lean ====
section
/-! DEFINITION. Agent programs (R298 to R306, R341 to R345): admission, the look-ahead and what lets a word issue, RESULT words,
the end of a program, its faults, and abandoning what it had in progress. -/

namespace Sys2Proof.Machine

/-! ## Programs -/

def State.prog (s : State) (p : Nat) : Option Program := mget s.chandler.programs p
def State.modProg (s : State) (p : Nat) (f : Program → Program) : State :=
  match s.prog p with
  | some g => modCh (fun c => { c with programs := mset c.programs p (f g) }) s
  | none => s
/-- An h register, and one written. -/
def Program.hreg (g : Program) (h : HReg) : Word := g.h[h.val]
def Program.setH (g : Program) (h : HReg) (v : Word) : Program := { g with h := g.h.set h.val v }
/-- The first word at an address removed, or changed. -/
def dropWord (a : Word) : List PWord → List PWord
  | [] => []
  | w :: r => if w.addr = a then r else w :: dropWord a r
def modWord (a : Word) (f : PWord → PWord) : List PWord → List PWord
  | [] => []
  | w :: r => if w.addr = a then f w :: r else w :: modWord a f r
/-- The instruction of a word of a look-ahead; none for an illegal word, or one whose fetch faulted. -/
def PWord.instr (w : PWord) : Option Instr := if w.fault.isSome then none else (decodeF w.bits.toNat).toOption
/-- Whether a word that has issued waits for room, or for count words, and goes again (R351, R353, R363, R326). -/
def PWord.retries (w : PWord) : Bool :=
  w.st == .issued && (match w.instr with
    | some (.cnew _) | some (.cfork _ _) => true
    | some (.choose ..) | some (.beam ..) | some (.cfree _) | some (.trunc _ _) => w.arg == 1
    | _ => false)
/-- Whether a word that has issued waits for the answer of its access, a program's one at a time (R348, R349). -/
def PWord.exchanging (w : PWord) : Bool :=
  w.st == .issued && (match w.instr with
    | some (.hld ..) | some (.hst ..) | some (.recv _ _) | some (.post _ _) => true
    | _ => false)
/-- The Chandler's location (R415). -/
def chandlerLoc : Nat := loc 11 0

/-! ## RESULT words (R299) -/

/-- RESULT filled with STF.rel; a full word parks the fill, which never times out, and a fault is logged. -/
def State.fillResult (s : State) (n : Nat) (va v : Word) (repark : Bool) : State :=
  match s.agAccess n .stf va 8 v.toNat repark true with
  | (none, s) => s
  | (some cause, s) =>
    (modCh (fun c => { c with results := mdel c.results n }) s).logEntry 3 false cause chandlerLoc 0 va
def State.writeResult (s : State) (va v : Word) : State :=
  if va = 0 then s
  else
    let n := 65538 + s.nextId
    ({ modCh (fun c => { c with results := mset c.results n (va, v) }) s with nextId := s.nextId + 1 }).fillResult n va v false
/-- STATUS and a word address. -/
def resultWord (status : Nat) (addr : Word) : Word := place status 56 ||| place (fld addr 55 0) 0

/-! ## Abandoning (R345) -/

/-- The records of the CHOOSE or BEAM that a record belongs to, by index, the first bound to the program. -/
def State.groupOf (s : State) (r : Nat) : List Nat :=
  ((s.chandler.groups.find? (fun p => p.2.contains r)).map (fun p => p.2)).getD [r]
def State.leaderOf (s : State) (r : Nat) : Nat := (s.groupOf r).headD r
/-- The count words that freeing the hidden records of a CHOOSE or BEAM changes. -/
def State.groupCounts (s : State) (r : Nat) : List Nat := s.countsOfAll ((s.groupOf r).drop 1)
/-- A CHOOSE or BEAM is over: its hidden records are freed (R329). -/
def State.dropGroup (s : State) (r : Nat) : State :=
  let hidden := (s.groupOf r).drop 1
  let s := hidden.foldl State.freeRecordOf s
  modCh (fun c => { c with groups := mdel c.groups (s.leaderOf r) }) s
/-- An instruction in progress abandoned: its record keeps its progress in STATE 1, its FCODE clears, its hidden records are
freed; one in STATE 5 stays (R345). -/
def State.abandonNow (s : State) (r : Nat) : State :=
  let s := s.dropGroup r
  let s := modCh (fun c => { c with shares := c.shares.filter (fun x => x.leader != r && x.follower != r) }) s
  if s.rget r rState = 5 ∨ s.rget r rState = 0 then s else s.rsets r [(rState, 1), (rFcode, 0), (rFstep, 0)]
/-- The next step boundary of its binding is now when no step is open, else its commit; it waits there for the count words
it needs (R326). -/
def State.abandonAt (s : State) (r : Nat) : State :=
  let b := s.rget r rBind
  let later (s : State) : State := modCh (fun c => { c with abandon := c.abandon ++ [(b, r)] }) s
  if ((s.bind b).map (fun x => x.isOpen)).getD false then later s
  else withCounts (actEnd r) (s.groupCounts r) (fun s => s.abandonNow r) later s
/-- The context registers an instruction names (R343). -/
def cNames : Instr → List CReg
  | .post _ c | .cnew c | .cfree c | .cwait c | .cbind c _ | .cset c _ _ | .cget _ c _ | .trunc c _ | .append c _ _ | .gen c _
  | .score c _ _ _ | .choose c _ _ _ | .beam c _ _ | .spec c _ _ => [c]
  | .cfork d c => [d, c]
  | _ => []
/-- Whether an instruction takes steps (R343). -/
def stepsOn : Instr → Option CReg
  | .append c _ _ | .gen c _ | .score c _ _ _ | .choose c _ _ _ | .beam c _ _ | .spec c _ _ => some c
  | _ => none
/-- Promotions that no request needs any more wait for no count word. -/
def State.dropPromotions (s : State) : State :=
  let wanted := s.promoWanted.map (fun p =>
    let root := s.rootOf p.1
    entRci (s.entry root (p.2 / dirNblk (s.dir root)) (p.2 % dirNblk (s.dir root))))
  let waits := (s.waiters.flatMap (fun p => p.2.map (fun x => x.acc.who)) ++ s.marks.filterMap (fun p => p.2.hold)).dedup
  waits.foldl (fun s w => match w with
    | .pager (n + 1) => if wanted.contains n then s else s.releaseCounts w
    | _ => s) s
/-- A program stops: what it had in progress is abandoned, a word that waits for room or for count words at once, an access that
waits is withdrawn, its place is free, and RESULT is filled. -/
def State.stopProgram (s : State) (p status : Nat) (addr : Word) : State :=
  match s.prog p with
  | none => s
  | some g =>
    let s := s.dropAllWaiters (fun x => decide (x.acc.who = .agent p))
    let s : State := { s with flight := s.flight.filter (fun f => match f.msg with
      | .unitReply w _ => decide (w ≠ .agent p)
      | _ => true) }
    let busy := (g.words.filter (fun w => w.st == .issued && !w.retries)).filterMap (fun w =>
      (w.instr.bind stepsOn).bind (fun c => s.ctxRecord g c))
    let asking := (g.words.filter PWord.retries).filterMap (fun w =>
      (w.instr.bind (fun i => match i with
        | .cfork _ c => some c
        | i => (cNames i).head?)).bind (fun c => s.ctxRecord g c))
    let s := busy.foldl State.abandonAt s
    let s := asking.foldl (fun s r => s.releaseCounts (countWho (actWord r))) s
    let s := if asking.isEmpty then s else s.dropPromotions
    (modCh (fun c => { c with programs := mdel c.programs p }) s).writeResult g.result (resultWord status addr)
/-- A PROGRAM FAULT: the error log names the program, the word and the cause, with the memory cause in bits 39:32 of WHO, and
the program stops (R344). -/
def State.programFault (s : State) (p : Nat) (addr : Word) (cause mem : Nat) : State :=
  match s.prog p with
  | none => s
  | some g =>
    (s.logEntry (if g.result = 0 then 3 else 0) false cause chandlerLoc (place mem 32 ||| place p 0) addr).stopProgram p 2 addr
/-- TKILL_OF_THE_PROGRAM: as a program fault with STATUS 2 and no cause (R367). -/
def execTkillOfTheProgram (p : Nat) (s : State) : Out :=
  if (s.prog p).isSome then .next (s.stopProgram p 2 0) else .refused .notPending

/-! ## Completing a word -/

/-- A word at an address is complete: it leaves the list, and its result register is written. -/
def State.completeAt (s : State) (p : Nat) (addr : Word) (w : Option (HReg × Word)) : State :=
  s.modProg p (fun g =>
    let g := { g with words := dropWord addr g.words }
    match w with
    | some (h, v) => g.setH h v
    | none => g)
/-- The word at issue completes. -/
def State.wordDone (s : State) (w : Option (HReg × Word)) : State :=
  match s.prog s.chandler.cur with
  | some g => s.completeAt s.chandler.cur g.atWord w
  | none => s
/-- The word at issue faults its program; one whose load must wait goes again. -/
def State.wordFault (s : State) (cause mem : Nat) : State :=
  match s.prog s.chandler.cur with
  | some g => if mem = agWaits then s else s.programFault s.chandler.cur g.atWord cause mem
  | none => s
/-- A body that needs a context register bound to a record whose RGEN still holds (R300); it reads the record. -/
def withCtx (g : Program) (c : CReg) (body : Nat → State → State) (s : State) : State :=
  match s.ctxRecord g c with
  | some r => body r (s.touchWords (s.recordAddr r) 32 (place s.chandler.cur 0))
  | none => s.wordFault 0x40 0

/-! ## What words read and write (R343) -/

def srcRegs : HSrc → List HReg
  | .reg h => [h]
  | .imm _ => []
def hReads : Instr → List HReg
  | .hmov _ x => srcRegs x
  | .hadd _ a x | .hsub _ a x | .hcmp _ _ a x => a :: srcRegs x
  | .hbr a _ | .hld _ a _ | .recv _ a | .post a _ | .cbind _ a | .cset _ a _ | .trunc _ a | .gen _ a => [a]
  | .hst v a _ => [a, v]
  | .append _ a n | .score _ a n _ | .choose _ a n _ | .beam _ a n | .spec _ a n => [a, n]
  | _ => []
/-- The word at issue has issued and is not complete: the h registers it reads are read (R305). `arg` is 1 for one that waits
for room or for count words, and the address of a RECV or POST. -/
def State.wordIssued (s : State) (arg : Word) : State :=
  s.modProg s.chandler.cur (fun g => { g with words := modWord g.atWord (fun w => { w with
    st := .issued
    arg := arg
    ops := if w.st == .issued then w.ops else ((w.instr.map hReads).getD []).map g.hreg }) g.words })
/-- The same for a CHOOSE, which has read its table and its tokens, and reads them no more (R367). -/
def State.wordRead (s : State) (toks : List (List Nat)) : State :=
  (s.modProg s.chandler.cur (fun g => { g with words := modWord g.atWord (fun w => { w with toks := toks }) g.words })).wordIssued 1
/-- The tokens that the word at issue has read, when it goes again. -/
def Program.tokensRead (g : Program) : Option (List (List Nat)) :=
  match g.words.find? (fun w => w.addr == g.atWord) with
  | some w => if w.retries then some w.toks else none
  | none => none
/-- A program as its word at issue reads it: one that has issued and goes again has its operands already. -/
def Program.asIssued (g : Program) : Program :=
  match g.words.find? (fun w => w.addr == g.atWord) with
  | some w => (((w.instr.map hReads).getD []).zip w.ops).foldl (fun g p => g.setH p.1 p.2) g
  | none => g
/-- A Fendouk instruction acts for the program whose word is at issue. -/
def inProgram (body : Program → State → State) (s : State) : Out :=
  match s.prog s.chandler.cur with
  | some g => .next (body g.asIssued s)
  | none => .refused .notPending
def hWrites : Instr → List HReg
  | .hmov d _ | .hadd d _ _ | .hsub d _ _ | .hcmp _ d _ _ | .hld d _ _ | .recv d _ | .cget d _ _ | .gen _ d
  | .score _ _ _ d | .choose _ _ _ d | .beam _ _ d | .spec _ _ d => [d]
  | _ => []
def readsMemory : Instr → Bool
  | .hld .. | .recv .. | .append .. | .score .. | .choose .. | .beam .. | .spec .. => true
  | _ => false
def writesMemory : Instr → Bool
  | .hst .. | .recv .. | .post .. | .choose .. | .beam .. | .spec .. => true
  | _ => false

/-- Whether an earlier word that is not complete holds a word back (R305, R350, R90). -/
def PWord.holds (e : PWord) (i : Instr) : Bool :=
  match e.instr with
  | none => true
  | some .yield | some (.cwait _) | some .halt => true
  | some j =>
    (hReads i ++ hWrites i).any (fun h => (hWrites j).contains h) ||
    (e.st == .waiting && (hWrites i).any (fun h => (hReads j).contains h)) ||
    (cNames i).any (fun c => (cNames j).contains c) ||
    (readsMemory i && writesMemory j) || (writesMemory i && (readsMemory j || writesMemory j))
/-- The one of them that goes again in a cycle: each in turn, in every second cycle, so that later words go on. -/
def State.retryTurn (s : State) (g : Program) : Option PWord :=
  let l := g.words.filter PWord.retries
  if s.cycle % 2 = 0 then l[s.cycle / 2 % l.length]? else none
/-- Whether a record that a word acts on stands in an open step, for the words that R303 holds back. -/
def State.heldByStep (s : State) (g : Program) (i : Instr) : Bool :=
  match i with
  | .cset c _ _ | .cget _ c _ | .cfree c | .trunc c _ => ((s.ctxRecord g c).map s.inOpenStep).getD false
  | _ => false
/-- Whether a word issues, after the words before it. An illegal word takes its turn when each of those has issued (R90). -/
def State.canIssue (s : State) (g : Program) (pre : List PWord) (w : PWord) : Bool :=
  match w.st, w.instr with
  | .issued, _ => s.retryTurn g == some w
  | .waiting, none => pre.all (fun e => e.st == .issued)
  | .waiting, some .halt | .waiting, some .yield => pre.isEmpty
  | .waiting, some i => pre.all (fun e => !e.holds i) && !s.heldByStep g i && (match i with
    | .hld .. | .hst .. | .recv .. | .post .. => !g.words.any PWord.exchanging
    | _ => true)
/-- The first word of a list that issues. -/
def State.firstIssue (s : State) (g : Program) : List PWord → List PWord → Option PWord
  | _, [] => none
  | pre, w :: r => if s.canIssue g pre w then some w else s.firstIssue g (pre ++ [w]) r

/-! ## The look-ahead (R304) -/

/-- Words read until eight wait, or the look-ahead stops. -/
def State.fillAhead (s : State) (p : Nat) : Nat → State
  | 0 => s
  | n + 1 =>
    match s.prog p with
    | none => s
    | some g =>
      if g.fetchStop || decide (8 ≤ (g.words.filter (fun w => w.st == .waiting)).length) then s
      else
        let add (bits : Word) (fault : Option Nat) (next : Word) (stop : Bool) (s : State) : State :=
          (s.modProg p (fun g => { g with
            words := g.words ++ [⟨g.pc, bits, .waiting, fault, 0, [], []⟩], pc := next, fetchStop := stop })).fillAhead p n
        match s.agLoad g.pc 8 with
        | (.error cause, s) => if cause = agWaits then s else add 0 (some cause) g.pc true s
        | (.ok v, s) =>
          let v := BitVec.ofNat 64 v
          let jump (off : BitVec 32) : Word := g.pc + off.signExtend 64 * 8
          match decodeF v.toNat with
          | .error _ | .ok .halt => add v none (g.pc + 8) true s
          | .ok (.hjmp off) => add v none (jump off) false s
          | .ok (.hbr a off) =>
            if g.words.any (fun w => ((w.instr.map hWrites).getD []).contains a) then add v none (g.pc + 8) true s
            else add v none (if g.hreg a = 0 then g.pc + 8 else jump off) false s
          | .ok _ => add v none (g.pc + 8) false s

/-- The next word a program would issue, with the look-ahead filled and the program at issue. -/
def State.programTurn (s : State) (p : Nat) : Option PWord × State :=
  let s := s.fillAhead p 8
  match s.prog p with
  | none => (none, s)
  | some g =>
    match s.firstIssue g [] g.words with
    | none => (none, s)
    | some w => (some w, (modCh (fun c => { c with cur := p }) s).modProg p (fun g => { g with atWord := w.addr }))
/-- ILLEGAL_WORD_TURN: an illegal word's turn stops its program with the lowest cause that applies (R90), and a word whose
fetch faulted with cause 0x42 (R347). -/
def execIllegalWordTurn (s : State) : Out :=
  let p := s.chandler.cur
  match s.prog p with
  | none => .refused .notPending
  | some g =>
    match s.firstIssue g [] g.words with
    | none => .refused .notPending
    | some w =>
      match w.fault, decodeF w.bits.toNat with
      | some mem, _ => .next (s.programFault p w.addr 0x42 mem)
      | none, .error cause => .next (s.programFault p w.addr cause.code 0)
      | none, .ok _ => .refused .notPending

/-! ## Admission (R298, R299) -/

/-- Whether a descriptor breaks R299. -/
def State.descBad (s : State) (w : List Word) : Bool :=
  fld (wordAt w 0) 63 56 != 0 || fld (wordAt w 0) 2 0 != 0 || wordAt w 1 &&& ~~~0xFFFF03F00000#64 != 0
    || fld (wordAt w 2) 63 56 != 0 || fld (wordAt w 2) 2 0 != 0 || wordAt w 3 != 0
    || decide (s.bindCount ≤ fld (wordAt w 1) 47 32)
/-- A program admitted from its descriptor. -/
def newProgram (addr : Word) (w : List Word) : Program where
  desc := addr
  bind := fld (wordAt w 1) 47 32
  pclass := BitVec.ofNat 2 (fld (wordAt w 1) 25 24)
  eclass := BitVec.ofNat 4 (fld (wordAt w 1) 23 20)
  result := wordAt w 2
  h := vecOf 16 (fun i => if i = 0 then addr else if i < 5 then wordAt w (3 + i) else 0)
  c := Vector.replicate 16 none
  pc := wordAt w 0
  fetchStop := false
  words := []
  atWord := 0
/-- The next admission word that is full, from the rotation's place on. -/
def State.admissionWord (s : State) : Option Nat :=
  ((List.range s.admCount).map (fun k => (s.chandler.rotation + k) % s.admCount)).find? (fun i =>
    match s.agAddr .store (s.admBase + BitVec.ofNat 64 (8 * i)) with
    | .ok pa => hasMeta pa && (s.wordMeta (wordOfAddr pa)).full
    | .error _ => false)
/-- AGENT_ADMISSION: the next full admission word is consumed with LDC, and its program admitted, or not (R298, R299). -/
def execAgentAdmission (s : State) : Out :=
  if s.chandler.config.isNone ∨ s.chandler.paused ∨ 65536 ≤ s.chandler.programs.length then .refused .notPending
  else
    match s.admissionWord with
    | none => .refused .notPending
    | some i =>
      let va := s.admBase + BitVec.ofNat 64 (8 * i)
      let value := (s.agLoad va 8).1
      let s := (s.agAccess chandlerWho .ldc va 8 0 false false).2
      let s := modCh (fun c => { c with rotation := (i + 1) % s.admCount }) s
      let drop (cause : Nat) (what : Word) : Out := .next (s.logEntry 3 false cause chandlerLoc (BitVec.ofNat 64 i) what)
      match value with
      | .error _ => drop 0x41 0
      | .ok v =>
        let addr := BitVec.ofNat 64 v
        if v = 0 ∨ v % 64 ≠ 0 ∨ fld addr 63 56 ≠ 0 then drop 0x41 addr
        else
          match s.agLoads addr 8 8 with
          | (.error cause, s) =>
            if cause = agWaits then .refused .notPending
            else .next (s.logEntry 3 false cause chandlerLoc (BitVec.ofNat 64 i) addr)
          | (.ok l, s) =>
            let w := l.map (fun n => BitVec.ofNat 64 n)
            if s.descBad w then
              .next ((s.logEntry 0 false 0x41 chandlerLoc 0 addr).writeResult (place (fld (wordAt w 2) 55 3) 3) (resultWord 3 0))
            else
              match lowest 65536 (fun p => (s.prog p).isNone) with
              | some p => .next (modCh (fun c => { c with programs := mset c.programs p (newProgram addr w) }) s)
              | none => .next s

end Sys2Proof.Machine
end

