-- ==== Sys2Proof/Machine/Control.lean ====
section
/-! DEFINITION. The transfers of control (R107 to R110) and SIG (R113, R114). EXIT is with the threads' ends. -/

namespace Sys2Proof.Machine

/-- The link register g28 (R107). -/
def linkReg : Reg := 28

/-- BR, taken when its guard is true (R107). -/
def execBr (off : Imm 22) (g : PReg) (s : State) : Out :=
  .next (guarded g (fun s => transfer (relTarget s.iss.pc off) s) s)

/-- JMP replaces bits of the bundle's address (R107, R76). -/
def execJmp (off : Imm 22) (g : PReg) (s : State) : Out :=
  .next (guarded g (fun s => transfer (jmpTarget s.iss.pc off) s) s)

/-- CALL writes the link to g28 (R107). -/
def execCall (off : Imm 22) (g : PReg) (s : State) : Out :=
  .next (guarded g (fun s => transfer (relTarget s.iss.pc off) (writeReg linkReg (s.iss.pc + 8) false s)) s)

/-- LOOP decrements ga and branches while it is not 0; a poisoned ga traps, because it is branched on (R108, R110). -/
def execLoop (a : Reg) (off : Imm 17) (g : PReg) (s : State) : Out :=
  .next (guarded g (needs [a] (clean [(a, 1)] fun s =>
    let v := s.iss.snap.reg a
    if v = 0 then s
    else
      let s := writeReg a (v - 1) false s
      if v - 1 = 0 then s else transfer (relTarget s.iss.pc off) s)) s)

/-- A transfer to the address in a register: a poisoned one traps with a poison message, one with a bit of 2:0 set with a
misaligned-target message that carries the target (R109). Of a target that is both, the poison message goes (DEDUCED: log
entry 78). -/
def jumpTo (a : Reg) (k : State → State) (s : State) : State :=
  needs [a] (clean [(a, 5)] fun s =>
    let target := s.iss.snap.reg a
    if fld target 2 0 = 0 then transfer target (k s) else trap { cause := 0x11, va := target } s) s

/-- JMPR (R107, R109). -/
def execJmpr (a : Reg) (g : PReg) (s : State) : Out := .next (guarded g (jumpTo a id) s)

/-- CALLR reads its target before it writes the link to g28 (R109). -/
def execCallr (a : Reg) (g : PReg) (s : State) : Out :=
  .next (guarded g (jumpTo a (fun s => writeReg linkReg (s.iss.pc + 8) false s)) s)

/-- RET transfers to the address in g28 (R107, R109). -/
def execRet (g : PReg) (s : State) : Out := .next (guarded g (jumpTo linkReg id) s)

/-! ## Block signatures -/

/-- One round of the running hash (R113). -/
def hashRound (st : BitVec 32) (x : BitVec 32) : BitVec 32 :=
  let m := (st ^^^ x) * 0x6C8E9CF5#32
  m ^^^ (m >>> 15)
/-- STATE after a bundle that takes effect: its two slot words, whether the A guard read true, whether it transferred
control (R113). -/
def hashBundle (st : BitVec 32) (aslot vslot : BitVec 32) (ga tk : Bool) : BitVec 32 :=
  hashRound (hashRound (hashRound st aslot) vslot) (BitVec.ofNat 32 (b2n ga + 2 * b2n tk))
/-- The signature SIG computes from STATE (R114). -/
def sigComputed (st : BitVec 32) : BitVec 22 := BitVec.ofNat 22 ((st ^^^ (st >>> 22)).toNat)

/-- SIG checks the hash of the block before it and opens a new block, whatever its guard holds; a mismatch detaches the
thread with a signature message once the bundle has taken effect, and writes an error-log entry naming the core (R114,
R403). -/
def execSig (sg : BitVec 22) (_g : PReg) (s : State) : Out :=
  let old := s.iss.snap.sig
  let computed := sigComputed old.state
  let s1 := live (fun th => { th with sig := ⟨0, sg, true⟩ }) s
  .next (if old.pv && computed != old.exp then
      trapTook { cause := 0x13, va := place old.exp.toNat 0, vb := place computed.toNat 0 }
        (s1.logEntry 2 false 0x13 (coreLoc s.iss.core) s.issName.word s.iss.pc)
    else s1)

end Sys2Proof.Machine
end

