-- ==== Sys2Proof/Machine/Growth.lean ====
section
/-! DEFINITION. Stack growth by the service firmware of a district (R283, R284). -/

namespace Sys2Proof.Machine

/-! ## Reservations (R283) -/

/-- Whether a launch's stacks grow. -/
def growing (w : List Word) : Bool :=
  decide ((wordAt w 6).toNat % 0x10000 = 0) && decide (0x1000000 ≤ (wordAt w 6).toNat) &&
    decide ((wordAt w 7).toNat % 0x10000 = 0) && decide (0x20000 ≤ (wordAt w 7).toNat)
/-- The threads of a launch's shape. -/
def recThreads (w : List Word) : Nat := recDies w * recDist w * recClus w * recCores w * recThr w
/-- The lower end of the reservation of a launch that holds an address; it may lie below address 0. -/
def reservation (w : List Word) (va : Nat) : Option Int :=
  let top := (wordAt w 6).toNat
  let step := (wordAt w 7).toNat
  let i := (top - 1 - va) / step
  if growing w && decide (va < top) && decide (i < recThreads w) then some ((top : Int) - (i + 1) * step) else none

/-! ## Pages and tables (R284) -/

/-- Whether a table entry, read as one of any level, names a page, or lies in the page it maps: 64 KiB, 2 MiB or 1 GiB
(R160). -/
def entryNames (e : Word) (a : Nat) : Bool :=
  let t := fld e 51 8 * 256
  let within (lg : Nat) : Bool := t % 2 ^ lg == 0 && t / 2 ^ lg == a / 2 ^ lg
  fld e 63 62 != 0 && (t / 2 ^ 16 == a / 2 ^ 16 || (fld e 63 62 == 2 && (within 21 || within 30)))
/-- The spaces that some thread, launch, record, port or the Chandler uses (R159). -/
def State.spaces (s : State) : List Word :=
  s.threads.map (fun p => p.2.space) ++ s.launches.map (fun p => p.2.space) ++ s.queues.toList.flatten.map (fun r => r.space) ++
    s.cwords.map (fun c => c.space) ++ s.fmbxQueue.map (fun r => r.space) ++ s.ports.toList.map (fun p => p.pwspace) ++
    [s.agSpace]
/-- Whether a page of device memory is free: its words are as after reset, no entry in memory maps or names it, no space has
its root table there, and no unit keeps its own data there: blocks, directories and strings, count words, records, vigil
areas (log entry 28). -/
def State.pageFree (s : State) (a : Nat) : Bool :=
  let inside (k : Nat) : Bool := decide (a ≤ k) && decide (k < a + 65536)
  let apart (base n : Nat) : Bool := decide (a + 65536 ≤ base) || decide (base + n ≤ a)
  !s.mem.any (fun p => inside p.1 || entryNames (s.readWord (wordOfAddr p.1)) a) &&
    !s.spaces.any (fun w => fld w 39 0 != 0 && inside (fld w 39 0 * 4096)) &&
    !s.marks.any (fun p => inside p.1) && !s.waiters.any (fun p => inside p.1) &&
    apart (heapAt 0) heapLimit && s.chandler.kvRaw.all (fun p => apart p.1 p.2.1.length) && apart lpddrBase 0x800000 &&
    apart (s.recordAddr 0) (256 * s.recCount) &&
    s.districts.all (fun p => apart (vigilAddr p.2 0) (32 * fld p.2.vigctl 23 0))
/-- The first free page of a memory, from a number on. -/
def State.freePage (s : State) (base pages n : Nat) : Option Nat :=
  let at' (k : Nat) : Nat := base + (n + k) % pages * 65536
  (lowest pages (fun k => s.pageFree (at' k))).map at'
/-- A page of device memory the firmware takes for a die: of its HBM4E stack, else of LPDDR6; which one is free, and whether it
has one. A free page holds zero words, full and unpoisoned, with no waiter and no HOLD. -/
def State.growPage (s : State) (die : Nat) : Option (Nat × State) :=
  let stack := (Config.hbmPage s.fresh).bind (s.freePage (die * 2 ^ 36) 786432)
  let page := match stack with
    | some a => some a
    | none => (Config.lpddrPage s.fresh).bind (s.freePage (2 ^ 40) 12582912)
  page.map (fun a => (a, s.bump))
/-- A page's leaf entry: TYPE 10, USR and W set, X clear (R160, R284). -/
def growLeaf (a : Nat) : Word := place 2 62 ||| place 1 61 ||| place 1 59 ||| place a 0
/-- A leaf for a page written into the tables below an entry's table, with the tables that are missing; none when no page
can be had, or the tables hold another kind of entry. -/
def State.mapPage (s : State) (die va : Nat) : List (Nat × Nat) → Nat → Option State
  | [], _ => none
  | (lo, n) :: rest, table =>
    let at' := table + va / 2 ^ lo % n * 8
    let e := s.readWord at'
    if rest.isEmpty then
      if fld e 63 62 ≠ 0 then none
      else (s.growPage die).map (fun (a, s) => s.storeWord at' (growLeaf a))
    else if fld e 63 62 = 1 then s.mapPage die va rest (fld e 51 8 * 256)
    else if fld e 63 62 = 0 then
      (s.growPage die).bind (fun (a, s) => (s.storeWord at' (place 1 62 ||| place a 0)).mapPage die va rest a)
    else none

/-! ## STACK_GROWTH (R284) -/

/-- A message record as the firmware reads it: class, cause, ENG and the engine or thread, VA and LAUNCHID (R395). -/
def recName (r : Record) : TName := ⟨fld r[0] 16 3, fld r[0] 2 0, BitVec.ofNat 12 (fld r[0] 28 17)⟩
def recEng (r : Record) : Bool := bit r[0] 35
/-- The fault that a copy engine or matrix unit holds its command on. -/
def State.heldOn (s : State) (n : Nat) : Option HeldFault :=
  if n < 2048 then (s.cluster n).copy.run.bind (fun r => r.held)
  else if n < 4096 then (s.cluster (n - 2048)).mat.run.bind (fun r => r.held)
  else none
/-- Whether a record is a translation fault in a growing reservation of its launch: a trap, or the fault that a copy or matrix
store is held on. -/
def State.growRecord (s : State) (r : Record) : Option (Launch × Int) :=
  let held := decide (fld r[0] 63 60 = 2) && recEng r &&
    ((s.heldOn (fld r[0] 13 0)).map (fun h => h.cause == 0x20 && h.va == r[2])).getD false
  if fld r[0] 59 52 ≠ 0x20 ∨ bit r[0] 34 ∨ !(decide (fld r[0] 63 60 = 1) || held) then none
  else (s.launchOf r[4]).bind (fun l => (reservation l.words r[2].toNat).map (fun base => (l, base)))
/-- The firmware's answer: the access, or the held command, goes on (R284). -/
def State.growRetry (s : State) (r : Record) : State :=
  if recEng r then (s.doResumeEngine (fld r[0] 13 0) 0).2
  else
    match s.named (recName r) with
    | some th => (s.doTresume (recName r).core (recName r).slot th 0 0).2
    | none => s
/-- The command word of an engine's held command. -/
def State.heldWord (s : State) (n : Nat) : Word :=
  if n < 2048 then (((s.cluster n).copy.run).map (fun r => r.cmd.word)).getD 0
  else (((s.cluster (n - 2048)).mat.run).map (fun r => r.cmd.word)).getD 0
/-- The stack-overflow fault sent to the launch, the thread or engine not being resumed (R284): the record of an asynchronous
fault, with the operation, command word and progress of a held engine's command (R396). -/
def State.stackOverflow (s : State) (r : Record) : State :=
  let eng := recEng r
  let n : TName := if eng then ⟨fld r[6] 16 3, fld r[6] 2 0, BitVec.ofNat 12 (fld r[6] 28 17)⟩ else recName r
  s.sendAsync n r[4] {
    cls := 2, cause := 0x32, detail := if eng then fld r[0] 39 36 else 0, eng := eng, name := fld r[0] 28 0, pc := r[1]
    va := if eng then s.heldWord (fld r[0] 13 0) else r[2], vb := if eng then r[7] else 0, launch := r[4], time := s.cycle
    vc := n.word, vd := r[2] }
/-- The die of what faulted. -/
def recDie (r : Record) : Nat := if recEng r then districtOfCluster (fld r[0] 13 0 % 2048) / 16 else dieOf (recName r).core
/-- STACK_GROWTH: the firmware of the lowest district whose service mailbox holds a fault in a growing reservation takes the
oldest such record. A fault in the guard page, or for which no page can be had, is a stack overflow of the launch;
otherwise a page is mapped, unless one is by now, and the access goes again (R284). -/
def execStackGrowth (s : State) : Out :=
  let found := (List.range 128).findSome? (fun d =>
    ((s.core (svcBase + d)).mailbox.findSome? (fun r => (s.growRecord r).map (fun p => (r, p)))).map (fun x => (d, x)))
  match found with
  | none => .refused .notPending
  | some (d, r, l, base) =>
    let s := s.modCore (svcBase + d) (fun k => { k with mailbox := k.mailbox.erase r })
    let s := s.touchWalk l.space r[2].toNat
    let va := r[2].toNat
    if (va : Int) < base + 0x10000 ∨ fld l.space 39 0 = 0 then .next (s.stackOverflow r)
    else
      match s.walk l.space va with
      | .ok _ => .next (s.growRetry r)
      | .error _ =>
        match s.mapPage (recDie r) va walkLevels (fld l.space 39 0 * 4096) with
        | some s => .next (s.growRetry r)
        | none => .next (s.stackOverflow r)

end Sys2Proof.Machine
end

