-- ==== Sys2Proof/Machine/Host.lean ====
section
/-! DEFINITION. The host port's window (R375 to R381) and the Beacon links (R383 to R387, R210): host accesses through the
three views, remote accesses at their receiver, refusals, and links that train or fall. -/

namespace Sys2Proof.Machine

/-! ## The host port (R377 to R380) -/

/-- The host port, changed. -/
def modHost (f : HostPort → HostPort) (s : State) : State := { s with host := f s.host }
/-- HPSTAT (R380). -/
def hpstatWord (h : HostPort) : Word :=
  place h.refcnt.toNat 48 ||| place h.reason.toNat 44 ||| place h.raddr.toNat 3 ||| place (b2n (decide (64 ≤ h.fills.length))) 0
/-- A refusal recorded in HPSTAT (R380). -/
def State.hostRefuse (s : State) (off reason : Nat) : State :=
  modHost (fun h => { h with
    refcnt := if h.refcnt = BitVec.allOnes 16 then h.refcnt else h.refcnt + 1
    reason := BitVec.ofNat 4 reason
    raddr := BitVec.ofNat 39 (off / 8) }) s
/-- The physical address of a window offset (R377). -/
def State.hostPa (s : State) (off : Nat) : Nat :=
  fld (s.host.hwseg.toList.getD (bits off 36 5) 0) 51 36 * 2 ^ 36 + bits off 0 36
/-- The port's tests of an access, in the order of R380: EMBER, the view, the segment, the address, the size and the value
of a write, and the word's state. -/
def State.hostReason (s : State) (off size : Nat) (whole state badValue : Bool) : Option Nat :=
  if s.power = .ember then some 7
  else if bits off 41 2 = 3 then some 3
  else if !bit (s.host.hwseg.toList.getD (bits off 36 5) 0) 0 then some 1
  else if regionOf (s.hostPa off) = .absent then some 2
  else if whole && (decide (off % 8 ≠ 0) || decide (size ≠ 8)) then some 4
  else if badValue then some 6
  else if state && !hasMeta (s.hostPa off) then some 8
  else none
/-- A word of the read that the port is at, and the read answered once its last word is there (R378). -/
def hostAnswer (v : Word) (x : Bool) (s : State) : State := modHost (fun h => { h with part := h.part ++ [(v, x)] }) s
def hostReadDone (s : State) : State := modHost (fun h => { h with answer := h.part, part := [] }) s
/-- The row of a request: its view and kind, and for a state write the value of its first word; one with the reserved view
counts as plain. -/
def HostReq.row : HostReq → Nat
  | .read off _ =>
    match bits off 41 2 with
    | 1 => 2
    | 2 => 4
    | _ => 0
  | .write off size v =>
    match bits off 41 2 with
    | 1 => 3
    | 2 => let v := v % 2 ^ (8 * min size (8 - off % 8))
           if v = 1 then 5 else if v = 2 then 6 else 7
    | _ => 1
/-- What a request leaves when its first `n` bytes are handled. -/
def HostReq.after (n : Nat) : HostReq → HostReq
  | .read off size => .read (off + n) (size - n)
  | .write off size v => .write (off + n) (size - n) (v / 2 ^ (8 * n))
/-- The offset, size and value of a request; a read's value is 0. -/
def HostReq.parts : HostReq → Nat × Nat × Nat
  | .read off size => (off, size, 0)
  | .write off size v => (off, size, v)
/-- The oldest request of the host, when it is of a row, the link is up, the module is on (R210, R440), and every store that the
port has made before it has performed (R378, R379). -/
def State.hostHead (s : State) (row : Nat) : Option HostReq :=
  match s.host.requests with
  | r :: _ =>
    if r.row = row ∧ s.host.trained = true ∧ s.power ≠ .dark ∧ s.postedBy (.host 0) (fun _ => true) = false then some r else none
  | [] => none
/-- The port handles the first word of its oldest request; the rest of the request stays first, so words go in ascending
order and requests in the order received (R378). A refused read answers zeros (R380). `whole` marks a request for whole
words, `state` one for full/empty state. A read that waits at a peer's word stays where it is. -/
def hostRequest (row : Nat) (read whole state : Bool) (bad : Word → Bool) (body : Nat → Nat → Word → State → Option State)
    (s : State) : Out :=
  match s.hostHead row with
  | none => .refused .notPending
  | some r =>
    let (off, size, v) := r.parts
    let n := min size (8 - off % 8)
    let v := BitVec.ofNat 64 (v % 2 ^ (8 * n))
    let last := decide (size ≤ n)
    let s1 := modHost (fun h => { h with requests := (if last then [] else [r.after n]) ++ h.requests.drop 1 }) s
    let close (s : State) : Out := .next (if read && last then hostReadDone s else s)
    match s.hostReason off n whole state (bad v) with
    | some reason => close ((if read then hostAnswer 0 false s1 else s1).hostRefuse off reason)
    | none =>
      match body off n v s1 with
      | some s2 => close s2
      | none => .next s
/-- The access of the host port to a word: the place of its fill, its form and value. It is made with supervisor rights. -/
def hostAccess (fill : Nat) (f : Form) (off pa n : Nat) (v : Word) (posted : Bool) : Access where
  form := f
  va := BitVec.ofNat 64 off
  pa := pa
  size := n
  data := v
  who := .host fill
  ord := .sc
  scope := .system
  repark := false
  posted := posted
  sup := true
  launch := 0
  opened := 0
  poison := false
  pc := 0
/-- An access of a unit that stands at no bank's path: it performs at once, or goes to the registers and to the host's
memory as a store of any issuer does. -/
def State.performNow (s : State) (a : Access) : State :=
  match s.wayBlocked a.pa with
  | some cause => s.refuseAt a cause
  | none => s.storeNow a
/-- A host read as LD (R379): bytes of one word, poisoned data marked; none when it waits at a peer's word (log entry 5). -/
def State.hostLoad (s : State) (off n : Nat) : Option State :=
  let pa := s.hostPa off
  match s.wayBlocked pa with
  | some _ => some (hostAnswer 0 false s)
  | none =>
    match s.readNow (hostAccess 0 .ld off pa n 0 false) with
    | (.value v _ x, s) => some (hostAnswer v x s)
    | (.parks _, _) => none
    | (.refused _, s) => some (hostAnswer 0 false s)

/-- Whatever the value of a write. -/
def anyValue (_ : Word) : Bool := false
/-- HOST_PLAIN_READ: as LD (R379). -/
def execHostPlainRead (s : State) : Out := hostRequest 0 true false false anyValue (fun off n _ s => s.hostLoad off n) s
/-- HOST_PLAIN_WRITE: as ST (R379). -/
def execHostPlainWrite (s : State) : Out :=
  hostRequest 1 false false false anyValue (fun off n v s =>
    let a := hostAccess 0 .st off (s.hostPa off) n v true
    some (if regionOf a.pa = .host then s.busWrite a.pa n v.toNat else s.performNow a)) s
/-- HOST_FILL_READ: as LD (R379). -/
def execHostFillRead (s : State) : Out := hostRequest 2 true false false anyValue (fun off n _ s => s.hostLoad off n) s
/-- The lowest free place of the fill queue (R379). -/
def State.fillPlace (s : State) : Option Nat := (lowest 64 (fun i => (mget s.host.fills (i + 1)).isNone)).map (fun i => i + 1)
/-- A fill write: it performs when the word is empty; else it takes a place of the queue and parks, or is refused with REASON
5 (R379, R380). -/
def State.hostFill (s : State) (off : Nat) (value : Word) : State :=
  let pa := s.hostPa off
  match s.wayBlocked pa with
  | some _ => s
  | none =>
    let s := s.wordError pa
    if !(s.wordMeta pa).full then s.perform (hostAccess 0 .stf off pa 8 value true)
    else
      match s.fillPlace with
      | none => s.hostRefuse off 5
      | some i =>
        let a := hostAccess i .stf off pa 8 value false
        (modHost (fun h => { h with fills := mset h.fills i ⟨a, 2 ^ 20⟩ }) s).park a
/-- HOST_FILL_WRITE: as STF.rel at .system (R379). -/
def execHostFillWrite (s : State) : Out := hostRequest 3 false true true anyValue (fun off _ v s => some (s.hostFill off v)) s
/-- A parked fill hears of its access: it has performed, is woken and goes again, or has faulted, which the port logs. -/
def State.fillAnswer (s : State) (i : Nat) (r : Reply) : State :=
  match mget s.host.fills i, r with
  | none, _ => s
  | some f, .wake => s.perform { f.acc with repark := true }
  | some f, .fault cause _ _ _ _ =>
    (modHost (fun h => { h with fills := mdel h.fills i }) s).logEntry 3 false cause (loc 12 0) 0 (BitVec.ofNat 64 f.acc.pa)
  | some _, _ => modHost (fun h => { h with fills := mdel h.fills i }) s
/-- The state of a word as the state view reads it (R379). -/
def State.stateBits (s : State) (w : Nat) : Word :=
  let m := s.wordMeta w
  place (b2n m.full) 0 ||| place (b2n m.poison) 1 ||| place (b2n m.hold.isSome) 2 ||| place (b2n (!(s.waitersAt w).isEmpty)) 3
/-- HOST_STATE_READ (R379). -/
def execHostStateRead (s : State) : Out :=
  hostRequest 4 true false true anyValue (fun off n _ s =>
    some (hostAnswer
      (BitVec.ofNat 64 (bits (s.stateBits (wordOfAddr (s.hostPa off))).toNat (off % 8 * 8) (8 * n))) false s)) s
/-- A state-view write that sets F as FEST does (R379). -/
def hostFest (full : Bool) (off : Nat) (s : State) : State := s.performNow (hostAccess 0 (.fest full) off (s.hostPa off) 8 0 true)
/-- HOST_STATE_WRITE_EMPTY: a write of 1 acts as FEST 0 (R379). -/
def execHostStateWriteEmpty (s : State) : Out := hostRequest 5 false true true anyValue (fun off _ _ s => some (hostFest false off s)) s
/-- HOST_STATE_WRITE_FULL: a write of 2 acts as FEST 1 (R379). -/
def execHostStateWriteFull (s : State) : Out := hostRequest 6 false true true anyValue (fun off _ _ s => some (hostFest true off s)) s
/-- HOST_STATE_WRITE_NONE: a write of 0 does nothing, and one of a value above 2 is refused with REASON 6 (R379, R380). -/
def execHostStateWriteNone (s : State) : Out := hostRequest 7 false true true (fun v => decide (v ≠ 0)) (fun _ _ _ s => some s) s
/-- HOST_SNOOP: answered with a miss; the device holds no cached line (R376). -/
def execHostSnoop (s : State) : Out := .next s

/-! ## Links (R210) -/

/-- HOST_LINK_TRAINED (R210). -/
def execHostLinkTrained (s : State) : Out :=
  if s.power = .dark ∨ s.host.trained then .refused .notPending else .next (modHost (fun h => { h with trained := true }) s)
/-- HOST_PORT_LINK_DOWN: HOSTAT reads 0 until the link trains again (R210). -/
def execHostPortLinkDown (s : State) : Out :=
  if s.host.trained then .next (modHost (fun h => { h with trained := false }) s) else .refused .notPending
/-- Whether a port's link is up. -/
def State.portUp (s : State) (p : Nat) : Bool := (s.ports.toList[p]?.map (fun q => q.up)).getD false
/-- BEACON_LINK_TRAINED (R210). -/
def execBeaconLinkTrained (p : Fin 8) (s : State) : Out :=
  if s.power = .dark ∨ s.portUp p.val then .refused .notPending else .next (s.modPort p.val (fun q => { q with up := true }))

/-- An access, on its way or parked, that a fallen link answers with cause 0x37; a posted store is dropped and its sender's
thread told (R387). -/
def State.linkFault (s : State) (a : Access) : State := s.refuseAt a 0x37
/-- Whether an address lies behind a port. -/
def behind (p pa : Nat) : Bool :=
  match regionOf pa with
  | .peer q => q == p
  | _ => false
/-- The accesses that a message on its way to a bank carries. -/
def Msg.carried : Msg → List Access
  | .access a | .toBridge _ a none => [a]
  | .flit a b | .toBridge _ a (some b) => [a, b]
  | _ => []
/-- The accesses on their way to a port, with their messages. -/
def State.outbound (s : State) (p : Nat) : List (Nat × Access) :=
  s.flight.flatMap (fun f => (f.msg.carried.filter (fun a => behind p a.pa)).map (fun a => (f.id, a)))
/-- LINK_DOWN: what is outstanding on the link is answered with cause 0x37 and posted stores that have not performed are
dropped; at this receiver waiters parked through the port are removed, and words held through it stay as they are (R387). -/
def execLinkDown (p : Fin 8) (s : State) : Out :=
  if !s.portUp p.val then .refused .notPending
  else
    let s := s.modPort p.val (fun q => { q with up := false, remote := [] })
    let s := (s.outbound p.val).foldl (fun s x => (s.take x.1).linkFault x.2) s
    let there := (s.waiters.filter (fun x => behind p.val x.1)).flatMap (fun x => x.2.map (fun y => (x.1, y)))
    let s := there.foldl (fun s x => (s.dropWaiters x.1 (fun y => y.seq == x.2.seq)).linkFault x.2.acc) s
    let through (x : Waiter) : Bool := match x.acc.who with
      | .peer q _ => q == p.val
      | _ => false
    let s := (s.waiters.map (fun x => x.1)).foldl (fun s w => s.dropWaiters w through) s
    .next { s with holders := s.holders.filter (fun h => h.port != p.val) }

/-! ## Remote accesses at their receiver (R384 to R386) -/

/-- The parts of a remote access: the sender, the offset with its view, the size, whether it is a store, its words, and
whether it is posted. -/
def reqParts : PeerReq → Nat × Nat × Nat × Bool × (Word × Word) × Bool
  | .load w o n => (w, o, if n = 16 then 0 else n, false, (0, 0), false)
  | .store w o n v b => (w, o, if n = 16 then 0 else n, true, (v, 0), b)
  | .loadFlit w o => (w, o, 16, false, (0, 0), false)
  | .storeFlit w o lo hi b => (w, o, 16, true, (lo, hi), b)
/-- The form a view gives (R384). -/
def viewForm (view : Nat) (store : Bool) : Form :=
  match view, store with
  | 0, false => .ld
  | 0, true => .st
  | 1, false => .ldw
  | 1, true => .stf
  | 2, false => .ldc
  | 2, true => .ste
  | _, false => .lrw
  | _, true => .sch
/-- The answer a port sends back, of one word or of the two of a flit; a posted store has none unless it is refused. -/
def State.peerAnswer (s : State) (p sender : Nat) (posted : Bool) (l : List Reply) : State :=
  let told := l.any (fun r => match r with
    | .fault .. => true
    | _ => !posted)
  if told then s.modPort p (fun q => { q with answer := some (sender, l) }) else s
/-- A refusal with its reason and, for reason 6, the receiver's cause (R386). -/
def peerRefusal (reason cause : Nat) (va : Word) (pa : Nat) : Reply :=
  .fault 0x36 reason va (BitVec.ofNat 64 pa) (BitVec.ofNat 64 cause)
/-- The translation of a window address, as a user access with the receiver's walker (R384). -/
def State.windowAddr (s : State) (q : Port) (k : Kind) (va : Word) : Except Nat Nat :=
  if fld va 63 56 ≠ 0 then .error 0x20
  else if va.toNat < nearEnd then .error 0x22
  else
    match s.walk q.pwspace va.toNat with
    | .error f => .error f.cause
    | .ok l =>
      match leafTrans l k false va.toNat with
      | .ok pa => .ok pa
      | .fault f => .error f.cause
      | .miss => .error 0x20
/-- Whether a holder entry still names a HOLD, or an access that may yet take one. -/
def State.holderLive (s : State) (h : Holder) : Bool :=
  decide ((s.wordMeta h.word).hold = some (.peer h.port h.n)) ||
    ((s.ports.toList[h.port]?).bind (fun q => mget q.remote h.n)).isSome
/-- A number no remote access of a port and no holder has. -/
def State.remoteNumber (s : State) (p : Nat) (q : Port) : Nat :=
  (lowest (q.remote.length + s.holders.length + 1) (fun n =>
    (mget q.remote n).isNone && s.holders.all (fun h => h.port != p || h.n != n))).getD 0
/-- The tests of a remote access at the peer window, in the order of R386, and its address: its reason, the receiver's cause and
the address when it is refused. -/
def State.peerTest (s : State) (q : Port) (view size : Nat) (store : Bool) (va : Word) : Except (Nat × Nat × Nat) Nat × State :=
  let form := viewForm view store
  if !bit q.pwctl 0 then (.error (1, 0, 0), s)
  else if fld q.pwlim 55 16 < va.toNat / 65536 then (.error (2, 0, 0), s)
  else if (store && !bit q.pwctl 1) || ((view == 1 || view == 2) && !bit q.pwctl 2) || (view == 3 && !bit q.pwctl 3) then
    (.error (3, 0, 0), s)
  else if view ≠ 0 ∧ size ≠ 8 then (.error (4, 0, 0), s)
  else
    let s := s.touchWalk q.pwspace va.toNat
    match s.windowAddr q (formKind form) va with
    | .error cause => (.error (6, cause, 0), s)
    | .ok pa =>
      if va.toNat % size ≠ 0 then (.error (6, 0x23, pa), s)
      else if isFullEmpty form && !hasMeta pa then (.error (6, 0x26, pa), s)
      else (.ok pa, s)
/-- A remote access performs under a number, or parks. -/
def State.remoteGo (s : State) (p sender : Nat) (posted : Bool) (n : Nat) (form : Form) (va : Word) (pa size : Nat) (v : Word) :
    State :=
  let a : Access := { hostAccess 0 form 0 pa size v false with va := va, who := .peer p n, sup := false }
  (s.modPort p (fun q => { q with remote := mset q.remote n ⟨sender, posted, a, 2 ^ 20⟩ })).performNow a
/-- A remote access of an aligned 16 bytes: one action of the bank, which takes it as a flit, and two words elsewhere, each by
itself (R209). -/
def State.remoteFlit (s : State) (p sender : Nat) (posted store : Bool) (va : Word) (pa : Nat) (lo hi : Word) : State :=
  let word (s : State) (i : Nat) (v : Word) (posted : Bool) : Access :=
    { hostAccess 0 (if store then .st else .ld) 0 (pa + i) 8 v posted with
      va := va + BitVec.ofNat 64 i, who := .peer p (s.remoteNumber p (s.ports.toList.getD p ⟨false, 0, 0, 0, 0, [], none⟩)), sup := false }
  match s.wayBlocked pa with
  | some cause => s.peerAnswer p sender posted [peerRefusal 6 cause va pa]
  | none =>
    if !takesFlits pa || isPeer pa then
      let one (s : State) (i : Nat) (v : Word) : State :=
        s.remoteGo p sender posted (s.remoteNumber p (s.ports.toList.getD p ⟨false, 0, 0, 0, 0, [], none⟩)) (if store then .st else .ld)
          (va + BitVec.ofNat 64 i) (pa + i) 8 v
      one (one s 0 lo) 8 hi
    else if store then (((s.storeNow (word s 0 lo true)).storeNow (word s 8 hi true))).peerAnswer p sender posted [.done]
    else
      match s.readNow (word s 0 0 false) with
      | (.value a _ x, s) =>
        match s.readNow (word s 8 0 false) with
        | (.value b _ y, s) => s.peerAnswer p sender posted [.value a x, .value b y]
        | (_, s) => s
      | (_, s) => s
/-- PEER_ACCESS_ARRIVAL: a remote access is tested, translated in the peer window and performed, or parks; a refusal
returns its reason (R384, R386). -/
def execPeerAccessArrival (p : Fin 8) (req : PeerReq) (s : State) : Out :=
  let (sender, off, size, store, value, posted) := reqParts req
  if !s.portUp p.val ∨ s.power ≠ .glow ∧ s.power ≠ .dim ∨ ¬ (1 ≤ size ∧ size ≤ 8 ∨ size = 16) ∨ 2 ^ 46 ≤ off then
    .refused .notPending
  else
    match s.ports.toList[p.val]? with
    | none => .fault .noSuchUnit
    | some q =>
      let view := off / 2 ^ 44
      let form := viewForm view store
      let va := q.pwbase + BitVec.ofNat 64 (off % 2 ^ 44)
      let s := { s with holders := s.holders.filter s.holderLive }
      let refuse (reason cause pa : Nat) (s : State) : Out :=
        .next (s.peerAnswer p.val sender posted [peerRefusal reason cause va pa])
      match s.peerTest q view size store va with
      | (.error (reason, cause, pa), s) => refuse reason cause pa s
      | (.ok pa, s) =>
        if size = 16 then .next (s.remoteFlit p.val sender posted store va pa value.1 value.2)
        else
          let n := s.remoteNumber p.val q
          let go (n : Nat) (s : State) : Out := .next (s.remoteGo p.val sender posted n form va pa size value.1)
          if form = .sch then
            match s.holders.find? (fun h => h.port == p.val && h.sender == sender && h.word == pa) with
            | none => refuse 5 0 pa s
            | some h => go h.n { s with holders := s.holders.filter (fun x => x != h) }
          else if form = .lrw then
            if 256 ≤ s.holders.length then refuse 7 0 pa s
            else go n { s with holders := s.holders ++ [⟨p.val, sender, pa, n⟩] }
          else go n s
/-- A remote access hears of its end: its answer goes back to its sender, a fault as a refusal with reason 6; a woken one goes
again (R155, R384, R386). -/
def State.remoteAnswer (s : State) (p n : Nat) (r : Reply) : State :=
  match s.ports.toList[p]?.bind (fun q => mget q.remote n), r with
  | none, _ => s
  | some x, .wake => s.perform { x.acc with repark := true }
  | some x, r =>
    let s := s.modPort p (fun q => { q with remote := mdel q.remote n })
    match r with
    | .fault cause _ _ _ _ => s.peerAnswer p x.sender x.posted [peerRefusal 6 cause x.acc.va x.acc.pa]
    | r => s.peerAnswer p x.sender x.posted [r]

/-- The accesses of this module that wait for a peer under a number, and the state without them: those of a message on its
way, or one that waits at a word of the peer (R384; log entry 5). -/
def State.outgoing (s : State) (id : Nat) : List Access × State :=
  let remote (a : Access) : Bool := match regionOf a.pa with
    | .peer _ => true
    | _ => false
  match s.msg? id with
  | some m => if m.carried.any remote then (m.carried, s.take id) else ([], s)
  | none =>
    let here (w : Nat) : Bool := match regionOf w with
      | .peer _ => true
      | _ => false
    let l := s.waiters.flatMap (fun p => (p.2.filter (fun x => here p.1 && x.seq == id)).map (fun x => (p.1, x.acc)))
    (l.map (fun p => p.2), l.foldl (fun s p => s.dropWaiters p.1 (fun x => x.seq == id)) s)
/-- PEER_ACCESS_REFUSED: a receiver's refusal returns, and the sender, a thread or an engine, hears cause 0x36 with its reason
(R386). -/
def execPeerAccessRefused (id : Nat) (reason : Fin 8) (cause : BitVec 8) (s : State) : Out :=
  let (l, s1) := s.outgoing id
  if reason.val = 0 ∨ l.isEmpty then .refused .notPending
  else
    .next (l.foldl (fun s a => s.refuse a 0x36 reason.val a.va (BitVec.ofNat 64 a.pa)
      (if reason.val = 6 then BitVec.ofNat 64 cause.toNat else 0)) s1)

end Sys2Proof.Machine
end

