-- ==== Sys2Proof/Machine/Fendouk.lean ====
section
/-! DEFINITION. The Fendouk instructions as they issue (R341 to R365), each for the program whose word is at issue. One that
takes steps writes its record and completes at a step's commit. -/

namespace Sys2Proof.Machine

/-! ## Scalar words and control (R346 to R350) -/

/-- The last operand. -/
def Program.src (g : Program) : HSrc → Word
  | .reg h => g.hreg h
  | .imm v => v.signExtend 64

/-- HALT (R350). -/
def execHalt (s : State) : Out := inProgram (fun _ s => s.stopProgram s.chandler.cur 1 0) s
/-- YIELD (R350). -/
def execYield (s : State) : Out := inProgram (fun _ s => s.wordDone none) s
/-- CWAIT (R350). -/
def execCwait (c : CReg) (s : State) : Out := inProgram (fun g => withCtx g c (fun _ s => s.wordDone none)) s
/-- HMOV (R346). -/
def execHmov (d : HReg) (x : HSrc) (s : State) : Out := inProgram (fun g s => s.wordDone (some (d, g.src x))) s
/-- HADD (R346). -/
def execHadd (d a : HReg) (x : HSrc) (s : State) : Out := inProgram (fun g s => s.wordDone (some (d, g.hreg a + g.src x))) s
/-- HSUB (R346). -/
def execHsub (d a : HReg) (x : HSrc) (s : State) : Out := inProgram (fun g s => s.wordDone (some (d, g.hreg a - g.src x))) s
/-- HCMP (R346). -/
def execHcmp (c : Cond) (d a : HReg) (x : HSrc) (s : State) : Out :=
  inProgram (fun g s =>
    s.wordDone (some (d, place (b2n (condHolds c ((g.hreg a).toInt - (g.src x).toInt))) 0))) s
/-- HBR (R347): the look-ahead goes on where the branch leads, when it stopped at this very word, and not at the same word of
a later round. -/
def execHbr (a : HReg) (off : BitVec 32) (s : State) : Out :=
  inProgram (fun g s =>
    let last := (g.words.getLast?.map (fun w => w.addr)) == some g.atWord && g.fetchStop &&
      (g.words.filter (fun w => w.addr == g.atWord)).length == 1
    let next := if g.hreg a = 0 then g.atWord + 8 else g.atWord + off.signExtend 64 * 8
    let s := if last then s.modProg s.chandler.cur (fun g => { g with pc := next, fetchStop := false }) else s
    s.wordDone none) s
/-- HJMP (R347): the look-ahead has followed it (R304). -/
def execHjmp (_off : BitVec 32) (s : State) : Out := inProgram (fun _ s => s.wordDone none) s
/-- An access that completes its word when its target answers; the word has issued (R348, R349). -/
def State.exchange (s : State) (f : Form) (va : Word) (v : Nat) : State :=
  if va.toNat % 8 ≠ 0 then s.wordFault 0x46 0
  else
    match (s.wordIssued va).agAccess s.chandler.cur f va 8 v false true with
    | (some cause, s) => s.wordFault 0x42 cause
    | (none, s) => s
/-- HLD (R348): at once, or through the aperture of a peer module, which answers (R384). -/
def execHld (d a : HReg) (off : BitVec 32) (s : State) : Out :=
  inProgram (fun g s =>
    let va := g.hreg a + off.signExtend 64
    let peer : Bool := match s.agAddr .load va with
      | .ok pa => isPeer pa
      | .error _ => false
    if va.toNat % 8 ≠ 0 then s.wordFault 0x46 0
    else if peer then s.exchange .ld va 0
    else
      match s.agLoad va 8 with
      | (.error cause, s) => s.wordFault 0x42 cause
      | (.ok v, s) => s.wordDone (some (d, BitVec.ofNat 64 v))) s
/-- HST (R348): it completes when its target has answered, a refusal being cause 0x42. -/
def execHst (v a : HReg) (off : BitVec 32) (s : State) : Out :=
  inProgram (fun g s => s.exchange .st (g.hreg a + off.signExtend 64) (g.hreg v).toNat) s

/-! ## RECV and POST (R349) -/

/-- RECV (R349). -/
def execRecv (_d a : HReg) (s : State) : Out := inProgram (fun g s => s.exchange .ldc (g.hreg a) 0) s
/-- POST (R349). -/
def execPost (a : HReg) (c : CReg) (s : State) : Out :=
  inProgram (fun g => withCtx g c (fun r s => s.exchange .stf (g.hreg a) (s.rget r rTlen))) s
/-- The access of an exchange again: its form, and the value it stores. -/
def State.exchangeForm (s : State) (g : Program) : Instr → Form × Nat
  | .hld .. => (.ld, 0)
  | .post _ c => (.stf, ((s.ctxRecord g c).map (fun r => s.rget r rTlen)).getD 0)
  | _ => (.ldc, 0)
/-- The answer to a program's HLD, HST, RECV or POST: its value, its end, its fault, or, woken from the vigil area, the access
again. -/
def State.agentAnswer (s : State) (p : Nat) (x : Reply) : State :=
  match s.prog p with
  | none => s
  | some g =>
    match g.words.find? PWord.exchanging with
    | none => s
    | some w =>
      match x, w.instr with
      | .value v x, some (.recv d _) | .value v x, some (.hld d _ _) =>
        if x then s.programFault p w.addr 0x42 0x10 else s.completeAt p w.addr (some (d, v))
      | .fault cause _ _ _ _, _ => s.programFault p w.addr 0x42 cause
      | .wake, some i =>
        let (f, v) := s.exchangeForm g i
        match s.agAccess p f w.arg 8 v true true with
        | (some cause, s) => s.programFault p w.addr 0x42 cause
        | (none, s) => s
      | _, _ => s.completeAt p w.addr none
/-- The bank's answer to the fill of a RESULT word. -/
def State.resultAnswer (s : State) (n : Nat) (x : Reply) : State :=
  match mget s.chandler.results n, x with
  | some (va, v), .wake => s.fillResult n va v true
  | some (va, _), .fault cause _ _ _ _ =>
    (modCh (fun c => { c with results := mdel c.results n }) s).logEntry 3 false cause chandlerLoc 0 va
  | _, _ => modCh (fun c => { c with results := mdel c.results n }) s

/-! ## Context registers and records (R351 to R356) -/

/-- A context register of the program at issue bound or unbound. -/
def State.setCtx (s : State) (c : CReg) (b : Option CBind) : State :=
  s.modProg s.chandler.cur (fun g => { g with c := g.c.set c.val b })
/-- A register bound to a record as it stands. -/
def State.bindCtx (s : State) (c : CReg) (r : Nat) : State := s.setCtx c (some ⟨r, BitVec.ofNat 12 (s.rget r rGen)⟩)
/-- Whether a context register is bound. -/
def Program.isBound (g : Program) (c : CReg) : Bool := (g.c.toList.getD c.val none).isSome
/-- Word 0 of the directory of an image, which keeps the limits of R322: a free NLAYER or NBLK of 0 is 1 (log entry 13). -/
def imageWord (image : Nat) : Word :=
  let w := Config.imageDir image &&& 0x3FF00FF1FFF#64
  (w ||| (if dirLayers w = 0 then place 1 32 else 0)) ||| (if dirNblk w = 0 then 1 else 0)
/-- A fresh record for a program's register, with the directory of the binding's image (R351). -/
def State.freshRecord (s : State) (g : Program) (creg : Nat) : Option (Nat × State) :=
  match s.newRecord, s.bindEntry g.bind with
  | some r, some e =>
    (s.newDir (imageWord e.image)).bind (fun p =>
      (p.2.buildRecord r s.chandler.cur creg g.bind e.image g.pclass.toNat g.eclass.toNat p.1).map (fun s => (r, s)))
  | _, _ => none
/-- CNEW (R351): without room it stays issued and incomplete. -/
def execCnew (c : CReg) (s : State) : Out :=
  inProgram (fun g s =>
    if g.isBound c then s.wordFault 0x45 0
    else
      match s.freshRecord g c.val with
      | some (r, s) => (s.bindCtx c r).wordDone none
      | none => s.wordIssued 0) s
/-- Whether a record is held: its PROG names a live program whose CREG still binds it (R350). -/
def State.isHeld (s : State) (r : Nat) : Bool :=
  match s.prog (s.rget r rProg) with
  | some g => match g.c.toList.getD (s.rget r rCreg) none with
    | some b => b.ridx == r && b.rgen.toNat == s.rget r rGen
    | none => false
  | none => false
/-- CBIND (R352). -/
def execCbind (c : CReg) (h : HReg) (s : State) : Out :=
  inProgram (fun g s =>
    let v := g.hreg h
    let r := fld v 43 26
    if s.recCount ≤ r ∨ fld v 55 44 ≠ s.rget r rGen then s.wordFault 0x41 0
    else if (s.rget r rState ≠ 1 ∧ s.rget r rState ≠ 5) ∨ s.isHeld r ∨ g.isBound c then s.wordFault 0x45 0
    else ((s.rsets r [(rCreg, c.val), (rProg, s.chandler.cur)]).bindCtx c r).wordDone none) s
/-- CFORK (R353): without room, while a block waits for promotion, and while a count word is held, it stays issued and
incomplete (R326). -/
def execCfork (cd cs : CReg) (s : State) : Out :=
  inProgram (fun g => withCtx g cs (fun r s =>
    if g.isBound cd ∨ s.rget r rState ≠ 1 then s.wordFault 0x45 0
    else if (s.demoted (s.rootOf r)).isSome then s.wordIssued 1
    else
      withCounts (actWord r) (s.countsOf (s.rootOf r))
        (fun s => match s.forkRecord r s.chandler.cur cd.val g.pclass.toNat g.eclass.toNat with
          | some (n, s) => (s.bindCtx cd n).wordDone none
          | none => s.wordIssued 1)
        (fun s => s.wordIssued 1) s)) s
/-- CFREE (R354); it waits while the record stands in an open step (R303), and while a count word is held (R326). -/
def execCfree (c : CReg) (s : State) : Out :=
  inProgram (fun g => withCtx g c (fun r s =>
    if s.inOpenStep r then s
    else if s.rget r rState ≠ 1 ∧ s.rget r rState ≠ 5 then s.wordFault 0x45 0
    else
      withCounts (actWord r) (s.countsOf (s.rootOf r)) (fun s => ((s.freeRecordOf r).setCtx c none).wordDone none)
        (fun s => s.wordIssued 1) s)) s

/-- The field a number names, its width and its limit (R355). -/
def csetField : Nat → Option (RField × (Nat → Bool))
  | 0 => some (rPclass, fun v => v < 4)
  | 1 => some (rEclass, fun v => v < 16)
  | 2 => some (rStop0, fun v => v < 0xFFFFFFFF)
  | 3 => some (rStop1, fun v => v < 0xFFFFFFFF)
  | 4 => some (rEn0, fun v => v < 2)
  | 5 => some (rEn1, fun v => v < 2)
  | 6 => some (rMaxpos, fun v => v < 2 ^ 32)
  | 7 => some (rSeed, fun _ => true)
  | 8 => some (rTemp, fun v => v < 0x7F800000)
  | 9 => some (rTopk, fun v => v < 2 ^ 16)
  | 10 => some (rReppen, fun v => 0 < v && v < 0x7F800000)
  | 11 => some (rFreqpen, fun v => v < 2 ^ 32 && v / 2 ^ 23 % 256 != 255)
  | 12 => some (rPenh, fun v => v < 2 ^ 32)
  | _ => none
/-- CSET (R355, R303). -/
def execCset (c : CReg) (h : HReg) (f : BitVec 8) (s : State) : Out :=
  inProgram (fun g => withCtx g c (fun r s =>
    if s.inOpenStep r then s
    else
      match csetField f.toNat with
      | some (x, ok) =>
        if ok (g.hreg h).toNat then (s.rset r x (g.hreg h).toNat).wordDone none else s.wordFault 0x41 0
      | none => s.wordFault 0x41 0)) s
/-- CGET (R355, R303). -/
def execCget (h : HReg) (c : CReg) (f : BitVec 8) (s : State) : Out :=
  inProgram (fun g => withCtx g c (fun r s =>
    if s.inOpenStep r then s
    else
      match csetField f.toNat with
      | some (x, _) => s.wordDone (some (h, place (s.rget r x) 0))
      | none =>
        if 64 ≤ f.toNat ∧ f.toNat < 96 then s.wordDone (some (h, s.rword r (f.toNat - 64))) else s.wordFault 0x41 0)) s
/-- Whether an identity is one: 0 is that of no token, and others stand in a record or among those made (R306). -/
def State.shareUsed (s : State) (v : Nat) : Bool :=
  v == 0 || s.records.any (fun r => s.rget r rShareid == v) ||
    s.chandler.shareIds.any (fun p => p.1 == v || p.2.1 == v)
/-- An identity that nothing has: from a free value on, the first (R306, R356, R359; log entry 16). -/
def State.newShareId (s : State) : Nat :=
  let base := (Config.freshShare s.fresh).toNat
  let bound := s.recCount + 2 * s.chandler.shareIds.length + 2
  (base + (lowest bound (fun k => !s.shareUsed ((base + k) % 2 ^ 64))).getD 0) % 2 ^ 64
/-- TRUNC (R356). -/
def execTrunc (c : CReg) (h : HReg) (s : State) : Out :=
  inProgram (fun g => withCtx g c (fun r s =>
    let n := (g.hreg h).toNat
    let root := s.rootOf r
    let gone := (s.places root).filter (fun q => decide (n / 64 ≤ q.2))
    if s.inOpenStep r then s
    else if s.rget r rTlen < n then s.wordFault 0x41 0
    else
      withCounts (actWord r) (((gone.map (fun q => s.entry root q.1 q.2)).filter (fun e => entTier e != 0)).map entRci)
        (fun s =>
          let s1 := s.overPlaces (fun s q => s.clearEntry root q) gone
          let s1 := (s1.setUncounted r ((s1.uncountedOf r).filter (fun i => decide (i < n)))).setIdent r
            (min (64 * (n / 64)) (s1.identOf r))
          let s1 := s1.rsets r [(rTlen, n), (rLasttok, if n = 0 then 0 else s.token r (n - 1)),
            (rPos, min (s.rget r rPos) (64 * (n / 64))), (rShareid, s.newShareId)]
          s1.bump.wordDone none)
        (fun s => s.wordIssued 1) s)) s

/-! ## What every step-taking instruction shares (R357, R359) -/

/-- The opcode of a step-taking instruction (R89). -/
def opAppend : Nat := 0x20
def opGen : Nat := 0x21
def opScore : Nat := 0x22
def opChoose : Nat := 0x23
def opBeam : Nat := 0x24
def opSpec : Nat := 0x25
/-- The record of an instruction that issues: its fields start afresh, the mark stays, STATE is 2; a record in STATE 5 is
cleared first. -/
def State.issueStep (s : State) (r op : Nat) (addr : Word) (proga progn : Nat) : State :=
  let s := if s.rget r rState = 5 then s.rsets r [(rFcode, 0), (rFstep, 0)] else s
  s.rsets r [(rOp, op), (rPhase, 0), (rDone, 0), (rProga, proga), (rProgn, progn), (rProgs, 0), (rProgx, 0),
    (rProgpc, addr.toNat), (rProgm, 0), (rProgt, 0), (rState, 2)]
/-- The record of an instruction that completes: its fields and the mark are 0, FCODE clears, STATE is 1 (R302, R358,
R359). -/
def State.finishStep (s : State) (r : Nat) : State :=
  s.rsets r [(rOp, 0), (rPhase, 0), (rDone, 0), (rProga, 0), (rProgn, 0), (rProgs, 0), (rMark, 0), (rProgx, 0), (rProgpc, 0),
    (rProgm, 0), (rProgt, 0), (rFcode, 0), (rFstep, 0), (rState, 1)]
/-- A step-taking word: its record must be in STATE 1 or 5. -/
def stepWord (c : CReg) (body : Program → Nat → State → State) (s : State) : Out :=
  inProgram (fun g => withCtx g c (fun r s =>
    if s.rget r rState = 1 ∨ s.rget r rState = 5 then body g r s else s.wordFault 0x45 0)) s
/-- POS equal to TLEN becomes TLEN − 1, so that the next step forms the logits that follow the string. -/
def State.backUp (s : State) (r : Nat) : State :=
  if s.rget r rPos = s.rget r rTlen then s.rset r rPos (s.rget r rTlen - 1) else s
/-- The token read 0xFFFF_FFFF, which is no token. -/
def badToken : Nat := 0xFFFFFFFF
/-- The checks of a token array, and its tokens (R360). -/
def State.readTokens (s : State) (r : Nat) (a : Word) (n : Nat) : Except (Nat × Nat) (List Nat) × State :=
  if a.toNat % 4 ≠ 0 then (.error (0x46, 0), s)
  else if s.capacity r < s.rget r rTlen + n then (.error (0x43, 0), s)
  else
    match s.agLoads a 4 n with
    | (.error cause, s) => (.error (0x42, cause), s)
    | (.ok l, s) => if l.contains badToken then (.error (0x41, 0), s) else (.ok l, s)
/-- Tokens put at a string's end: TLEN and LASTTOK follow. -/
def State.extend (s : State) (r : Nat) (l : List Nat) : State :=
  let n := s.rget r rTlen
  (s.putTokens r n l).rsets r [(rTlen, n + l.length), (rLasttok, l.getLastD (s.rget r rLasttok))]
/-- Tokens that APPEND, SCORE or CHOOSE brings: their counters rise with the rows that cover them (R359). -/
def State.bring (s : State) (r : Nat) (l : List Nat) : State :=
  let n := s.rget r rTlen
  (s.extend r l).setUncounted r (s.uncountedOf r ++ (List.range l.length).map (fun i => n + i))
/-! ## The step-taking instructions as they issue (R360 to R365) -/

/-- APPEND (R360). -/
def execAppend (c : CReg) (ha hn : HReg) (s : State) : Out :=
  stepWord c (fun g r s =>
    let n := (g.hreg hn).toNat
    if n = 0 then (s.finishStep r).wordDone none
    else
      match s.readTokens r (g.hreg ha) n with
      | (.error (cause, mem), s) => s.wordFault cause mem
      | (.ok l, s) => ((s.issueStep r opAppend g.atWord (s.rget r rTlen) n).bring r l).wordIssued 0) s
/-- GEN's completion value. -/
def genValue (reason drawn : Nat) : Word := place reason 56 ||| place (drawn % 2 ^ 32) 0
/-- GEN (R361). -/
def execGen (c : CReg) (hn : HReg) (s : State) : Out :=
  stepWord c (fun g r s =>
    let n := (g.hreg hn).toNat
    let len := s.rget r rTlen
    if n = 0 then (s.finishStep r).wordDone (some (hn, genValue 0 0))
    else if s.rget r rMaxpos ≠ 0 ∧ s.rget r rMaxpos ≤ len then (s.finishStep r).wordDone (some (hn, genValue 3 0))
    else if len = 0 then s.wordFault 0x47 0
    else (((s.issueStep r opGen g.atWord len n).backUp r).setPhaseOf r).wordIssued 0) s
/-- SCORE (R362). -/
def execScore (c : CReg) (ha hn hd : HReg) (s : State) : Out :=
  stepWord c (fun g r s =>
    let n := (g.hreg hn).toNat
    if n = 0 then (s.finishStep r).wordDone (some (hd, 0))
    else if s.rget r rTlen = 0 then s.wordFault 0x47 0
    else
      match s.readTokens r (g.hreg ha) n with
      | (.error (cause, mem), s) => s.wordFault cause mem
      | (.ok l, s) =>
        let s := (s.issueStep r opScore g.atWord (s.rget r rTlen) n).backUp r
        ((s.bring r l).setPhaseOf r).wordIssued 0) s

/-- The tokens of a CHOOSE table's entries from one on. -/
def State.chooseTokens (s : State) (r : Nat) (a : Word) : Nat → Except (Nat × Nat) (List (List Nat)) × State
  | 0 => (.ok [], s)
  | n + 1 =>
    match s.agLoad a 8 with
    | (.error cause, s) => (.error (0x42, cause), s)
    | (.ok v, s) =>
      let v := BitVec.ofNat 64 v
      match s.agAddr .store (a + 8) with
      | .error cause => (.error (0x42, cause), s)
      | .ok _ =>
        if fld v 63 56 = 0 then (.error (0x41, 0), s)
        else
          match s.readTokens r (place (fld v 55 0) 0) (fld v 63 56) with
          | (.error e, s) => (.error e, s)
          | (.ok l, s) =>
            match s.chooseTokens r (a + 16) n with
            | (.error e, s) => (.error e, s)
            | (.ok rest, s) => (.ok (l :: rest), s)
/-- Forks of a record for a program, as many as asked; none when room is lacking. -/
def State.forks (s : State) (g : Program) (r creg : Nat) : Nat → Option (List Nat × State)
  | 0 => some ([], s)
  | n + 1 => (s.forkRecord r s.chandler.cur creg g.pclass.toNat g.eclass.toNat).bind
      (fun p => (p.2.forks g r creg n).map (fun q => (p.1 :: q.1, q.2)))
/-- CHOOSE (R363): while records, room or count words are lacking it stays issued and incomplete, as a CFORK does, with the
table and the tokens that it read at its issue (R367). -/
def execChoose (c : CReg) (ha hn hd : HReg) (s : State) : Out :=
  stepWord c (fun g r s =>
    let _ := hd
    let m := (g.hreg hn).toNat
    let a := g.hreg ha
    if m = 0 ∨ 16 < m then s.wordFault 0x41 0
    else if a.toNat % 16 ≠ 0 then s.wordFault 0x46 0
    else if s.rget r rTlen = 0 then s.wordFault 0x47 0
    else
      let read : Except (Nat × Nat) (List (List Nat)) × State := match g.tokensRead with
        | some l => (.ok l, s)
        | none => s.chooseTokens r a m
      match read with
      | (.error (cause, mem), s) => s.wordFault cause mem
      | (.ok toks, s) =>
        if 1 < m ∧ (s.demoted (s.rootOf r)).isSome then s.wordRead toks
        else
          withCounts (actWord r) (if m = 1 then [] else s.countsOf (s.rootOf r))
            (fun s => match (s.backUp r).forks g r c.val (m - 1) with
              | none => s.wordRead toks
              | some (hidden, s1) =>
                let all := r :: hidden
                let start := s.rget r rTlen
                let s2 := (all.zip toks).zipIdx.foldl (fun (s : State) p =>
                  let (x, i) := p
                  let s := (s.issueStep x.1 opChoose g.atWord start x.2.length).bring x.1 x.2
                  let s := s.rsets x.1 [(rProgx, i), (rProgt, a.toNat), (rProgm, m)]
                  ((s.setPhaseOf x.1).agStore s.chandler.cur (a + BitVec.ofNat 64 (16 * i + 8)) 8
                    (place 1 63 ||| s.rname x.1).toNat).2) s1
                (modCh (fun k => { k with groups := mset k.groups r all }) s2).wordIssued 0)
            (fun s => s.wordRead toks) s) s

/-- Empty hidden records for BEAM, of a request's binding. -/
def State.emptyRecords (s : State) (g : Program) (r creg : Nat) : Nat → Option (List Nat × State)
  | 0 => some ([], s)
  | n + 1 =>
    match s.newRecord, s.newDir (s.dir (s.rootOf r)) with
    | some x, some (off, s) =>
      (s.buildRecord x s.chandler.cur creg (s.rget r rBind) (s.rget r rImage) g.pclass.toNat g.eclass.toNat off).bind
        (fun s => (s.emptyRecords g r creg n).map (fun q => (x :: q.1, q.2)))
    | _, _ => none
/-- BEAM (R364): while records are lacking it stays issued and incomplete. -/
def execBeam (c : CReg) (hk hn : HReg) (s : State) : Out :=
  stepWord c (fun g r s =>
    let v := g.hreg hk
    let k := fld v 4 0
    let n := (g.hreg hn).toNat
    let area := place (fld v 55 6) 6
    if k = 0 ∨ 16 < k ∨ bit v 5 ∨ fld v 63 56 ≠ 0 ∨ n = 0 then s.wordFault 0x41 0
    else if s.rget r rTlen = 0 then s.wordFault 0x47 0
    else if s.capacity r < s.rget r rTlen + n then s.wordFault 0x43 0
    else
      match (List.range k).findSome? (fun j => match s.agAddr .store (area + BitVec.ofNat 64 (8 * (32 + j))) with
        | .error cause => some cause
        | .ok _ => none) with
      | some cause => s.wordFault 0x42 cause
      | none =>
        match s.emptyRecords g r c.val (k - 1) with
        | none => s.wordIssued 1
        | some (hidden, s) =>
          let all := r :: hidden
          let s := all.zipIdx.foldl (fun s p =>
            let s := (s.issueStep p.1 opBeam g.atWord area.toNat n).rset p.1 rProgx p.2
            (s.agStore s.chandler.cur (area + BitVec.ofNat 64 (8 * (32 + p.2))) 8 (s.rname p.1).toNat).2) s
          (modCh (fun x => { x with groups := mset x.groups r all }) (s.backUp r)).wordIssued 0) s

/-- Whether the draft nodes from one on keep the layout of R365; the cause of a fault when one cannot be read. -/
def State.draftBad (s : State) (a : Word) (j : Nat) : Nat → Option (Nat × Nat) × State
  | 0 => (none, s)
  | n + 1 =>
    match s.agLoad (a + BitVec.ofNat 64 (16 * j)) 8 with
    | (.error cause, s) => (some (0x42, cause), s)
    | (.ok v, s) =>
      let v := BitVec.ofNat 64 v
      if (fld v 63 58 ≠ 0 ∧ j ≤ fld v 63 58) ∨ fld v 56 32 ≠ 0 ∨ fld v 31 0 = badToken then (some (0x41, 0), s)
      else s.draftBad a (j + 1) n
/-- SPEC (R365). -/
def execSpec (c : CReg) (ha hn : HReg) (s : State) : Out :=
  stepWord c (fun g r s =>
    let n := (g.hreg hn).toNat
    let a := g.hreg ha
    if n = 0 ∨ 63 < n then s.wordFault 0x41 0
    else if a.toNat % 16 ≠ 0 then s.wordFault 0x46 0
    else if s.rget r rTlen = 0 then s.wordFault 0x47 0
    else if s.capacity r < s.rget r rTlen + n + 1 then s.wordFault 0x43 0
    else
      match s.agLoad a 8 with
      | (.error cause, s) => s.wordFault 0x42 cause
      | (.ok w, s) =>
        if w ≠ n then s.wordFault 0x41 0
        else
          match s.draftBad a 1 n with
          | (some (cause, mem), s) => s.wordFault cause mem
          | (none, s) => (((s.issueStep r opSpec g.atWord a.toNat n).backUp r).setPhaseOf r).wordIssued 0) s

end Sys2Proof.Machine
end

