-- ==== Sys2Proof/Machine/Steps.lean ====
section
/-! DEFINITION. Model steps (R303 to R311, R316, R317, R357 to R374): the batch former and the step area, the commit with each
instruction's rule, prefix sharing, partial re-execution after a flare, and what step kernels hand the Chandler. -/

namespace Sys2Proof.Machine

/-! ## What a request still needs (R307, R358) -/

/-- Whether a request's next row is a BEAM step, with its whole group. -/
def State.beamRow (s : State) (r : Nat) : Bool :=
  s.rget r rOp == opBeam && s.rget r rPos + 1 == s.rget r rTlen
/-- Whether a request is ready: it needs a further step, is neither suspended nor faulted nor about to be abandoned, waits
for no shared prefix, and stands, for a BEAM step, with its whole group (R307, R364, R369). -/
def State.isReady (s : State) (b r : Nat) : Bool :=
  s.rget r rState == 2 && s.rget r rBind == b && s.needs r != 0 && !s.chandler.shares.any (fun x => x.follower == r) &&
    !s.chandler.abandon.any (fun x => (s.groupOf x.2).contains r) &&
    (!s.beamRow r || s.rget r rPhase == 0 ||
      (s.groupOf r).all (fun x => s.rget x rState == 2 && s.beamRow x))
/-- A GEN whose next draw would pass the capacity (R361). -/
def State.genFull (s : State) (b r : Nat) : Bool :=
  s.rget r rState == 2 && s.rget r rBind == b && s.rget r rOp == opGen && decide (s.capacity r ≤ s.rget r rTlen)

/-! ## Sharing a prefix (R306, R369) -/

/-- The length of the common leading part of two lists. -/
def commonLen : List Nat → List Nat → Nat
  | a :: r, b :: q => if a = b then commonLen r q + 1 else 0
  | _, _ => 0
/-- Whether two ready APPENDs stand on equal content: one identity, of as many positions (R306). -/
def State.sameContent (s : State) (a f : Nat) : Bool :=
  s.rget a rOp == opAppend && s.rget f rOp == opAppend && s.rget a rShareid == s.rget f rShareid && s.identOf a == s.identOf f
/-- How far a leader's run is shared: the whole of it when the other's is equal, or else the longest leading part that fills whole
blocks (R306, R323). -/
def State.shareTo (s : State) (a f : Nat) : Nat :=
  let base := s.identOf a
  let ta := s.tokens a base (s.rget a rTlen - base)
  let tf := s.tokens f base (s.rget f rTlen - base)
  let n := commonLen ta tf
  if n = ta.length ∧ n = tf.length then base + n else (base + n) / 64 * 64
/-- The sharings among ready requests, in ascending RIDX, each with the lowest request of equal content; one that another
already waits for waits for none. -/
def State.newShares (s : State) : List Nat → List Share → List Share
  | [], acc => acc
  | a :: rest, acc =>
    let free (r : Nat) : Bool := !acc.any (fun x => x.follower == r)
    if free a then
      s.newShares rest (acc ++ (rest.filter (fun f =>
        free f && !s.chandler.shares.any (fun x => x.leader == f) && s.sameContent a f &&
          decide (s.identOf a < s.shareTo a f))).map (fun f => ⟨a, f, s.shareTo a f⟩))
    else s.newShares rest acc

/-! ## Step formation (R307, R309, R310) -/

/-- LEAD of a class. -/
def lead (pclass : Nat) : Nat := 24 - 8 * pclass
/-- Whether a first ready request goes before a second. -/
def State.goesBefore (s : State) (a b : Nat) : Bool :=
  let key (r : Nat) : Int := (s.rget r rWait + lead (s.rget r rPclass) : Nat)
  decide ([-key a, (s.rget a rPclass : Int), (a : Int)] ≤ [-key b, (s.rget b rPclass : Int), (b : Int)])
/-- The requests admitted, with their tokens. -/
def State.admitRow (s : State) (e : BindEntry) : List Nat → Nat → Nat → List (Nat × Nat) → List (Nat × Nat)
  | [], _, _, acc => acc
  | r :: rest, used, budget, acc =>
    if used = e.slots ∨ budget = 0 then acc
    else if acc.any (fun p => p.1 == r) then s.admitRow e rest used budget acc
    else if s.beamRow r ∧ s.rget r rPhase ≠ 0 then
      let g := s.groupOf r
      if used + g.length ≤ e.slots ∧ g.length ≤ budget then
        s.admitRow e rest (used + g.length) (budget - g.length) (acc ++ g.map (fun x => (x, 1)))
      else s.admitRow e rest used budget acc
    else
      let n := min (s.needs r) (min e.pchunk budget)
      s.admitRow e rest (used + 1) (budget - n) (acc ++ [(r, n)])
/-- Slots: those kept, then the lowest free ones in admission order. -/
def State.slotFor (s : State) (e : BindEntry) : List Nat → List (Nat × Nat) → List (Nat × Nat)
  | [], acc => acc
  | r :: rest, acc =>
    if acc.any (fun p => p.1 == r) then s.slotFor e rest acc
    else
      let slot := (lowest e.slots (fun k => !acc.any (fun p => p.2 == k))).getD 0
      s.slotFor e rest (acc ++ [(r, slot)])
/-- The GEN word that joins an APPEND's last row (R311): the next step-taking word on its context, ready but for the APPEND,
that would draw a token. -/
def State.joiner (s : State) (r : Nat) : Option Word :=
  match s.prog (s.rget r rProg) with
  | none => none
  | some g =>
    let creg := s.rget r rCreg
    let addr := BitVec.ofNat 64 (s.rget r rProgpc)
    let rest := (g.words.dropWhile (fun w => w.addr != addr)).drop 1
    match rest.find? (fun w => ((w.instr.bind stepsOn).map (fun c => c.val)) == some creg) with
    | some w =>
      match w.instr with
      | some (.gen c hn) =>
        let pre := (g.words.takeWhile (fun x => x != w)).filter (fun x => x.addr != addr)
        let len := s.rget r rTlen
        if w.st == .waiting && pre.all (fun e => !e.holds (.gen c hn)) && g.hreg hn != 0 && decide (len < s.capacity r)
            && (s.rget r rMaxpos == 0 || decide (len < s.rget r rMaxpos)) then some w.addr
        else none
      | _ => none
    | none => none
/-- Whether a row's blocks are resident (R333). -/
def State.resident (s : State) (r last : Nat) : Bool :=
  let root := s.rootOf r
  (s.places root).all (fun q => decide (last / 64 < q.2) || entTier (s.entry root q.1 q.2) != 2)
/-- A request's row (R358). A position to score that lies under the mark, of a request evicted while idle, is scored in a row
without RECOMP (DEDUCED: log entry 86). -/
def State.rowOf (s : State) (r slot n : Nat) : Row :=
  let pos := s.rget r rPos
  let n := s.cutRow r n
  let op := s.rget r rOp
  let final := pos + n == s.rget r rTlen
  let joined := if op == opAppend && final then s.joiner r else none
  let scores := (op == opScore || op == opChoose) && decide (s.scoreFrom r ≤ pos)
  let recomp := decide (pos + n ≤ s.rget r rMark) && !scores
  { slot := slot, ridx := r, pos0 := pos, ntok := n
    sample := (final && (op == opGen || op == opSpec)) || joined.isSome
    scoref := scores
    recomp := recomp, fault := if s.resident r (pos + n - 1) then none else some 1, outputs := []
    joined := joined.map (fun a => a.toNat) }
/-- A BEAM group sits out whole when a beam of it is not resident (R364). -/
def State.groupFaults (s : State) (rows : List Row) : List Row :=
  rows.map (fun x =>
    if s.beamRow x.ridx && rows.any (fun y => y.fault == some 1 && (s.groupOf x.ridx).contains y.ridx) then
      { x with fault := some 1 }
    else x)

/-- Bytes of a step area. -/
def areaSize (e : BindEntry) : Nat := (64 + 32 * e.slots + 4 * e.tokmax + 4095) / 4096 * 4096
/-- The descriptor's address. -/
def stepArea (e : BindEntry) (seq : Nat) : Word := e.area + BitVec.ofNat 64 (seq % 2 * areaSize e)
/-- Two n32 in a word, over a list. -/
def packTokens : List Nat → List Word
  | [] => []
  | [a] => [place a 0]
  | a :: b :: r => (place a 0 ||| place b 32) :: packTokens r
/-- The words of a step's area (R309). -/
def State.areaWords (s : State) (b : Nat) (e : BindEntry) (seq : Nat) (reex : Bool) (rows : List Row) : List Word :=
  let base := stepArea e seq
  let valid := (rows.filter (fun x => x.fault.isNone)).insertionSort (fun x y => x.slot ≤ y.slot)
  let toks := valid.flatMap (fun x => s.tokens x.ridx x.pos0 x.ntok)
  let offset (x : Row) : Nat := ((valid.takeWhile (fun y => y.slot != x.slot)).map (fun y => y.ntok)).sum
  let row (k : Nat) : List Word :=
    match valid.find? (fun x => x.slot == k) with
    | none => [0, 0, 0, 0]
    | some x =>
      [place 1 63 ||| place (b2n x.sample) 62 ||| place (b2n x.scoref) 61 ||| place (b2n x.recomp) 60 ||| place x.ridx 26
        ||| place (s.rget x.ridx rGen) 14, place x.pos0 32 ||| place x.ntok 0, place (offset x) 0,
        place (s.rget x.ridx rKvroot) 8]
  let head : List Word :=
    [place (b2n reex) 63 ||| place seq 0, place e.slots 32 ||| place toks.length 0, base + 64,
      base + BitVec.ofNat 64 (64 + 32 * e.slots), place e.nend 0, place e.image 48 ||| place b 32, 0, 0]
  let l := head ++ (List.range e.slots).flatMap row ++ packTokens toks
  l ++ List.replicate (areaSize e / 8 - l.length) 0
/-- The words of a BEAM area, of a group with a row that runs, or the result word of a SPEC area, that the kernel fills are set
empty (R364, R365). -/
def State.emptyAreas (s : State) (rows : List Row) : State :=
  rows.foldl (fun s x =>
    let clear (s : State) (i : Nat) : State :=
      (s.agAccess chandlerWho (.fest false) (BitVec.ofNat 64 (s.rget x.ridx rProga + 8 * i)) 8 0 false false).2
    if x.fault.isSome then s
    else if s.rget x.ridx rOp = opSpec ∧ x.sample then clear s 1
    else if s.beamRow x.ridx ∧ (rows.find? (fun y => (s.groupOf x.ridx).contains y.ridx)) = some x then
      (List.range (2 * (s.groupOf x.ridx).length)).foldl clear s
    else s) s
/-- Whether the words of KREC cannot be read yet (R384). -/
def State.krecWaits (s : State) (e : BindEntry) : Bool :=
  match (s.agLoads e.krec 8 16).1 with
  | .error cause => cause == agWaits
  | .ok _ => false
/-- The step's launch record (R297, R309): KREC's words with CLASS 0 and ARGP the descriptor; none when it cannot be read or
the launch unit refuses it. -/
def State.stepRecord (s : State) (b : Nat) (e : BindEntry) (seq : Nat) : Option LaunchRec :=
  match (s.agLoads e.krec 8 16).1 with
  | .error _ => none
  | .ok l =>
    let w := l.map (fun n => BitVec.ofNat 64 n)
    let w := lmod (fun v => setFld v 24 2 0) 1 (lmod (fun _ => stepArea e seq) 2 w)
    if (s.recordBad w true).isSome then none
    else
      some { words := w, space := if wordAt w 3 = 0 then s.agSpace else wordAt w 3 &&& spaceMask, cls := 0, priv := false
             issuer := ⟨0, 0, 0⟩, pc := 0, slotw := 0, launch := 0, step := some (b, seq) }
/-- A step's area written and its launch handed over; a refused one commits with every row faulted. -/
def State.launchStep (s : State) (b : Nat) (e : BindEntry) (seq : Nat) (reex : Bool) (rows kept : List Row) : State :=
  let s := s.emptyAreas rows
  let s := match s.agStores chandlerWho (stepArea e seq) (s.areaWords b e seq reex rows) with
    | (none, s) => s
    | (some cause, s) => s.logEntry 2 false cause chandlerLoc 0 (stepArea e seq)
  let bound (st : StepLaunch) (s : State) : State :=
    s.modBind b (fun x => { x with
      isOpen := true
      rows := rows
      ends := 0
      st := st
      reex := reex
      flared := []
      kept := kept })
  match s.stepRecord b e seq with
  | some r => bound .sent (s.enqueue r)
  | none => bound .refused s

/-! ## Faults of requests (R317, R345) -/

/-- A request's fault, codes 0x02 to 0x07: FCODE, FSTEP, STATE 5, and its program faults at the instruction. -/
def State.requestFault (s : State) (r code seq : Nat) : State :=
  let p := s.rget r rProg
  let addr := BitVec.ofNat 64 (s.rget r rProgpc)
  let gone := s.chandler.abandon.any (fun x => x.2 == s.leaderOf r)
  let s := s.rsets r [(rFcode, code), (rFstep, seq), (rState, 5)]
  if gone then s else s.programFault p addr 0x44 0
/-- The rows that a record which reached the Chandler late names in the step of its launch (R398, R408): the row of ROWP − 1
of a flare, or every valid row. -/
def lateRows (x : Bind) (seq : Nat) (r : Record) : List Row :=
  let w0 := wordAt r.toList 0
  let rowp := if fld w0 63 60 ≠ 4 ∨ fld w0 39 36 = 5 then 0 else fld (wordAt r.toList 2) 31 19
  ((mget x.past seq).getD []).filter (fun y => y.fault != some 1 && (rowp == 0 || y.slot + 1 == rowp))
/-- The binding and STEPSEQ of a step launch, live or ended. -/
def State.stepOfLaunch (s : State) (launch : Word) : Option (Nat × Nat) :=
  match (s.launchOf launch).bind (fun l => l.step) with
  | some p => some p
  | none => (s.chandler.pastSteps.find? (fun p => p.1 == launch)).map (fun p => p.2)
/-- Whether a record that reached the Chandler late concerns a binding. -/
def State.lateOf (s : State) (b : Nat) (p : Word × Record) : Bool := (s.stepOfLaunch p.1).map (fun q => q.1) == some b
/-- A late flare's answer to a request that was there in the step: FCODE 0x03 and FLSTEP (R408). -/
def State.lateFault (s : State) (r seq : Nat) : State :=
  if s.rget r rState = 0 ∨ s.rget r rLaststep < seq then s else (s.rset r rFlstep seq).requestFault r 3 seq
/-- Late records answered at a step boundary of their binding (R398, R408). -/
def State.lateFlares (s : State) (b : Nat) : State :=
  match s.bind b with
  | none => s
  | some x =>
    let mine := s.chandler.lateFaults.filter (s.lateOf b)
    let s := modCh (fun c => { c with lateFaults := c.lateFaults.filter (fun p => !s.lateOf b p) }) s
    mine.foldl (fun s p =>
      let seq := ((s.stepOfLaunch p.1).map (fun q => q.2)).getD 0
      (lateRows x seq p.2).foldl (fun s y => s.lateFault y.ridx seq) s) s
/-- What waited for a step boundary of a binding: instructions to abandon, once the count words they change can be had, then
late records (R326, R345). -/
def State.boundary (s : State) (b : Nat) : State :=
  let mine := s.chandler.abandon.filter (fun p => p.1 == b)
  let s := modCh (fun c => { c with abandon := c.abandon.filter (fun p => p.1 != b) }) s
  (mine.foldl (fun s p => withCounts (actEnd p.2) (s.groupCounts p.2) (fun s => s.abandonNow p.2)
    (modCh (fun c => { c with abandon := c.abandon ++ [p] })) s) s).lateFlares b

/-- STEP_FORMATION (R307 to R311, R333): the ready requests are admitted into slots, those not resident sit out, the area is
written and the step launched. -/
def execStepFormation (b : Nat) (s : State) : Out :=
  match s.bind b, s.bindEntry b with
  | some x, some e =>
    if x.isOpen ∨ 256 ≤ (s.queue 0).length ∨ s.krecWaits e then .refused .notPending
    else
      let full := s.records.filter (s.genFull b)
      let late := s.chandler.lateFaults.any (s.lateOf b) || s.chandler.abandon.any (fun p => p.1 == b)
      let s := s.boundary b
      let s := full.foldl (fun s r => s.programFault (s.rget r rProg) (BitVec.ofNat 64 (s.rget r rProgpc)) 0x43 0) s
      let ready := s.records.filter (s.isReady b)
      let s := modCh (fun c => { c with shares := c.shares ++ s.newShares ready [] }) s
      let ready := s.records.filter (s.isReady b)
      if ready.isEmpty then (if full.isEmpty && !late then .refused .notPending else .next s)
      else
        let seq := x.stepseq.toNat
        let order := ready.insertionSort (fun a b => s.goesBefore a b = true)
        let taken := s.admitRow e order 0 e.tokmax []
        let isIn (r : Nat) : Bool := taken.any (fun p => p.1 == r)
        let kept := (taken.filter (fun p => s.rget p.1 rInb == 1)).map (fun p => (p.1, s.rget p.1 rBslot))
        let slots := s.slotFor e (taken.map (fun p => p.1)) kept
        let rows := s.groupFaults (taken.map (fun p =>
          s.rowOf p.1 (((slots.find? (fun q => q.1 == p.1)).map (fun q => q.2)).getD 0) p.2))
        let s1 := (s.records.filter (fun r => s.rget r rBind == b && s.rget r rInb == 1 && !isIn r)).foldl
          (fun s r => s.rset r rInb 0) s
        let s1 := ready.foldl (fun s r => s.rset r rWait (if isIn r then 0 else s.rget r rWait + 1)) s1
        let s1 := rows.foldl (fun s y =>
          let s := s.rsets y.ridx [(rInb, 1), (rBslot, y.slot)]
          let s := if s.rget y.ridx rOp = opGen then s.rset y.ridx rPhase (b2n y.sample) else s
          if y.fault.isNone then s.rsets y.ridx [(rState, 3), (rLaststep, seq)]
          else if s.resident y.ridx (y.pos0 + y.ntok - 1) then s
          else s.rsets y.ridx [(rFcode, 1), (rFstep, seq), (rState, 4)]) s1
        let s1 := modCh (fun c => { c with holds := c.holds.map (fun h => if h.bind = b then { h with left := h.left - 1 } else h) }) s1
        .next (s1.dropPromotions.launchStep b e seq false rows [])
  | _, _ => .refused .notPending

/-! ## Penalty counters and identities (R337, R359, R306) -/

/-- The counter table of a handle. -/
def penTable (h : Nat) : Word := BitVec.ofNat 64 (0x7F000000000000 + h / 4096 * 0x400000)
/-- Whether a request's counter table can take rises: its GEN matches and its VOCAB keeps the limit. -/
def State.penOk (s : State) (r : Nat) : Bool :=
  let h := s.rget r rPenh
  h == 0 || (match (s.agLoad (penTable h) 8).1 with
    | .ok v => v / 2 ^ 32 % 4096 == h % 4096 && decide (v % 2 ^ 32 ≤ 1048560)
    | .error _ => false)
/-- A token's counter raised, saturating; a token at or above VOCAB has none. -/
def State.raiseCounter (s : State) (r t : Nat) : State :=
  let h := s.rget r rPenh
  if h = 0 then s
  else
    match (s.agLoad (penTable h) 8).1 with
    | .error _ => s
    | .ok v =>
      if v % 2 ^ 32 ≤ t then s
      else
        let va := penTable h + BitVec.ofNat 64 (64 + 4 * t)
        match s.agLoad va 4 with
        | (.ok c, s) => (s.agStore chandlerWho va 4 (min (2 ^ 32 - 1) (c + 1))).2
        | (.error _, s) => s
def State.raiseCounters (s : State) (r : Nat) (l : List Nat) : State := l.foldl (fun s t => s.raiseCounter r t) s
/-- The identity that an identity becomes with a token: the one made for the two before, or a new one, so that equal
identities that receive equal tokens stay equal, and unequal contents never share one (R306, R359; log entry 16). -/
def State.shareWith (s : State) (old t : Nat) : Nat × State :=
  match s.chandler.shareIds.find? (fun p => p.2 == (old, t)) with
  | some p => (p.1, s)
  | none =>
    let n := s.newShareId
    (n, modCh (fun c => { c with shareIds := mset c.shareIds n (old, t) }) s.bump)
/-- An identity after tokens, one by one, so that it does not depend on how they are cut. -/
def State.shareAfter (s : State) (old : Nat) : List Nat → Nat × State
  | [] => (old, s)
  | t :: r =>
    let (n, s) := s.shareWith old t
    s.shareAfter n r
/-- A request's committed content reaches a position: its identity takes the tokens that are new in it, in a row with RECOMP too
(R306, R359). -/
def State.identTo (s : State) (r n : Nat) : State :=
  let c := s.identOf r
  let (share, s) := s.shareAfter (s.rget r rShareid) (s.tokens r c (n - c))
  (s.rset r rShareid share).setIdent r (max c n)
/-- The counters of the tokens that the positions from one to another brought rise, each once (R337, R359). -/
def State.countRow (s : State) (r lo hi : Nat) : State :=
  let mine (i : Nat) : Bool := decide (lo ≤ i) && decide (i < hi)
  let l := s.uncountedOf r
  (s.raiseCounters r ((l.filter mine).map (s.token r))).setUncounted r (l.filter (fun i => !mine i))
/-- Whether a commit of these positions raises a counter. -/
def State.countsIn (s : State) (r lo hi : Nat) : Bool := (s.uncountedOf r).any (fun i => decide (lo ≤ i) && decide (i < hi))

/-! ## The rules of the instructions at commit (R360 to R365) -/

/-- The result register of the instruction in progress (R343). -/
def resultReg : Instr → Option HReg
  | .gen _ h | .score _ _ _ h | .choose _ _ _ h | .beam _ _ h | .spec _ _ h => some h
  | _ => none
/-- A step-taking instruction completes: its record, its word and its result register (R359). -/
def State.completeStep (s : State) (r : Nat) (v : Word) : State :=
  let p := s.rget r rProg
  let addr := BitVec.ofNat 64 (s.rget r rProgpc)
  let gone := s.chandler.abandon.any (fun x => x.2 == r)
  let reg := ((s.prog p).bind (fun g => g.words.find? (fun w => w.addr == addr))).bind (fun w => w.instr.bind resultReg)
  let s := s.finishStep r
  if gone then s else s.completeAt p addr (reg.map (fun h => (h, v)))
/-- A record that goes on. -/
def State.goOn (s : State) (r : Nat) : State := (s.rset r rState 2).setPhaseOf r
/-- GEN after a draw (R361). -/
def State.genDrew (s : State) (r tok : Nat) : State :=
  let s := s.rset r rDone (s.rget r rDone + 1)
  let done (reason : Nat) : State := s.completeStep r (genValue reason (s.rget r rDone))
  if s.rget r rEn0 = 1 ∧ tok = s.rget r rStop0 then done 1
  else if s.rget r rEn1 = 1 ∧ tok = s.rget r rStop1 then done 2
  else if s.rget r rDone = s.rget r rProgn then done 0
  else if s.rget r rMaxpos ≠ 0 ∧ s.rget r rMaxpos ≤ s.rget r rTlen then done 3
  else s.goOn r
/-- APPEND after a row (R360), and the GEN that joined its last one (R311, R357). -/
def State.appendRow (s : State) (r len : Nat) (joined tok : Option Nat) : State :=
  let s := s.rset r rDone (min (s.rget r rProgn) (s.rget r rPos - s.rget r rProga))
  if s.rget r rPos < len then s.goOn r
  else
    let p := s.rget r rProg
    let gone := s.chandler.abandon.any (fun x => x.2 == r)
    let s := s.completeStep r 0
    match joined, tok, s.prog p with
    | some a, some t, some g =>
      let addr := BitVec.ofNat 64 a
      match (g.words.find? (fun w => w.addr == addr)).bind (fun w => w.instr) with
      | some (.gen _ hn) =>
        if gone then s
        else
          let s := s.modProg p (fun g => { g with words := modWord addr (fun w => { w with st := .issued }) g.words })
          (s.issueStep r opGen addr len (g.hreg hn).toNat).genDrew r t
      | _ => s
    | _, _, _ => s
/-- A sum's rank: NaN below every number, then by value (R363). -/
def sumBelow (a b : Nat) : Bool :=
  let x := Fty.f64.val a
  let y := Fty.f64.val b
  if x.isNan then !y.isNan else !y.isNan && decide (cmpVal x y < 0)
/-- The index of the largest sum, the lower on a tie. -/
def bestSum : List Nat → Nat
  | [] => 0
  | a :: r =>
    let k := bestSum r
    match r[k]? with
    | some b => if sumBelow a b then k + 1 else 0
    | none => 0
/-- Two records exchange tables and strings; the first takes the second's length, position, identity and uncounted tokens. -/
def State.takeFrom (s : State) (r x : Nat) : State :=
  let (ra, rb) := (s.rword r 3, s.rword x 3)
  let (ta, tb) := (s.rword r 4, s.rword x 4)
  let (sa, sb) := ((mget s.chandler.strings r).getD 0, (mget s.chandler.strings x).getD 0)
  let s := (((s.rwrite r 3 rb).rwrite x 3 ra).rwrite r 4 tb).rwrite x 4 ta
  let s := modCh (fun c => { c with strings := mset (mset c.strings r sb) x sa }) s
  let s := (s.setUncounted r (s.uncountedOf x)).setIdent r (s.identOf x)
  s.rsets r [(rTlen, s.rget x rTlen), (rPos, s.rget x rPos), (rLasttok, s.rget x rLasttok), (rShareid, s.rget x rShareid)]
/-- CHOOSE when its last candidate has ended (R363, R370). -/
def State.chooseDone (s : State) (r : Nat) : State :=
  let g := s.groupOf r
  let c := g.headD r
  let sums := g.map (fun x => s.rget x rProgs)
  let k := bestSum sums
  let table := BitVec.ofNat 64 (s.rget c rProgt)
  let (bad, s) := sums.zipIdx.foldl (fun (p : Option Nat × State) q =>
    let (e, s) := p.2.agStore chandlerWho (table + BitVec.ofNat 64 (16 * q.2 + 8)) 8 q.1
    (p.1 <|> e, s)) (none, s)
  let s := if k = 0 then s else s.takeFrom c (g.getD k c)
  let s := s.dropGroup c
  match bad with
  | some cause => (s.rset c rState 1).programFault (s.rget c rProg) (BitVec.ofNat 64 (s.rget c rProgpc)) 0x42 cause
  | none => s.completeStep c (BitVec.ofNat 64 k)
/-- SCORE, and each candidate of CHOOSE, after a row (R362, R363). -/
def State.scoreRow (s : State) (r n : Nat) (scored : Bool) : State :=
  let s := if scored then s.rset r rDone (s.rget r rDone + n) else s
  if s.rget r rDone < s.rget r rProgn then s.goOn r
  else if s.rget r rOp = opScore then s.completeStep r (BitVec.ofNat 64 (s.rget r rProgs))
  else
    let s := s.goOn r
    if (s.groupOf r).all (fun x => decide (s.rget x rDone = s.rget x rProgn)) then s.chooseDone r else s

/-- SPEC's accepted tokens in path order, from the node named back to the string's end: none when the path does not run
there in the count given (R365). -/
def State.specPath (s : State) (area : Nat) : Nat → Nat → Option (List Nat)
  | 0, v => if v = 0 then some [] else none
  | n + 1, v =>
    if v = 0 then none
    else
      match (s.agLoad (BitVec.ofNat 64 (area + 16 * v)) 8).1 with
      | .ok w => (s.specPath area n (w / 2 ^ 58 % 64)).map (fun l => l ++ [w % 2 ^ 32])
      | .error _ => none
/-- The result of a SPEC's verify row: the accepted tokens. -/
def State.specResult (s : State) (r : Nat) : Option (List Nat) :=
  let area := s.rget r rProga
  let va := BitVec.ofNat 64 (area + 8)
  match s.agAddr .load va, (s.agLoad va 8).1 with
  | .ok pa, .ok w =>
    let node := w / 256 % 64
    if (s.wordMeta (wordOfAddr pa)).full && decide (node ≤ s.rget r rProgn) then s.specPath area (w % 64) node else none
  | _, _ => none

/-- A BEAM area's entry: parent, token and score. -/
structure BeamEntry where
  parent : Nat
  token : Nat
  score : Nat
  deriving DecidableEq, Repr
/-- The entries of a BEAM area; none when a word is empty or cannot be read, or names no beam (R364). -/
def State.beamEntries (s : State) (area k old : Nat) : Option (List BeamEntry) :=
  (List.range k).mapM (fun j =>
    let word (i : Nat) : Option Nat :=
      let va := BitVec.ofNat 64 (area + 8 * i)
      match s.agAddr .load va, (s.agLoad va 8).1 with
      | .ok pa, .ok w => if (s.wordMeta (wordOfAddr pa)).full then some w else none
      | _, _ => none
    match word (2 * j), word (2 * j + 1) with
    | some a, some v => if a / 2 ^ 32 % 16 < old then some ⟨a / 2 ^ 32 % 16, a % 2 ^ 32, v⟩ else none
    | _, _ => none)
/-- The order of entries: score descending with NaN last, then parent, then token. -/
def BeamEntry.before (a b : BeamEntry) : Bool :=
  if sumBelow b.score a.score then true
  else if sumBelow a.score b.score then false
  else decide ([a.parent, a.token] ≤ [b.parent, b.token])
/-- The beams a group has so far: one before its first commit. -/
def State.oldBeams (s : State) (g : List Nat) : List Nat := if s.rget (g.headD 0) rPhase = 0 then g.take 1 else g
/-- The rows of tables after a BEAM step (R330): counts rise for each further child of a parent, then fall for each old beam
that none chose, whose directories the further children take. Answers the directory of each new beam. -/
def State.rebind (s : State) (g : List Nat) (l : List BeamEntry) : List Nat × State :=
  let roots := g.map s.rootOf
  let old := (s.oldBeams g).length
  let root (i : Nat) : Nat := roots.getD i 0
  let first (j i : Nat) : Bool := !(l.take j).any (fun e => e.parent == i)
  let further := l.zipIdx.filter (fun p => !first p.2 p.1.parent)
  let contents (i : Nat) : List ((Nat × Nat) × Word) :=
    (s.places (root i)).map (fun q => (q, s.entry (root i) q.1 q.2))
  let copies := further.map (fun p => (p.2, contents p.1.parent))
  let s := copies.foldl (fun s p => p.2.foldl (fun s q => s.raiseEntry q.2) s) s
  let spare := (List.range g.length).filter (fun i => decide (old ≤ i) || !l.any (fun e => e.parent == i))
  let s := spare.foldl (fun s i => s.overPlaces (fun s q => s.clearEntry (root i) q) (s.places (root i))) s
  let given := copies.zip spare
  let s := given.foldl (fun s p => p.1.2.foldl (fun s q => s.setEntry (root p.2) q.1.1 q.1.2 q.2) s) s
  (l.zipIdx.map (fun p => match given.find? (fun x => x.1.1 == p.2) with
    | some x => root x.2
    | none => root p.1.parent), s)
/-- The rule of a BEAM step, its rows without a fault (R364). -/
def State.beamStep (s : State) (c : Nat) (l : List BeamEntry) : State :=
  let g := s.groupOf c
  let l := l.insertionSort (fun a b => BeamEntry.before a b = true)
  let parents := g.map (fun x => (s.tokens x 0 (s.rget x rTlen), s.rget x rPos, s.rget x rShareid, s.identOf x,
    s.uncountedOf x, [5, 6, 7, 8, 9, 10].map (s.rword x)))
  let done := s.rget c rDone + 1
  let (dirs, s) := s.rebind g l
  let s := (l.zip dirs).zipIdx.foldl (fun s p =>
    let ((e, dir), j) := p
    let r := g.getD j c
    let (toks, pos, share, ident, late, ws) := parents.getD e.parent ([], 0, 0, 0, [], [])
    let s := ([5, 6, 7, 8, 9, 10].zip ws).foldl (fun s q => s.rwrite r q.1 q.2) s
    let s := s.putTokens r 0 (toks ++ [e.token])
    let s := s.rsets r [(rKvroot, dir / 256), (rTlen, toks.length + 1), (rPos, pos), (rLasttok, e.token), (rProgs, e.score),
      (rShareid, share), (rDone, done), (rPhase, 1), (rState, 2)]
    ((s.raiseCounter r e.token).setUncounted r late).setIdent r ident) s
  if done < s.rget c rProgn then s
  else
    let score := BitVec.ofNat 64 (s.rget c rProgs)
    (s.dropGroup c).completeStep c score

/-! ## The commit (R316, R317) -/

/-- An output of a row. -/
def Row.output (x : Row) (k : EmitKind) (i : Nat) : Option Word :=
  (x.outputs.find? (fun o => o.1 == k && o.2.1 == i)).map (fun o => o.2.2)
/-- The LOGPs of a row, in ascending IDX. -/
def Row.logps (x : Row) : List Word := (List.range x.ntok).filterMap (fun i => x.output .logp i)
/-- The fault of a row at commit: its own, a missing output, or a counter table that does not match (R316, R337, R364, R365). -/
def State.rowFault (s : State) (rows : List Row) (x : Row) : Option Nat :=
  if x.fault.isSome then x.fault
  else if x.sample && (x.output .token (x.ntok - 1)).isNone then some 4
  else if x.scoref && decide (x.logps.length < x.ntok) then some 4
  else if s.rget x.ridx rOp == opSpec && x.sample && (s.specResult x.ridx).isNone then some 4
  else if s.beamRow x.ridx then
    let g := s.groupOf x.ridx
    if rows.any (fun y => g.contains y.ridx && y.fault.isSome) then none
    else if (s.beamEntries (s.rget x.ridx rProga) g.length (s.oldBeams g).length).isNone then some 4
    else if s.penOk x.ridx then none else some 2
  else if !s.penOk x.ridx && (x.sample || (!x.recomp && s.countsIn x.ridx x.pos0 (x.pos0 + x.ntok))) then some 2
  else none
/-- R316 for a row without a fault, then the rule of its instruction. BEAM's rule waits for its whole group. -/
def State.commitRow (s : State) (x : Row) : State :=
  let r := x.ridx
  let op := s.rget r rOp
  let len := s.rget r rTlen
  let sum := x.logps.foldl (fun (n : Nat) v => (fadd .f64 .rne n v.toNat).1) (s.rget r rProgs)
  let spec := if op == opSpec && x.sample then s.specResult r else none
  let s := s.rsets r [(rProgs, if x.scoref then sum else s.rget r rProgs), (rPos, s.rget r rPos + x.ntok)]
  let s := s.identTo r (x.pos0 + x.ntok)
  let s := if x.recomp then s else s.countRow r x.pos0 (x.pos0 + x.ntok)
  let tok := if x.sample then (x.output .token (x.ntok - 1)).map (fun v => v.toNat % 2 ^ 32) else none
  let new := spec.getD [] ++ tok.toList
  let s := if new.isEmpty then s else (s.extend r new).raiseCounters r new
  match op with
  | 0x20 => s.appendRow r len x.joined tok
  | 0x21 => match tok with
    | some t => s.genDrew r t
    | none => s.goOn r
  | 0x22 | 0x23 => s.scoreRow r x.ntok x.scoref
  | 0x25 =>
    match spec with
    | some l =>
      let pos := s.rget r rPos + l.length
      ((s.rset r rPos pos).identTo r pos).completeStep r (BitVec.ofNat 64 (l.length + 1))
    | none => s.goOn r
  | _ => s.rset r rState 2
/-- The follower of a request that has reached the end of a shared part takes its blocks, all of TIER 01, and its identity, that
of the same tokens, and goes on, or completes; a counter table that does not match is its own fault (R326, R337, R369). -/
def State.handOver (s : State) (seq : Nat) (x : Share) : State :=
  let f := x.follower
  let (ra, rf) := (s.rootOf x.leader, s.rootOf f)
  let pos := s.rget f rPos
  let blocks := (s.places rf).filter (fun q => decide (pos / 64 ≤ q.2) && decide (64 * q.2 < x.upto))
  if s.rget x.leader rPos < x.upto ∨ blocks.any (fun q => entTier (s.entry ra q.1 q.2) != 1) then s
  else
    let s := modCh (fun c => { c with shares := c.shares.filter (fun y => y != x) }) s
    if !s.penOk f && s.countsIn f 0 x.upto then s.requestFault f 2 seq
    else
      let s := s.overPlaces (fun s q => s.raiseEntry (s.entry ra q.1 q.2)) blocks
      let s := s.overPlaces (fun s q => (s.clearEntry rf q).setEntry rf q.1 q.2 (s.entry ra q.1 q.2)) blocks
      (((s.rset f rPos x.upto).identTo f x.upto).countRow f 0 x.upto).appendRow f (s.rget f rTlen) none none
/-- Shared parts handed over, until no follower's advance lets another go on. -/
def State.handOvers (s : State) (seq : Nat) : Nat → State
  | 0 => s
  | n + 1 => (s.chandler.shares.foldl (fun s x => s.handOver seq x) s).handOvers seq n
/-- The rows of a step committed, in ascending slot order; then BEAM groups, faults and shared prefixes. -/
def State.commitRows (s : State) (seq : Nat) (rows : List Row) : State :=
  let rows := rows.insertionSort (fun a b => a.slot ≤ b.slot)
  let rows := rows.map (fun x => { x with fault := s.rowFault rows x })
  let beams := (rows.filter (fun x => x.fault.isNone && s.beamRow x.ridx && s.rget x.ridx rProgx == 0 &&
    !rows.any (fun y => y.fault.isSome && (s.groupOf x.ridx).contains y.ridx))).filterMap (fun x =>
      (s.beamEntries (s.rget x.ridx rProga) (s.groupOf x.ridx).length (s.oldBeams (s.groupOf x.ridx)).length).map
        (fun l => (x.ridx, l)))
  let s := rows.foldl (fun s x =>
    match x.fault with
    | none => s.commitRow x
    | some 1 => s.rset x.ridx rInb 0
    | some code => s.requestFault x.ridx code seq) s
  let s := beams.foldl (fun s p => s.beamStep p.1 p.2) s
  let s := modCh (fun c => { c with shares := c.shares.filter (fun y =>
    !rows.any (fun x => x.ridx == y.leader && x.fault.isSome && x.fault != some 1)) }) s
  s.handOvers seq (s.chandler.shares.length + 1)
/-- The requests whose blocks a commit of some rows may take, give or free: those of CHOOSE and BEAM groups, and those of
sharings (R326, R329, R369). -/
def State.commitCounts (s : State) (rows : List Row) : List Nat :=
  let groups := (rows.map (fun x => s.groupOf x.ridx)).filter (fun g => decide (1 < g.length))
  let shared := s.chandler.shares.filter (fun y => rows.any (fun x => x.ridx == y.leader))
  s.countsOfAll (groups.flatten ++ (if shared.isEmpty then [] else s.chandler.shares.flatMap (fun y => [y.leader, y.follower])))
/-- Whether a step's commit is due: its NEND ends, its launch's end, or its refusal (R309, R315). -/
def State.commitDue (s : State) (b : Nat) (x : Bind) : Bool :=
  let nend := ((s.bindEntry b).map (fun e => e.nend)).getD 0
  x.isOpen && (x.st == .ended || x.st == .refused || (nend != 0 && decide (nend ≤ x.ends)))
/-- The rows of an open step that a flare names (R408). -/
def State.flaredRows (_s : State) (x : Bind) : List Row :=
  x.rows.filter (fun y => x.flared.contains y.slot && y.fault != some 1)
/-- The rows that wait for them: the others of a BEAM group, which commits as a whole (R364). -/
def State.keptRows (s : State) (x : Bind) : List Row :=
  let again := s.flaredRows x
  x.rows.filter (fun y => y.fault != some 1 && s.beamRow y.ridx && !again.any (fun z => z.slot == y.slot) &&
    again.any (fun z => (s.groupOf z.ridx).contains y.ridx))
/-- Rows added to those of a step that have committed. -/
def Bind.commit (x : Bind) (rows : List Row) : Bind :=
  { x with past := mset x.past x.stepseq.toNat ((mget x.past x.stepseq.toNat).getD [] ++ rows) }
/-- STEP_COMMIT (R316, R317): rows that a flare of a re-execution named take FCODE 0x03 (R408), and its rows have been run
again; a refused launch is logged, and every valid row takes FCODE 0x07 (R309). It waits for the count words it changes
(R326). -/
def execStepCommit (b : Nat) (s : State) : Out :=
  match s.bind b with
  | none => .refused .notPending
  | some x =>
    let flared := s.flaredRows x
    if !s.commitDue b x || (!flared.isEmpty && !x.reex && x.st != .refused) then .refused .notPending
    else
      let seq := x.stepseq.toNat
      let refused := x.st == .refused
      let rows := (x.rows ++ x.kept).map (fun y =>
        if refused && y.fault.isNone then { y with fault := some 7 }
        else if x.reex && flared.any (fun z => z.slot == y.slot) && y.fault.isNone then { y with fault := some 3 } else y)
      .next (withCounts (actCommit b) (s.commitCounts rows) (fun s =>
        let s := if refused then
            s.logEntry 2 false 0x2E chandlerLoc 0 (((s.bindEntry b).map (fun e => e.krec)).getD 0)
          else s
        let s := if x.reex then
            x.rows.foldl (fun s y => s.rsets y.ridx [(rReexec, s.rget y.ridx rReexec + 1), (rFlstep, seq)]) s
          else s
        let s := s.commitRows seq rows
        let s := x.late.foldl (fun s r => s.lateFault r seq) s
        let s := s.modBind b (fun z => { z.commit (x.rows ++ x.kept) with
          isOpen := false
          late := []
          stepseq := z.stepseq + 1
          rows := []
          flared := []
          kept := []
          reex := false
          st := .none })
        s.boundary b) id s)
/-- FLARE_REEXECUTION (R317, R408): the rows that no flare named commit, but for those of a BEAM group with one; those named
run again, with the same STEPSEQ and REEX set. -/
def execFlareReexecution (b : Nat) (s : State) : Out :=
  match s.bind b, s.bindEntry b with
  | some x, some e =>
    let again := s.flaredRows x
    if !s.commitDue b x || again.isEmpty || x.reex || x.st == .refused || decide (256 ≤ (s.queue 0).length) || s.krecWaits e then
      .refused .notPending
    else
      let seq := x.stepseq.toNat
      let fresh := again.map (fun y => { y with outputs := [], fault := none })
      let kept := s.keptRows x
      let others := x.rows.filter (fun y => !(again ++ kept).any (fun z => z.slot == y.slot))
      .next (withCounts (actCommit b) (s.commitCounts others) (fun s =>
        ((s.commitRows seq others).modBind b (fun z => z.commit others)).launchStep b e seq true fresh kept) id s)
  | _, _ => .refused .notPending

/-! ## What step kernels hand over (R314, R315) -/

/-- The binding whose open step a launch runs now. -/
def State.runsStep (s : State) (launch : Word) : Option Nat :=
  match (s.launchOf launch).bind (fun l => l.step) with
  | some (b, seq) =>
    (s.bind b).bind (fun x => if x.isOpen && x.stepseq.toNat == seq && x.st == .placed (lidOf launch) then some b else none)
  | none => none
/-- An output held for its row: a second TOKEN or LOGP of one place is FCODE 0x05, an EMIT FAULT is FCODE 0x02. -/
def Row.take (x : Row) (o : Output) : Row :=
  if x.slot ≠ o.bslot ∨ x.fault = some 1 then x
  else if o.kind = .fault then { x with fault := x.fault <|> some 2 }
  else if (x.output o.kind o.idx).isSome then { x with fault := x.fault <|> some 5 }
  else { x with outputs := x.outputs ++ [(o.kind, o.idx, o.value)] }
/-- An EMIT's answer (R314): held, or cause 0x35 after the commit. -/
def State.outputArrives (s : State) (o : Output) : State :=
  let answer (s : State) (r : Reply) : State := s.send (path 12 1 (tid o.name.core o.name.slot)) (.reply o.name r)
  match s.runsStep o.launch with
  | some b => answer (s.modBind b (fun x => { x with rows := x.rows.map (fun y => y.take o) })) .done
  | none => answer s (.fault 0x35 0x69 0 (BitVec.ofNat 64 (s.stepSeq o.launch)) 0)
/-- A STEPEND's answer (R315). -/
def State.endArrives (s : State) (n : TName) (launch : Word) : State :=
  let s := match s.runsStep launch with
    | some b => s.modBind b (fun x => { x with ends := x.ends + 1 })
    | none => s
  s.send (path 12 1 (tid n.core n.slot)) (.reply n .done)

end Sys2Proof.Machine
end

