-- ==== Sys2Proof/Machine/Replies.lean ====
section
/-! DEFINITION. Replies (R18, R19): what a thread's oldest issued instruction does with its answer, what a relaxed load's
answer does (R178, R207), and where the answers of units go. -/

namespace Sys2Proof.Machine

/-- The trap of a fault that an answer carries. -/
def faultTrap (cause detail : Nat) (va vb vc : Word) : Trap := { cause := cause, detail := detail, va := va, vb := vb, vc := vc }

/-! ## The oldest issued instruction (R19) -/

/-- What a thread takes from a value (R177, R180, R182, R184, R313). -/
def takeValue (d : Dest) (v : Word) (x : Bool) (th : Thread) : Thread :=
  match d with
  | .none => th
  | .reg r t => th.setReg r (t.ty.extend v.toNat) x
  | .pred p => th.setPred p (v ≠ 0)
  | .status r => th.setReg r v false
/-- A woken access reissues in full at its thread's next turn: it reads its registers, translates and is checked again, and a
further park of it is a re-park (R151, R156, R180). -/
def State.wakeAccess (s : State) (core slot : Nat) : State :=
  s.modThread (tid core slot) (fun th => th.modHead (fun p => { p with phase := .again, repark := true }))
/-- The answer of a vector access's element: the next goes, or the whole access ends; a fault starts it over once service
answers (R137, R138). -/
def State.elemAnswer (s : State) (core slot : Nat) (store : Bool) (v : VReg) (ty : Ty) (todo done : List Elem) (r : Reply) : State :=
  let t := tid core slot
  match todo, r with
  | [], _ => s
  | _, .fault c d va vb vc => (s.setOp t (.vector store v ty (done ++ todo) []) .drain).trapPending core slot (faultTrap c d va vb vc)
  | e :: rest, r =>
    let e := match r with
      | .value w x => { e with data := w, poison := x }
      | _ => e
    if rest.isEmpty then s.finish t (if store then (fun th => th) else gathered v ty (done ++ [e]))
    else s.setOp t (.vector store v ty rest (done ++ [e])) .drain
/-- A thread's oldest issued instruction hears its answer. -/
def State.headAnswer (s : State) (core slot : Nat) (th : Thread) (p : Pending) (r : Reply) : State :=
  let t := tid core slot
  match p.op, r with
  | .vector store v ty todo done, r => s.elemAnswer core slot store v ty todo done r
  | .launch addr words, .value v x => s.recordWord core slot p addr words v x
  | .emit _, .fault 0x35 .. => s.lateStep core slot th 0x69 p
  | _, .fault c d va vb vc => s.trapPending core slot (faultTrap c d va vb vc)
  | _, .wake => s.wakeAccess core slot
  | .access _ _ _ _ _ _ _ dest, .value v x => s.finish t (takeValue dest v x)
  | .access _ _ _ _ _ _ _ dest, .status v => s.finish t (takeValue dest v false)
  | .unit w, _ => s.finish t (fun th => (th.vset w.v ⟨w.lanes, w.poison⟩).raise w.flags)
  | .rrec d _ _, .value v x => s.finish t (fun th => th.setReg d v x)
  | .sys _ _ (some d), .value v x => s.finish t (fun th => th.setReg d v x)
  | .stepend, _ => s.finish t (fun th => { th with stepEnded := true })
  | _, _ => s.finish t (fun th => th)

/-! ## Relaxed loads (R178, R421) -/

/-- Whether a thread is TRAPPED, so that a relaxed load's answer waits for service's (R456). -/
def trappedNow (th : Thread) : Bool :=
  match th.run with
  | .trapped _ _ => true
  | _ => false
/-- A relaxed load's answer: its destination is written and becomes present; a fault traps the thread, with the program
counter of the load's bundle in the message. -/
def State.relaxedAnswer (s : State) (t : Nat) (r : Reply) : State :=
  match s.thread t with
  | none => s
  | some th =>
    match th.relaxed, r with
    | none, _ => s
    | some x, .value v p => s.setThread t { th.setReg x.dest (x.ty.ty.extend v.toNat) p with relaxed := none }
    | some x, .fault c d va vb vc =>
      let s := s.sendTrap (t / 8) (t % 8) th.gen th.launchid x.pc false (faultTrap c d va vb vc)
      let stops := th.stopq || decide (th.run = .stopped)
      s.setThread t { th.toTrap c false with relaxed := some { x with faulted := true }, stopq := stops }
    | some _, _ => s

/-! ## REPLY_ARRIVAL (R19) -/

/-- The answer of a unit that made an access (R155): a copy engine, a key-value port, the launch unit, an agent program, the
host port, a Beacon port, or the Chandler or its page engine for a count word it asked for. -/
def State.unitAnswer (s : State) (w : Who) (r : Reply) : State :=
  match w with
  | .thread _ => s
  | .engine n =>
    if n < 2048 then s.copyAnswer n r
    else if 4096 ≤ n ∧ n < 4224 then s.portAnswer (n - 4096) r
    else if n = launchUnit then s.cwordAnswer r
    else s
  | .agent n => if n < 65536 then s.agentAnswer n r else if n < 65538 then s else s.resultAnswer n r
  | .chandler _ => s.chandlerAnswer r
  | .pager n => s.pagerAnswer n r
  | .host n => s.fillAnswer n r
  | .peer p n => s.remoteAnswer p n r
/-- REPLY_ARRIVAL: a reply or a release reaches its thread or unit, or an output its binding (R19, R314, R315). A relaxed
load's, which finds its thread TRAPPED, waits. -/
def execReplyArrival (id : Nat) (s : State) : Out :=
  match s.msg? id with
  | some (.reply n r) =>
    let s := s.take id
    .next (match s.named n with
      | some th =>
        match th.pend with
        | p :: _ => s.headAnswer n.core n.slot th p r
        | [] => s
      | none => s)
  | some (.relaxedReply n r) =>
    match s.named n with
    | some th => if trappedNow th then .next s else .next ((s.take id).relaxedAnswer (tid n.core n.slot) r)
    | none => .next (s.take id)
  | some (.unitReply w r) => .next ((s.take id).unitAnswer w r)
  | some (.output o) => .next ((s.take id).outputArrives o)
  | some (.stepEnd n launch) => .next ((s.take id).endArrives n launch)
  | _ => .refused .notPending

end Sys2Proof.Machine
end

