-- ==== Sys2Proof/Machine/Issue.lean ====
section
/-! DEFINITION. A thread's turn (R14, R15): fetching its bundle (R86, R401), the decoder's checks (R84, R85, R42), capture and
replay (R41 to R44, R139), the energy charge (R38), both slots, and what an issued bundle leaves (R15, R113). -/

namespace Sys2Proof.Machine

/-! ## Fetching (R84, R86, R401) -/

/-- The thread as the bundle reads and writes it, changed in both. -/
def bothSides (f : Thread → Thread) (s : State) : State :=
  { s with iss := { s.iss with snap := f s.iss.snap, live := f s.iss.live } }
/-- An issue begun at a thread's turn. -/
def State.beginIssue (s : State) (core slot : Nat) (th : Thread) : State :=
  let th := { th with run := .run }
  { s with iss := ⟨true, core, slot, th.pc, 0, .nopA 0, 0, false, th, th, th.pc + 8, false, false⟩ }
/-- A bundle read through the aperture of a peer module, by the view of its address: refused, it traps; not ready, the thread
waits and fetches again (R383, R384, R386). -/
def State.fetchPeer (s : State) (pa : Nat) : State :=
  let th := s.iss.snap
  match s.readNow ⟨.ld, s.iss.pc, pa, 8, 0, .thread s.issName, .rx, .system, false, false, th.priv, th.launchid, 0, false, s.iss.pc⟩ with
  | (.value v _ x, s) =>
    if x then trap { cause := 0x10, detail := 6 * 32 } s else { s with iss := { s.iss with bundle := v } }
  | (.parks _, s) => stopWait 2 s.iss.pc s
  | (.refused reason, s) => trap { cause := 0x36, detail := reason, va := s.iss.pc, vb := BitVec.ofNat 64 pa } s
/-- The bundle at the thread's program counter, as it was fetched ahead, or from memory now: a translation fault, a fence, a
fallen link or a poisoned word traps, and a TLB miss waits for its walk. None when the issue has stopped. -/
def State.fetchBundle (s : State) : Option Word × State :=
  let now (s : State) : Option Word × State :=
    let s1 := withAddress .fetch s.iss.pc (fun pa s =>
      match s.wayBlocked pa with
      | some cause => trap { cause := cause, va := s.iss.pc, vb := BitVec.ofNat 64 pa } s
      | none =>
        if isPeer pa then s.fetchPeer pa
        else
          let s := s.wordError (wordOfAddr pa) s.issName.word
          if s.isPoisonAt pa then trap { cause := 0x10, detail := 6 * 32 } s
          else { s with iss := { s.iss with bundle := s.busWord (wordOfAddr pa) } }) s
    (if s1.iss.stopped then none else some s1.iss.bundle, s1)
  match s.iss.snap.ahead with
  | (pc, w) :: r =>
    let s := bothSides (fun th => { th with ahead := r }) s
    if pc = s.iss.pc then (some w, { s with iss := { s.iss with bundle := w } })
    else now (bothSides (fun th => { th with ahead := [] }) s)
  | [] => now s
/-- Up to `n` bundles fetched ahead from an address up, as far as nothing stops a fetch and none leaves the module; each fetch
checks its word (R86, R409). -/
def State.fetchAhead (s : State) (core slot : Nat) (th : Thread) (pc : Word) : Nat → List (Word × Word) × State
  | 0 => ([], s)
  | n + 1 =>
    match s.translate core slot th.space th.priv .fetch pc with
    | .ok pa =>
      if (s.wayBlocked pa).isSome || isPeer pa then ([], s)
      else
        let s := s.wordError (wordOfAddr pa) (nameAt core slot th).word
        if s.isPoisonAt pa then ([], s)
        else
          let (l, s1) := s.fetchAhead core slot th (pc + 8) n
          ((pc, s.busWord (wordOfAddr pa)) :: l, s1)
    | _ => ([], s)
/-- What a thread holds fetched ahead after its bundle: what it held and, up to two bundles, what it now fetches, of which how
many is free; nothing after a transfer, while a FENCE of it drains, or when it is TRAPPED (R86, R187; log entry 29). -/
def State.aheadAfter (s : State) (taken : Bool) (next : Word) : List (Word × Word) × State :=
  let th := s.iss.live
  let held := th.ahead.take 2
  let fences := th.pend.any (fun p => match p.op with
    | .fence _ => true
    | _ => false)
  if taken || fences || trappedNow th then ([], s)
  else
    let (l, s) := s.fetchAhead s.iss.core s.iss.slot th (next + BitVec.ofNat 64 (8 * held.length))
      (Config.fetchedAhead s.fresh % (3 - held.length))
    (held ++ l, s)

/-! ## The decoder's checks (R84, R85, R42) -/

/-- The illegal-instruction message (R85, R396). -/
def illegalTrap (e : Illegal) (bundle : Word) : Trap :=
  { cause := e.cause.code, detail := e.slot + 4 * b2n e.second, va := bundle }
/-- The cases of R42 that depend on the buffer's state, for the V slot's instruction. -/
def repBad (r : Rep) : Instr → Bool
  | .nopV => false
  | .rep .. => r.cap
  | .repend => !r.cap
  | .repgo => r.cap || r.code.isEmpty
  | .vclaim .. | .vyield => r.cap
  | _ => r.cap && decide (16 ≤ r.code.length)
/-- Whether an instruction is captured while capture is open (R139). -/
def isCaptured : Instr → Bool
  | .nopV | .rep .. | .repend | .repgo => false
  | _ => true
/-- Whether a bundle waits, whole and undecoded, while replay runs: its V slot holds an instruction other than NOP, or its A
slot BAR, MIG, EXIT, SPAWN or LAUNCH (R44). -/
def waitsReplay (w : Word) : Bool :=
  let aw := w.toNat % 2 ^ 32
  let vmajor := bits w.toNat 59 5
  (vmajor != 0 && vmajor != 31) || [0x63, 0x61, 0x60, 0x62].contains (bits aw 25 7) || (bits aw 25 7 == 0x25 && bits aw 3 2 == 3)

/-! ## Replay (R43, R44, R139) -/

/-- The captured instruction that replay issues next, with its register fields rewritten. -/
def Rep.current (r : Rep) : Option Instr :=
  if !r.act then none
  else
    match r.code[r.pos]? with
    | none => none
    | some w => (decodeV w.toNat).toOption.map (restrideInstr r.iter.toNat r.sd r.sa r.sb)
/-- REPLAY_ISSUE: the V slot of the bundle the thread issues at this turn holds the next captured instruction, rewritten for
its iteration (R43). -/
def execReplayIssue (s : State) : Out :=
  match s.iss.active, s.iss.snap.rep.current with
  | true, some i => .next { s with iss := { s.iss with instr := i, word := vWord i, vslot := true } }
  | _, _ => .refused .notPending
/-- Whether the instruction that replay has just issued is the last of the last iteration. -/
def Rep.atEnd (r : Rep) : Bool :=
  r.act && decide (r.code.length ≤ r.pos + 1) && decide (r.count.toNat ≤ r.iter.toNat + 1)
/-- REPLAY_COMPLETE: the last iteration ends and ACT clears (R139). -/
def execReplayComplete (s : State) : Out :=
  if s.iss.active ∧ s.iss.live.rep.atEnd then .next (live (fun th => { th with rep := th.rep.advance }) s)
  else .refused .notPending

/-! ## One turn (R15, R38, R44) -/

/-- What a bundle is to do: its two instructions, the words that enter the hash (R113), whether the thread's own bundle waits
for replay, whether the V slot is a replayed instruction, the word captured, and the charge. -/
structure Plan where
  a : Instr
  v : Instr
  aw : Lane
  vw : Lane
  waits : Bool
  replay : Bool
  captured : Option Lane
  cost : Nat
  deriving DecidableEq, Repr

/-- The plan of a bundle, or the trap it raises. R38 charges a V slot, and R41 has a captured one not execute: it is charged
nothing at capture (DEDUCED: log entry 75). -/
def planOf (svc : Bool) (th : Thread) (w : Word) : Except Trap Plan :=
  match th.rep.current with
  | some i =>
    let cost := vCharge i th.vl.toNat
    if waitsReplay w then .ok ⟨.nopA 0, i, 0, vWord i, true, true, none, cost⟩
    else
      match decodeBundle svc w with
      | .error e => .error (illegalTrap e w)
      | .ok b =>
        if b.a.gdest.isSome && b.a.gdest == i.gdest then .error (illegalTrap ⟨2, false, .twoDestinations⟩ w)
        else .ok ⟨b.a, i, b.aw, vWord i, false, true, none, cost⟩
  | none =>
    match decodeBundle svc w with
    | .error e => .error (illegalTrap e w)
    | .ok b =>
      if repBad th.rep b.v then .error { cause := 0x0D, detail := 2, va := w }
      else if th.rep.cap && isCaptured b.v then .ok ⟨b.a, .nopV, b.aw, b.vw, false, false, some b.vw, 0⟩
      else .ok ⟨b.a, b.v, b.aw, b.vw, false, false, none, vCharge b.v th.vl.toNat⟩
/-- A slot's instruction and word in place for its issue. -/
def inSlot (v : Bool) (i : Instr) (w : Lane) (s : State) : State := { s with iss := { s.iss with instr := i, word := w, vslot := v } }
/-- Whether the bundle has issued a MIG or a LAUNCH: its V slot takes effect only when that is accepted, since until then the
bundle may yet take none (R270, R271; log entry 80). -/
def migrates (th : Thread) : Bool := th.pend.any (fun p => match p.op with
  | .mig _ | .launch .. => true
  | _ => false)
/-- The V slot of a bundle whose MIG or LAUNCH has issued: it goes behind that, to issue or to be captured when it is
accepted. -/
def deferV (p : Plan) (s : State) : State :=
  let i := match p.captured with
    | some w => (decodeV w.toNat).toOption.getD .nopV
    | none => p.v
  if i = .nopV then s
  else (inSlot true i p.vw s |> detach (.tags true 0 none) .again)
/-- Both slots: neither takes effect when either stops, and the V slot issues whatever the A slot's guard reads (R15). Where
both would stop, the A slot's stop is the one that happens, and a message names it alone (DEDUCED: log entry 78). The V slot's
write of VL comes after the A slot's CRW or CRX of it (DEDUCED: log entry 97). -/
def runSlots (ex : Instr → State → Out) (p : Plan) (s : State) : Out :=
  let vslot (s : State) : Out :=
    match if p.replay then ex .replayIssue s else .next (inSlot true p.v p.vw s) with
    | .next s => ex p.v s
    | o => o
  match ex p.a (inSlot false p.a p.aw s) with
  | .next s1 =>
    if s1.iss.stopped then .next s1
    else
      match vslot s with
      | .next s2 =>
        if s2.iss.stopped then .next s2 else if migrates s1.iss.live then .next (deferV p s1) else vslot s1
      | o => o
  | o => o
/-- A word captured, when there is one (R41). -/
def Rep.capture (r : Rep) : Option Lane → Rep
  | some w => { r with code := r.code ++ [w] }
  | none => r
/-- The register that a load writes, whatever its guard reads (R421; log entry 42). -/
def loadDest : Instr → Option Reg
  | .ld d .. | .ldw d .. | .ldc d .. | .lrw d .. => some d
  | _ => none
/-- STATE after a bundle that took effect; a bundle with SIG opens a new block instead (R113, R114). -/
def sigAfter (p : Plan) (s : State) : Sig :=
  let g := s.iss.live.sig
  if p.a.isSig then g else { g with state := hashBundle g.state p.aw p.vw (s.iss.snap.predAt (oct p.aw.toNat 0)) s.iss.taken }
/-- The thread put back in its slot. -/
def State.endIssue (s : State) (th : Thread) : State :=
  { s.setThread (tid s.iss.core s.iss.slot) th with iss := Issue.idle }
/-- A bundle that took effect: the charge, the hash, the buffer, what the thread holds fetched ahead, and where it goes on. An
instruction it left waiting starts at once. -/
def State.commit (ex : Instr → State → Out) (p : Plan) (s : State) : Out :=
  let core := s.iss.core
  let slot := s.iss.slot
  let next := if p.waits then s.iss.pc else s.iss.next
  let pending := p.replay && s.iss.live.pend.any (fun x => x.vslot)
  let moved : Out :=
    if !p.replay || pending then .next s
    else if s.iss.live.rep.atEnd then ex .replayComplete s
    else .next (live (fun th => { th with rep := th.rep.advance }) s)
  match moved with
  | .next s =>
    let (ahead, s) := s.aheadAfter (s.iss.taken || p.waits) next
    let th := s.iss.live
    let th := { th with
      sig := sigAfter p s
      rep := if migrates th then th.rep else th.rep.capture p.captured
      pend := th.pend.map (fun x => { x with next := next })
      pc := next
      ahead := ahead
      prepaid := false
      skipDest := none
      run := if p.waits && th.pend.isEmpty && decide (th.run = .run) then .detached 10 0 else th.run }
    let cost := if s.iss.snap.prepaid then 0 else p.cost
    let s := (s.bump.modCore core (fun k => { k with balance := k.balance - BitVec.ofNat 16 cost })).endIssue th
    if th.exiting && th.pend.isEmpty then .next (s.endThread core slot) else .next (s.pump core slot)
  | o => o
/-- A bundle that does not issue: the thread as it stopped, with the destination of the load it may pass over, whatever that
load's guard (R421; log entry 42). -/
def State.stopIssue (s : State) (skip : Option Reg) : Out := .next (s.endIssue { s.iss.live with skipDest := skip })
/-- The bundle's issue once it is fetched: its checks, its charge, and its slots (R15, R38, R84). -/
def issueWord (ex : Instr → State → Out) (w : Word) (s : State) : Out :=
  let core := s.iss.core
  let slot := s.iss.slot
  let th := s.iss.snap
  match planOf (isSvc core) th w with
  | .error t =>
    let s := trap t s
    (if t.cause = 0x0D then live (fun th => { th with rep := th.rep.cleared }) s else s).stopIssue none
  | .ok p =>
    if !th.prepaid && decide ((s.core core).balance.toNat < p.cost) then
      let s := s.modCore core (fun k => { k with starved := setBit k.starved slot true, charges := mset k.charges slot p.cost })
      (stopWait 9 0 s).stopIssue none
    else
      match runSlots ex p s with
      | .next s => if s.iss.stopped then s.stopIssue (loadDest p.a) else s.commit ex p
      | o => o
/-- A thread issues the bundle at its program counter. -/
def issueBundle (ex : Instr → State → Out) (core slot : Nat) (th : Thread) (s : State) : Out :=
  match (s.beginIssue core slot th).fetchBundle with
  | (some w, s) => issueWord ex w s
  | (none, s) => s.stopIssue none

/-! ## Issuing again in full (R151, R162, R171, R421) -/

/-- The issue of a pending instruction once more: as its slot issued it, with its guard true as it was then, and nothing else
outstanding. -/
def State.beginAgain (s : State) (core slot : Nat) (th : Thread) (p : Pending) : State :=
  let g := oct p.word.toNat 0
  let snap := { th with run := .run, pend := [], pred := if p.vslot then th.pred else setBit th.pred g.val true }
  { s with iss := ⟨true, core, slot, p.pc, 0, p.instr, p.word, p.vslot, snap, snap, p.next, false, false⟩ }
/-- A pending instruction that issues again in full reads its registers, translates and is checked again. It replaces the one
that was pending; or it traps again; or it waits, and issues again later. A V slot that a MIG or LAUNCH held back is captured when
capture is open. -/
def reissueTurn (ex : Instr → State → Out) (core slot : Nat) (th : Thread) (p : Pending) (rest : List Pending) (s : State) : Out :=
  let t := tid core slot
  let back (l : Thread) (ps : List Pending) : Thread := { l with pend := ps ++ rest, pred := th.pred }
  let done (s : State) : Out :=
    match s.thread t with
    | some x => if x.exiting && x.pend.isEmpty then .next (s.endThread core slot) else .next (s.pump core slot)
    | none => .next s
  if p.vslot && th.rep.cap && isCaptured p.instr then
    done (s.setThread t { th with rep := th.rep.capture (some p.word), pend := rest, run := .run })
  else
    match ex p.instr (s.beginAgain core slot th p) with
    | .next s1 =>
      let l := s1.iss.live
      if s1.iss.stopped then
        if trappedNow l then .next (s1.endIssue { back l [{ p with phase := .faulted }] with pc := p.pc })
        else .next (s1.endIssue (back l [p]))
      else
        done (s1.endIssue (back l (l.pend.map (fun q => { q with
          pc := p.pc
          next := p.next
          sig := p.sig
          repark := p.repark }))))
    | o => o

/-- Whether what a detached thread waits for has come about (R18, R19). -/
def State.rejoins (s : State) (core slot : Nat) (th : Thread) : Bool :=
  match th.run with
  | .detached 3 r => th.present.getLsbD (r.toNat % 32)
  | .detached 9 _ => th.prepaid
  | .detached 7 mask => !(s.cluster (clusterOf core)).locked mask
  | .detached 1 _ => th.relaxed.isNone && (s.core core).walks.all (fun w => w.slot != slot || w.gen != th.gen)
  | _ => true
/-- A turn: the slot's thread, when it may issue, issues one whole bundle or nothing; one that waits for an issued instruction
looks at it, or issues it again in full; one released in this very cycle waits for its next turn; one whose slot is starved
issues nothing until a refill pays (R14, R15, R18, R19, R38, R420). -/
def turnOf (ex : Instr → State → Out) (core slot : Nat) (s : State) : Out :=
  match s.thread (tid core slot) with
  | none => .next s
  | some th =>
    if th.woke = s.cycle + 1 then .next s
    else
      match th.run, th.pend with
      | .held, _ | .stopped, _ | .trapped _ false, _ => .next s
      | .trapped _ true, [] => .next s
      | .trapped _ true, _ => .next (s.pump core slot)
      | _, p :: rest =>
        if p.phase = .again then (if s.rejoins core slot th then reissueTurn ex core slot th p rest s else .next s)
        else .next (s.pump core slot)
      | _, [] =>
        if th.hold || !s.rejoins core slot th then .next s
        else if (s.core core).starved.getLsbD slot && !th.prepaid then
          .next (s.setThread (tid core slot) { th with run := .detached 9 0 })
        else if th.stopq && !(th.rep.act && th.run == .detached 10 0) then
          .next (s.setThread (tid core slot) { th with run := .stopped, stopq := false })
        else issueBundle ex core slot th s

end Sys2Proof.Machine
end

