-- ==== Sys2Proof/Machine/Shake.lean ====
section
/-! DEFINITION. SHAKE256, which the measurement registers, the attestation key and a quote use (R437 to R439). The manual
names the function and gives no text for it: the one here is FIPS 202's (PRESUMED; log entry 71). -/

namespace Sys2Proof.Machine

/-- The 25 lanes of the sponge, lane (x, y) at place x + 5 y. -/
abbrev Sponge := Vector Word 25

/-- Lane (x, y), both taken modulo 5. -/
def spongeLane (a : Sponge) (x y : Nat) : Word := a[x % 5 + 5 * (y % 5)]'(by omega)

/-- The round constants. -/
def roundConstants : List Word :=
  [0x0000000000000001, 0x0000000000008082, 0x800000000000808A, 0x8000000080008000, 0x000000000000808B, 0x0000000080000001,
   0x8000000080008081, 0x8000000000008009, 0x000000000000008A, 0x0000000000000088, 0x0000000080008009, 0x000000008000000A] ++
  [0x000000008000808B, 0x800000000000008B, 0x8000000000008089, 0x8000000000008003, 0x8000000000008002, 0x8000000000000080,
   0x000000000000800A, 0x800000008000000A, 0x8000000080008081, 0x8000000000008080, 0x0000000080000001, 0x8000000080008008]

/-- How far each lane is rotated, in the order of the places. -/
def rotations : List Nat := [0, 1, 62, 28, 27, 36, 44, 6, 55, 20, 3, 10, 43, 25, 39, 41, 45, 15, 21, 8, 18, 2, 61, 56, 14]

/-- A sponge given by its lanes. -/
def spongeOf (f : Nat → Nat → Word) : Sponge := Vector.ofFn (fun i => f (i.val % 5) (i.val / 5))

/-- One round: the column parities, the rotations and the moves, the rows' mix, and the round's constant. -/
def keccakRound (a : Sponge) (rc : Word) : Sponge :=
  let cols : Vector Word 5 := Vector.ofFn (fun x => spongeLane a x.val 0 ^^^ spongeLane a x.val 1 ^^^ spongeLane a x.val 2 ^^^ spongeLane a x.val 3 ^^^ spongeLane a x.val 4)
  let col (x : Nat) : Word := cols[x % 5]'(by omega)
  let mixed := spongeOf (fun x y => spongeLane a x y ^^^ col (x + 4) ^^^ (col (x + 1)).rotateLeft 1)
  let moved := spongeOf (fun x y => (spongeLane mixed (x + 3 * y) x).rotateLeft (rotations.getD ((x + 3 * y) % 5 + 5 * x) 0))
  let rows := spongeOf (fun x y => spongeLane moved x y ^^^ (~~~ spongeLane moved (x + 1) y &&& spongeLane moved (x + 2) y))
  rows.set 0 (rows[0] ^^^ rc)

/-- The permutation: 24 rounds. -/
def keccak (a : Sponge) : Sponge := roundConstants.foldl keccakRound a

/-- Up to eight bytes as a word, the first byte lowest. -/
def spongeWord : List Byte → Word
  | [] => 0
  | b :: l => b.setWidth 64 ||| (spongeWord l).shiftLeft 8

/-- A block of 136 bytes taken into the sponge. -/
def absorb (a : Sponge) (block : List Byte) : Sponge :=
  keccak (spongeOf (fun x y => spongeLane a x y ^^^ spongeWord ((block.drop (8 * (x + 5 * y))).take 8)))

/-- The first 136 bytes of the sponge. -/
def rateBytes (a : Sponge) : List Byte :=
  (a.toList.take 17).flatMap (fun w => (List.range 8).map (fun i => (w.ushiftRight (8 * i)).setWidth 8))

/-- `n` blocks of output, the permutation between one and the next. -/
def squeeze (a : Sponge) : Nat → List Byte
  | 0 => []
  | n + 1 => rateBytes a ++ squeeze (keccak a) n

/-- A message padded to whole blocks: 1F after it and the top bit of the last byte of the block set. -/
def padded (m : List Byte) : List Byte :=
  let gap := 136 - m.length % 136
  m ++ (if gap = 1 then [0x9F] else 0x1F :: List.replicate (gap - 2) 0 ++ [0x80])

/-- The first `n` bytes that SHAKE256 gives for a message. -/
def shake256 (m : List Byte) (n : Nat) : List Byte :=
  let p := padded m
  let a := (List.range (p.length / 136)).foldl (fun a i => absorb a ((p.drop (136 * i)).take 136)) (Vector.replicate 25 0)
  (squeeze a (n / 136 + 1)).take n

end Sys2Proof.Machine
end

