-- ==== Sys2Proof/Machine/Mgmt.lean ====
section
/-! DEFINITION. The BAR 0 registers (R7, R377, R380, R385, R442), the management functions (R443, R441, R296, R414, R410,
R439), and module reset with its boot (R437, R438, R410). -/

namespace Sys2Proof.Machine

/-! ## The management mailbox (R442) -/

/-- The management side, changed. -/
def modMgmt (f : Mgmt → Mgmt) (s : State) : State := { s with mgmt := f s.mgmt }
/-- BUSY. -/
def Mgmt.busy (m : Mgmt) : Bool := bit m.sts 63
/-- A list of bytes as little-endian words, padded with zeros to `n` words. -/
def wordsOf (n : Nat) (l : List Byte) : List Word := (List.range n).map (fun i => BitVec.ofNat 64 (natOfBytes ((l.drop (8 * i)).take 8)))
/-- A word's bytes. -/
def wordBytes (w : Word) : List Byte := bytesOf 8 w.toNat
/-- A word of the payload; bytes from LEN up read 0. -/
def Mgmt.word (m : Mgmt) (i : Nat) : Word :=
  let n := min 8 (fld m.cmd 47 32 - 8 * i)
  BitVec.ofNat 64 (bits (wordAt m.payload i).toNat 0 (8 * n))
/-- A command completes: GO and BUSY clear, RC and OLEN are set, SEQ rises, and its output replaces the payload (R442). -/
def mgmtDone (rc : Nat) (out : List Byte) (s : State) : State :=
  modMgmt (fun m => { m with
    cmd := setFld m.cmd 63 1 0
    sts := place rc 48 ||| place (min 1024 out.length) 32 ||| place ((fld m.sts 31 0 + 1) % 2 ^ 32) 0
    payload := if out.isEmpty then m.payload else wordsOf 128 out
    powering := none }) s
/-- A function's command: it must be the one that runs; a length above 1,024 is out of range, and in recovery only IDENTITY
and FWSTAGE are accepted (R437, R442). -/
def mgmtRun (op : Nat) (body : Mgmt → State → State) (s : State) : Out :=
  let m := s.mgmt
  if !m.busy ∨ fld m.cmd 15 0 ≠ op then .refused .notPending
  else if m.recovery && op != 6 && op != 7 then .next (mgmtDone 4 [] s)
  else if 1024 < fld m.cmd 47 32 then .next (mgmtDone 2 [] s)
  else .next (body m s)
/-- The expert interface. -/
def Mgmt.expert (m : Mgmt) : Bool := bit m.cmd 62

/-! ## Registers of BAR 0 (R7) -/

/-- The writable fields of HWSEG, PWBASE, PWLIM, PWCTL and MGMTCMD. -/
def hwsegMask : Word := 0x000FFFF000000001#64
def windowMask : Word := 0x00FFFFFFFFFF0000#64
def pwctlMask : Word := 0xF#64
def mgmtcmdMask : Word := 0xC000FFFF0000FFFF#64
/-- A peer-window register written (R385). -/
def Port.write (q : Port) (reg : Nat) (v : Word) : Port :=
  match reg with
  | 0 => { q with pwbase := v &&& windowMask }
  | 8 => { q with pwlim := v &&& windowMask }
  | 16 => { q with pwspace := v &&& spaceMask }
  | 24 => { q with pwctl := v &&& pwctlMask }
  | _ => q
/-- REGISTER_WRITE: a host write to a word of BAR 0 updates the RW fields of the register there; a write to any other word is
ignored, as is one to the payload or MGMTCMD while BUSY is set (R7, R442). The block is served in EMBER too (R380). -/
def execRegisterWrite (off : Nat) (v : Word) (s : State) : Out :=
  if !s.host.trained ∨ s.power = .dark ∨ off % 8 ≠ 0 then .refused .notPending
  else if 0x1000 ≤ off ∧ off < 0x1100 then
    .next (modHost (fun h => { h with hwseg := vecOf 32 (fun i =>
      if i = (off - 0x1000) / 8 then v &&& hwsegMask else h.hwseg.toList.getD i 0) }) s)
  else if off = 0x1100 then .next (modHost (fun h => { h with refcnt := BitVec.ofNat 16 (fld v 63 48) }) s)
  else if 0x2000 ≤ off ∧ off < 0x2100 then .next (s.modPort ((off - 0x2000) / 0x20) (fun q => q.write (off % 0x20) v))
  else if s.mgmt.busy then .next s
  else if off = 0x3000 then
    .next (modMgmt (fun m => { m with
      cmd := v &&& mgmtcmdMask
      sts := if bit v 63 then m.sts ||| place 1 63 else m.sts }) s)
  else if 0x3100 ≤ off ∧ off < 0x3500 then
    .next (modMgmt (fun m => { m with payload := lmod (fun _ => v) ((off - 0x3100) / 8) m.payload }) s)
  else .next s

/-! ## POWER (R440, R441, R443) -/

/-- A POWER command for a state; a state code above 3 is out of range and counts with GLOW. -/
def powerRun (state : Nat) (body : Mgmt → State → State) (s : State) : Out :=
  let code := (s.mgmt.word 0).toNat
  if (if code ≤ 3 then code else 0) ≠ state then .refused .notPending
  else mgmtRun 1 (fun m s => if 3 < code then mgmtDone 2 [] s else body m s) s
/-- GLOW or DIM: DIV and REFILL are set as given or by default, REFILL as by ENBUD of device reach, and the command completes
when every core has applied it at its refill boundary, at which the clock changes (R441, R428). From EMBER the clocks
restart at once. -/
def State.powerTo (s : State) (m : Mgmt) (target : Power) (lo hi div refill : Nat) : State :=
  match m.powering with
  | some (p, d) =>
    if (enbudCores 3 0).all (fun c => (s.core c).newRefill.isNone) then mgmtDone 0 [] { s with power := p, div := d } else s
  | none =>
    let d := if m.expert then (m.word 1).toNat else div
    let r := if m.expert then (m.word 2).toNat else refill
    if d < lo ∨ hi < d ∨ r < 64 ∨ 0xFFFF < r then mgmtDone 2 [] s
    else
      let s := (enbudCores 3 0).foldl (fun s c => s.modCore c (fun k => { k with newRefill := some (refillWrite r) })) s
      let s := if s.power = .ember then { s with power := if s.div = 1 then .glow else .dim } else s
      modMgmt (fun m => { m with powering := some (target, d) }) s
/-- POWER_GLOW. -/
def execPowerGlow (s : State) : Out := powerRun 0 (fun m s => s.powerTo m .glow 1 1 1 0x1000) s
/-- POWER_DIM. -/
def execPowerDim (s : State) : Out := powerRun 1 (fun m s => s.powerTo m .dim 2 8 2 0x800) s
/-- Whether a copy is queued, running or on its way. -/
def State.anyCopy (s : State) : Bool :=
  s.clusters.any (fun p => !p.2.copy.queue.isEmpty || p.2.copy.run.isSome) ||
    s.flight.any (fun f => match f.msg with
      | .copyKick _ => true
      | _ => false)
/-- Whether a fill is made or on its way: one of the host port, a CWORD, a RESULT word, a key-value command's completion, a fault
mailbox's record, or any other access that fills a word, in flight, parked, or at a Beacon port. -/
def State.anyFill (s : State) : Bool :=
  let fills (a : Access) : Bool := a.asPerformed.form == .stf
  !s.host.fills.isEmpty || !s.cwords.isEmpty || !s.chandler.results.isEmpty || s.districts.any (fun p => p.2.kv.isSome) ||
    !s.fmbxQueue.isEmpty || s.waiters.any (fun p => p.2.any (fun w => fills w.acc)) ||
    s.ports.toList.any (fun q => q.remote.any (fun p => fills p.2.acc)) ||
    s.flight.any (fun f => match f.msg with
      | .access a | .hostStore a | .fromBank _ a _ _ => fills a
      | .toBridge _ a b => fills a || b.any fills
      | _ => false)
/-- Whether EMBER's conditions hold: the launch table is empty, no step is open, and no copy, fill or promotion is in flight
(R441). -/
def State.quietForEmber (s : State) : Bool :=
  s.launches.isEmpty && s.chandler.binds.all (fun p => !p.2.isOpen) && !s.anyCopy && !s.anyFill && s.chandler.promos.isEmpty
/-- The expert form of POWER to EMBER or DARK: its DIV and REFILL, of no effect there, are held to their ranges (R443; log entry
69). -/
def Mgmt.idlePower (m : Mgmt) : Bool := !m.expert || within 1 8 (m.word 1).toNat && within 64 0xFFFF (m.word 2).toNat
/-- POWER_EMBER: the clocks stop, with DIV and REFILL kept, when the device is quiet; RC 3 otherwise (R441). -/
def execPowerEmber (s : State) : Out :=
  powerRun 2 (fun m s =>
    if !m.idlePower then mgmtDone 2 [] s
    else if s.power = .ember then mgmtDone 0 [] s
    else if s.quietForEmber then mgmtDone 0 [] { s with power := .ember }
    else mgmtDone 3 [] s) s
/-- What lies outside the module: host memory and the peers' memory. -/
def outside (pa : Nat) : Bool :=
  match regionOf pa with
  | .host | .peer _ => true
  | _ => false
/-- The module without power: flash and the repair table alone are kept (R440). -/
def State.dark (s : State) : State := { State.reset with
  power := .dark
  inputs := s.inputs
  fresh := s.fresh
  nextId := s.nextId
  mem := s.mem.filter (fun c => outside c.1)
  marks := s.marks.filter (fun c => outside c.1)
  repairs := s.repairs
  mgmt := { State.reset.mgmt with slotB := s.mgmt.slotB, flashA := s.mgmt.flashA, flashB := s.mgmt.flashB } }
/-- POWER_DARK: from EMBER, or with FORCE of the expert form from any state; otherwise RC 3 (R441, R443). -/
def execPowerDark (s : State) : Out :=
  powerRun 3 (fun m s =>
    if !m.idlePower then mgmtDone 2 [] s
    else if s.power = .ember ∨ (m.expert ∧ bit (m.word 3) 0) then s.dark
    else mgmtDone 3 [] s) s

/-! ## CHANDLER (R296, R443) -/

/-- Whether a configuration block breaks a limit of R296. -/
def configBad (w : List Word) : Bool :=
  wordAt w 0 &&& ~~~0xFFFFFFFFFF000#64 != 0 || wordAt w 1 &&& ~~~0x7FFFF#64 != 0 || !within 1 262144 (wordAt w 1).toNat
    || wordAt w 2 &&& ~~~0xFFFFFFFFFFFFF8#64 != 0 || wordAt w 3 &&& ~~~0x1FF#64 != 0 || !within 1 256 (wordAt w 3).toNat
    || wordAt w 5 &&& ~~~0xFFFFFFFFFFFFE0#64 != 0 || wordAt w 6 &&& ~~~0x1F#64 != 0 || !within 1 16 (wordAt w 6).toNat
    || wordAt w 7 != 0
/-- A binding before its first step. -/
def Bind.first : Bind where
  stepseq := 0
  isOpen := false
  rows := []
  ends := 0
  st := .none
  reex := false
  flared := []
  kept := []
  past := []
  late := []
/-- The block at an address handed to the Chandler; none when it is refused. -/
def State.configure (s : State) (pa : Nat) : Option State :=
  let w := (List.range 8).map (fun i => s.readWord (pa + 8 * i))
  if pa % 8 ≠ 0 ∨ !isDevice pa ∨ !isDevice (pa + 56) ∨ (List.range 8).any (fun i => s.isPoisonAt (pa + 8 * i)) ∨ configBad w then none
  else
    some (modCh (fun c => { c with
      config := some (vecOf 7 (wordAt w))
      binds := (List.range (wordAt w 6).toNat).foldl (fun l b => if (mget l b).isSome then l else mset l b Bind.first) c.binds }) s)
/-- The row of a CHANDLER command: 1 pauses, 2 resumes, 0 hands a block alone. -/
def chandlerRow (m : Mgmt) : Nat := if m.expert then (m.word 1).toNat else 0
/-- CHANDLER_CONFIG; a command that asks for both a pause and a resume, or for anything else, is out of range. -/
def execChandlerConfig (s : State) : Out :=
  if chandlerRow s.mgmt = 1 ∨ chandlerRow s.mgmt = 2 then .refused .notPending
  else
    mgmtRun 2 (fun m s =>
      if chandlerRow m ≠ 0 then mgmtDone 2 [] s
      else
        match (s.touchWords (m.word 0).toNat 8).configure (m.word 0).toNat with
        | some s => mgmtDone 0 [] s
        | none => mgmtDone 2 [] s) s
/-- A pause or resume of admission; a block address beside it is handed as well. -/
def pauseRun (row : Nat) (paused : Bool) (s : State) : Out :=
  if chandlerRow s.mgmt ≠ row then .refused .notPending
  else
    mgmtRun 2 (fun m s =>
      match if m.word 0 = 0 then some s else s.configure (m.word 0).toNat with
      | some s => mgmtDone 0 [] (modCh (fun c => { c with paused := paused }) s)
      | none => mgmtDone 2 [] s) s
/-- CHANDLER_PAUSE_ADMISSION (R443). -/
def execChandlerPauseAdmission (s : State) : Out := pauseRun 1 true s
/-- CHANDLER_RESUME_ADMISSION (R443). -/
def execChandlerResumeAdmission (s : State) : Out := pauseRun 2 false s

/-! ## LOGREAD, REPAIRS, ATTEST, FWSTAGE, IDENTITY (R443) -/

/-- The bytes of an error-log entry by its sequence number; one that is not held reads as zeros, as by ERRLOG (R425). -/
def State.logBytes (s : State) (n : Nat) : List Byte :=
  if n < 2 ^ 62 then (List.range 4).flatMap (fun i => wordBytes (s.errlogWord (BitVec.ofNat 64 (4 * n + i))))
  else List.replicate 32 0
/-- LOGREAD: the 32 newest entries, oldest first, or those asked for (R443). -/
def execLogread (s : State) : Out :=
  mgmtRun 3 (fun m s =>
    let entries (first n : Nat) : State := mgmtDone 0 ((List.range n).flatMap (fun i => s.logBytes (first + i))) s
    if !m.expert then entries (s.logSeq - 32) (min 32 s.logSeq)
    else if !within 1 32 (m.word 1).toNat then mgmtDone 2 [] s
    else entries (m.word 0).toNat (m.word 1).toNat) s
/-- How many clusters are withheld (R410). -/
def State.withheldCount (s : State) : Nat := (s.clusters.filter (fun p => p.2.withheld)).length
/-- REPAIRS: the counts of repair entries and withheld clusters, and in the expert form the entries after them, LOC below the
spare used (R443, R410; log entry 69). -/
def execRepairs (s : State) : Out :=
  mgmtRun 4 (fun m s =>
    mgmtDone 0 (wordBytes (BitVec.ofNat 64 s.repairs.length) ++ wordBytes (BitVec.ofNat 64 s.withheldCount) ++
      (if m.expert then (s.repairs.take 126).flatMap (fun p => wordBytes p.2) else [])) s) s
/-- The measurement registers one after another. -/
def Mgmt.measures (m : Mgmt) : List Byte := m.mr.toList.flatMap (fun b => b)
/-- The key material of the attestation key (R439). -/
def Mgmt.keyMaterial (m : Mgmt) : List Byte :=
  shake256 (Config.secret ++ (m.mr.toList.take 3).flatMap (fun b => b)) 57
/-- The quote over a nonce: the 114 bytes of an Ed448 signature (R437, R439). -/
def State.quote (s : State) (nonce : List Byte) : List Byte :=
  (Config.quoteSignature s.mgmt.keyMaterial
    (shake256 (1 :: nonce ++ s.mgmt.measures ++ Config.serial ++ wordBytes (BitVec.ofNat 64 s.withheldCount)) 64)).toList
/-- The attestation key's public half, signed by the identity key (R439). -/
def Mgmt.signedKey (m : Mgmt) : List Byte :=
  (Config.attestationKey m.keyMaterial).toList ++ (Config.attestationSignature m.keyMaterial).toList
/-- ATTEST: the quote and MR0 to MR5, with the certificate and the signed attestation key when asked for (R439, R443). -/
def execAttest (s : State) : Out :=
  mgmtRun 5 (fun m s =>
    let nonce := (List.range 7).flatMap (fun i => wordBytes (m.word i))
    mgmtDone 0 (s.quote nonce ++ m.measures ++
      (if m.expert && bit (m.word 7) 0 then Config.certificate ++ m.signedKey else [])) s) s
/-- Whether the image of a stage passes: its header's digest is the image's own, and its signature, of 114 bytes, is over that
digest (R437). -/
def imageOk (set : List Byte) (n : Nat) : Bool :=
  Config.imageDigest set n == shake256 (Config.imageBytes set n) 64 && (Config.imageSignature set n).length == 114 &&
    Config.signedBy (Config.imageDigest set n) (Config.imageSignature set n)
/-- Whether every image of a set passes: stages 1 to 5, numbered from 0 (R437). An empty slot holds none. -/
def imagesOk (set : List Byte) : Bool := !set.isEmpty && (List.range 5).all (imageOk set)
/-- FWSTAGE: an image set in host memory is verified and written to the inactive slot, which it makes active at the next
reset: in the basic form, in recovery, and when word 2 asks for it (R437, R443). -/
def execFwstage (s : State) : Out :=
  mgmtRun 6 (fun m s =>
    let a := (m.word 0).toNat
    let n := (m.word 1).toNat
    if 2 ^ 50 < a + n then mgmtDone 2 [] s
    else
      let set := (List.range n).map (fun i => Memory.read s.mem (hostBase + a + i))
      if !imagesOk set then mgmtDone 4 [] s
      else
        let active := !m.expert || m.recovery || bit (m.word 2) 0
        mgmtDone 0 [] (modMgmt (fun m => { m with
          flashA := if m.slotB then set else m.flashA
          flashB := if m.slotB then m.flashB else set
          slotB := if active then !m.slotB else m.slotB }) s)) s
/-- IDENTITY: serial and identity public key, with the certificate in the expert form (R443). -/
def execIdentity (s : State) : Out :=
  mgmtRun 7 (fun m s => mgmtDone 0 (Config.serial ++ Config.identityKey.toList ++ (if m.expert then Config.certificate else [])) s) s
/-- UNKNOWN_MGMT_OP: an OP that no function uses completes with RC 1 (R442). -/
def execUnknownMgmtOp (s : State) : Out :=
  if s.mgmt.busy && !within 1 7 (fld s.mgmt.cmd 15 0) then .next (mgmtDone 1 [] s) else .refused .notPending

/-! ## Module reset (R437, R438, R410) -/

/-- Whether a unit's kind has spares: TCM, scratchpad, SRAM, HBM4E and LPDDR6 rows, mesh, bridge and Beacon lanes, and matrix
columns (R410, R415). -/
def hasSpares (l : Nat) : Bool := decide (l / 2 ^ 28 < 8) || l / 2 ^ 28 == 13
/-- A repair entry after remapping: its LOC below the spare it uses, when one is left. -/
def remap (e : Word) : Word :=
  match if fld e 63 32 ≠ 0 || !hasSpares (fld e 31 0) then none else Config.spareFor (place (fld e 31 0) 0) with
  | some spare => place (fld e 31 0) 0 ||| place (fld spare 31 0) 32
  | none => e
/-- The cluster of a location's unit, when it has one (R415). -/
def clusterOfLoc (l : Nat) : Option Nat :=
  match l / 2 ^ 28 with
  | 0 | 1 => some (l % 2 ^ 28 / 64)
  | 5 => some (l % 2 ^ 28 / 8)
  | 7 | 8 => some (l % 2 ^ 28)
  | _ => none
/-- The units withheld after remapping, those that have no spare left, by their locations (R410). -/
def withheldUnits (repairs : List (Nat × Word)) : List Nat :=
  (repairs.filter (fun p => fld p.2 63 32 = 0)).map (fun p => fld p.2 31 0)
/-- The clusters withheld: those of withheld units. -/
def withheldBy (repairs : List (Nat × Word)) : List Nat := (withheldUnits repairs).filterMap clusterOfLoc
/-- The districts whose key-value port is withheld: it stays marked and serves nothing (R410, R411). -/
def withheldPorts (repairs : List (Nat × Word)) : List Nat :=
  ((withheldUnits repairs).filter (fun l => l / 2 ^ 28 == 9)).map (fun l => l % 2 ^ 28)
/-- The image sets that the security processor boots from: the active slot's and, when an image of it fails, the other
slot's (R437). -/
def Mgmt.tries (m : Mgmt) : List (List Byte) :=
  let active := if m.slotB then m.flashB else m.flashA
  let other := if m.slotB then m.flashA else m.flashB
  if imagesOk active then [active] else [active, other]
/-- The image set that boots, when every image of one verifies (R437). -/
def Mgmt.boots (m : Mgmt) : Option (List Byte) := m.tries.find? imagesOk
/-- A measurement register extended by a digest (R438). -/
def extendMr (mr digest : List Byte) : List Byte := shake256 (mr ++ digest) 64
/-- How many stages of an image set start: those before the first image that fails (R437). -/
def stagesOf (set : List Byte) : Nat := if set.isEmpty then 0 else ((List.range 5).takeWhile (imageOk set)).length
/-- The measurement registers after the boot: each stage that started, of a slot that then failed too, in order (DEDUCED:
log entry 89), and in MR5 the repair table after remapping, when the module has booted (R437, R438). -/
def Mgmt.measured (m : Mgmt) (repairs : List (Nat × Word)) : Vector (List Byte) 6 :=
  vecOf 6 (fun n =>
    let zero : List Byte := List.replicate 64 0
    if n < 5 then (m.tries.filter (fun set => decide (n < stagesOf set))).foldl (fun mr set => extendMr mr (Config.imageDigest set n)) zero
    else if m.boots.isSome then extendMr zero (shake256 (repairs.flatMap (fun p => wordBytes p.2)) 64)
    else zero)
/-- MODULE_RESET: every unit as after reset; the repair table is remapped, units without a spare are withheld, every stage is
verified, measured and started, and when both slots fail the module stays in recovery (R437, R438, R410). The error log
outlives a reset but not DARK (R440); the key of capabilities is drawn anew (R245). -/
def execModuleReset (s : State) : Out :=
  let repairs := s.repairs.map (fun p => (p.1, remap p.2))
  let boot := s.mgmt.boots
  .next { State.reset with
    inputs := s.inputs
    fresh := s.fresh + 1
    capKey := s.fresh
    nextId := s.nextId
    mem := s.mem.filter (fun c => outside c.1)
    marks := s.marks.filter (fun c => outside c.1)
    wordErrors := s.wordErrors.filter (fun e => (mget repairs e.1).isNone)
    log := s.log
    logSeq := s.logSeq
    repairs := repairs
    clusters := (withheldBy repairs).foldl (fun l c => mset l c { Cluster.reset with withheld := true }) []
    districts := (withheldPorts repairs).foldl (fun l d => mset l d { District.reset with kvMarked := true }) []
    mgmt := { State.reset.mgmt with
      recovery := boot.isNone
      slotB := s.mgmt.slotB
      flashA := s.mgmt.flashA
      flashB := s.mgmt.flashB
      mr := s.mgmt.measured repairs } }

end Sys2Proof.Machine
end

