-- ==== Sys2Proof/Machine/Cycle.lean ====
section
/-! DEFINITION. The order of the module's moves (MODEL): what each cycle brings, and one move of it. A cycle is the list of
the turns of its slot (R14) and of the indivisible steps that may happen in it (file 95); a step whose condition does not
hold when its move comes is passed over, and a message that must wait stays in flight. -/

namespace Sys2Proof.Machine

/-! ## What the outside sends -/

/-- An input arrives: a step of the module is its next move, a request joins the host port's when the link is up (R210,
R378), and what the other modules of a group have brought to its barrier may complete it (R263; log entry 6). -/
def State.takeInput (s : State) : Input → State
  | .event i => s.later i
  | .group gid scope arrived all =>
    let s1 := { s with groups := mset s.groups (gid.toNat * 16 + scope.val) (arrived, all) }
    s1.launches.foldl (fun s p => if p.2.groupId = gid.toNat then s.settleBars (p.2.word p.1) else s) s1
  | .host r =>
    if s.host.trained ∧ s.power ≠ .dark then modHost (fun h => { h with requests := h.requests ++ [r] }) s else s
/-- The inputs of this cycle, in their order; their cycles count from the last module reset. -/
def State.takeInputs (s : State) : State :=
  let due := s.inputs.takeWhile (fun p => decide (p.1 ≤ s.cycle))
  due.foldl (fun s p => s.takeInput p.2) { s with inputs := s.inputs.drop due.length }
/-- The step that handles the host's oldest request (R378, R379). -/
def State.hostMove (s : State) : Option Instr :=
  s.host.requests.head?.map (fun r =>
    match r.row with
    | 0 => .hostPlainRead
    | 1 => .hostPlainWrite
    | 2 => .hostFillRead
    | 3 => .hostFillWrite
    | 4 => .hostStateRead
    | 5 => .hostStateWriteEmpty
    | 6 => .hostStateWriteFull
    | _ => .hostStateWriteNone)
/-- The step that runs the management command, by its OP and payload (R442, R443). -/
def State.mgmtMove (s : State) : Option Instr :=
  let m := s.mgmt
  if !m.busy then none
  else
    some (match fld m.cmd 15 0 with
      | 1 =>
        match (m.word 0).toNat with
        | 1 => .powerDim
        | 2 => .powerEmber
        | 3 => .powerDark
        | _ => .powerGlow
      | 2 =>
        match chandlerRow m with
        | 1 => .chandlerPauseAdmission
        | 2 => .chandlerResumeAdmission
        | _ => .chandlerConfig
      | 3 => .logread
      | 4 => .repairs
      | 5 => .attest
      | 6 => .fwstage
      | 7 => .identity
      | _ => .unknownMgmtOp)

/-! ## What a cycle holds -/

/-- The step that the arrival of a message at its end is. -/
def State.arrivalStep (s : State) (f : Flight) : Instr :=
  match f.msg with
  | .access a =>
    let p := a.asPerformed
    if a.repark && !holds p.form (s.wordMeta (wordOfAddr p.pa)) && decide (s.budgetOf a.who = 0) then
      .waitBudgetExhausted f.id
    else .bankAccessArrival f.id
  | .reply .. | .relaxedReply .. | .unitReply .. | .output _ | .stepEnd .. => .replyArrival f.id
  | .flit .. | .toBridge .. | .fromBank .. => .bankAccessArrival f.id
  | .refusedStore .. | .refusedUnit .. => .postedStoreRefused f.id
  | .hostStore _ => .hostStoreCompletion f.id
  | .put .. => .putArrival f.id
  | .copyKick _ => .copyAccept f.id
  | .matKick _ => .matrixCommandAccept f.id
  | .msend _ => .msendArrival f.id
  | .segWrite _ => .segfmtWrite f.id
  | .vigctl _ => .vigctlWrite f.id
  | .vigstat _ => .vigstatPeakWrite f.id
  | .sys .. => .systemRequestArrival f.id
  | .launch .. => .launchRecordArrival f.id
  | .spawn .. => .spawnMessageArrival f.id
  | .slotFree .. => .slotFreeNotice f.id
  | .nred _ => .nredPacketArrival f.id
  | .record .. => .mailboxRecordArrival f.id
/-- The step that a message's arrival is; one that passes a die bridge goes on from there. -/
def State.arrivalOf (s : State) (f : Flight) : Move :=
  match f.msg with
  | .toBridge .. | .fromBank .. => .bridge f.id
  | _ => .event (s.arrivalStep f)
/-- A reply, or a message, whose words are poisoned. -/
def Reply.poisoned : Reply → Reply
  | .value v _ => .value v true
  | r => r
def Msg.poisoned : Msg → Msg
  | .access a => .access { a with poison := true }
  | .flit a b => .flit { a with poison := true } { b with poison := true }
  | .toBridge d a b => .toBridge d { a with poison := true } (b.map (fun b => { b with poison := true }))
  | .fromBank d a r w => .fromBank d a r.poisoned w
  | .reply t r => .reply t r.poisoned
  | .relaxedReply t r => .relaxedReply t r.poisoned
  | .unitReply w r => .unitReply w r.poisoned
  | .hostStore a => .hostStore { a with poison := true }
  | .segWrite a => .segWrite { a with poison := true }
  | .vigctl a => .vigctl { a with poison := true }
  | .vigstat a => .vigstat { a with poison := true }
  | .put t tgt i v _ => .put t tgt i v true
  | .nred e => .nred { e with poison := true }
  | m => m
/-- Who sent a message, and the address or thread it concerns, as an entry of the error log names them (R414). -/
def Msg.whoWhat : Msg → Word × Word
  | .access a | .flit a _ | .toBridge _ a _ | .fromBank _ a _ _ | .hostStore a | .segWrite a | .vigctl a | .vigstat a | .refusedUnit a _ _ =>
    (a.who.word, BitVec.ofNat 64 a.pa)
  | .reply t _ | .relaxedReply t _ | .stepEnd t _ => (t.word, 0)
  | .refusedStore t _ _ _ _ _ pa => (t.word, BitVec.ofNat 64 pa)
  | .put t tgt _ _ _ | .sys t _ tgt _ => (t.word, tgt)
  | .copyKick c => (c.name.word, c.dest)
  | .matKick c | .msend c => (c.name.word, c.a)
  | .unitReply w _ => (w.word, 0)
  | .launch r addr => (r.issuer.word, addr)
  | .spawn _ _ | .slotFree .. => (0, 0)
  | .nred e => (0, e.key)
  | .record _ r => (0, wordAt r.toList 2)
  | .output o => (o.name.word, 0)
/-- A message delivered with its words poisoned (R409). A command, a launch record or an output that a unit would take poisoned
is a use that traps its issuer, with cause 0x10 (R401; log entry 95). -/
def State.deliverPoisoned (s : State) (f : Flight) : State :=
  let gone := s.take f.id
  let use (w : Word) : Trap := poisonTrap (Fin.ofNat 32 (bits w.toNat 15 5)) 7
  match f.msg with
  | .copyKick c => gone.bounced c.name (use c.word)
  | .matKick c | .msend c => gone.bounced c.name (use c.word)
  | .output o => gone.bounced o.name (use 0)
  | .launch r _ =>
    match r.step with
    | some (b, _) => gone.modBind b (fun x => { x with st := .refused })
    | none => gone.bounced r.issuer (use r.slotw)
  | .spawn sender seq =>
    s.modCore sender (fun k => { k with spawnBuf := k.spawnBuf.map (fun p => if p.1 = seq then
      (p.1, { p.2 with poison := BitVec.allOnes 10, words := p.2.words.map (fun w => (w.1, w.2.1, true)) }) else p) })
  | m => { s with flight := s.flight.map (fun (g : Flight) => if g.id = f.id then { g with msg := m.poisoned } else g) }
/-- The flit code of a message that arrives fails: it is sent again and good, or its words arrive poisoned and the port is
marked (R409, R414). -/
def State.flitError (s : State) (f : Flight) : State :=
  match mget s.flitErrors f.id with
  | none => s
  | some (port, lasting) =>
    let s := { s with flitErrors := mdel s.flitErrors f.id }
    let (who, what) := f.msg.whoWhat
    if lasting then
      let (room, s) := s.markUnit port
      (s.deliverPoisoned f).logEntry 2 room 0x1B port who what
    else s.logEntry 1 false 0x1B port who what
/-- A message put before the first that is due after it. -/
def insertDue (f : Flight) : List Flight → List Flight
  | [] => [f]
  | g :: r => if f.due ≤ g.due then f :: g :: r else g :: insertDue f r
/-- The messages that may arrive in this cycle, by the cycle they are due and then by number (R175). -/
def State.dueNow (s : State) : List Flight := (s.flight.filter (fun f => decide (f.due ≤ s.cycle))).foldr insertDue []
/-- Whether a message is a PUT: one that reaches a register in the cycle of the thread's own write there goes second (R22). -/
def Msg.isPut : Msg → Bool
  | .put .. => true
  | _ => false
/-- The steps of a cluster's units (chapters 3, 8 and 10). -/
def State.clusterMoves (s : State) (cl : Nat) (k : Cluster) : List Instr :=
  let chunk := match k.copy.run with
    | some r => [.scaledChunkArrival cl (BitVec.ofNat 16 (fld r.cmd.count 47 32 + r.done / 4096))]
    | none => []
  [.copyStart cl, .copyComplete cl] ++ chunk ++ [.matrixCommandStart cl, .operandsConsumed cl, .matrixCommandComplete cl]
    ++ (k.segWait.map (fun w => .segfmtTakesEffect cl w.seg)).eraseDups
    ++ (if s.launches.any (fun p => p.2.pendingShape.any (fun q => q.1 == cl)) then [.shapeBroadcastComplete cl] else [])
/-- The steps of a district's key-value port (R327, R328). -/
def State.portMoves (s : State) (d : Nat) : List Instr :=
  if (s.waitingKick d).isSome || (s.district d).kv.isSome then [.kvFetch d, .kvStore d, .kvCommandComplete d] else []
/-- The steps of the Chandler and its page engine; a binding's step closes every 256 cycles (R298, R307, R316, R331 to
R334). -/
def State.chandlerMoves (s : State) : List Move :=
  if s.chandler.config.isNone then []
  else
    let binds := s.chandler.binds.map (fun p => p.1)
    let engine : List Instr :=
      s.promoWanted.map (fun p => .pageMove p.1 p.2 false) ++ [.eviction]
        ++ (s.records.filter (fun r => s.rget r rState == 4)).map (fun r => .promotionComplete r)
    let steps : List Instr := binds.flatMap (fun b => [.stepCommit b, .flareReexecution b])
      ++ (if s.cycle % 256 = 0 then binds.flatMap (fun b => [.stepFormation b, .residencyHoldExpiry b]) else [])
    [.event .agentAdmission] ++ s.chandler.programs.map (fun p => .program p.1) ++ (engine ++ steps).map .event
/-- The districts with a port that may have something to do: those in use, and those whose KVKICK is not as after reset. -/
def State.portDistricts (s : State) : List Nat :=
  (s.districts.map (fun p => p.1) ++ s.marks.filterMap (fun p => match regionOf p.1 with
    | .districtCtl d _ => some d
    | _ => none)).dedup
/-- What a module in recovery does: no stage has started, so that it takes what arrives and serves its host port and its
mailbox alone (R437). -/
def State.recoveryMoves (s : State) : List Move :=
  let (puts, arrivals) := s.dueNow.partition (fun f => f.msg.isPut)
  arrivals.map s.arrivalOf ++ (s.hostMove.toList ++ s.mgmtMove.toList).map .event ++ puts.map s.arrivalOf
/-- Every move of a cycle that the module makes by itself, in the order the model makes them. -/
def State.cycleMoves (s : State) : List Move :=
  let first : List Instr := (if s.cycle % 1024 = 0 then s.cores.map (fun p => .energyRefill p.1) else [])
    ++ (if s.cycle % 4096 = 0 then [.spawnResendTick, .loadLevelling] else [])
  let turns : List Move := (s.threads.filter (fun p => p.1 % 8 == s.cycle % 8)).map (fun p => .turn (p.1 / 8) (p.1 % 8))
  let (puts, arrivals) := s.dueNow.partition (fun f => f.msg.isPut)
  let units : List Instr := s.cores.flatMap (fun p => p.2.walks.map (fun w => .pageWalkComplete p.1 w.id))
    ++ s.clusters.flatMap (fun p => if p.1 < 2048 then s.clusterMoves p.1 p.2 else [])
    ++ s.portDistricts.flatMap s.portMoves
    ++ .launchPlacement :: s.launches.map (fun p => .launchEnd p.1)
    ++ (if s.fmbxQueue.isEmpty then [] else [.fmbxRecordOffer])
    ++ (if s.cores.any (fun p => isSvc p.1 && !p.2.mailbox.isEmpty) then [.stackGrowth] else [])
  first.map .event ++ turns ++ arrivals.map s.arrivalOf ++ units.map .event ++ s.chandlerMoves
    ++ (s.hostMove.toList ++ s.mgmtMove.toList).map .event ++ puts.map s.arrivalOf
/-- The hardware drops TLB entries as it likes (R161; log entry 11). -/
def State.dropTlbs (s : State) : State :=
  let drop (n : Nat) (l : List TlbEntry) : List TlbEntry :=
    match Config.tlbDrop (s.cycle * 2 ^ 17 + n) with
    | some i => l.eraseIdx i
    | none => l
  { s with
    cores := s.cores.map (fun p => (p.1, { p.2 with tlb := drop (2 * p.1) p.2.tlb }))
    clusters := s.clusters.map (fun p => (p.1, { p.2 with tlb := drop (2 * p.1 + 1) p.2.tlb })) }
/-- The next cycle: its inputs, then its moves. -/
def State.newCycle (s : State) : State :=
  let s := ({ s with cycle := s.cycle + 1 }).dropTlbs.takeInputs
  let s := s.dueNow.foldl State.flitError s
  { s with agenda := s.agenda ++ (if s.mgmt.recovery then s.recoveryMoves else s.cycleMoves) }

/-! ## One move -/

/-- A step of the module that is not there to be taken leaves everything as it is. -/
def orPass (s : State) (o : Out) : Out :=
  match o with
  | .refused .notPending => .next s
  | o => o
/-- An agent program issues one word, or none; an illegal word takes its turn as such (R304, R90). -/
def programMove (ex : Instr → State → Out) (p : Nat) (s : State) : Out :=
  match s.programTurn p with
  | (none, s) => .next s
  | (some w, s) =>
    match w.instr with
    | some i => ex i s
    | none => ex .illegalWordTurn s
/-- One move of a cycle. -/
def moveOf (ex : Instr → State → Out) (s : State) : Move → Out
  | .turn core slot => turnOf ex core slot s
  | .bridge id => .next (s.passBridge id)
  | .event i => orPass s (ex i s)
  | .program p => orPass s (programMove ex p s)
/-- In EMBER and DARK no cycle passes: the management command, the host's oldest request, or the next input is served (R440,
R441). -/
def stillMove (ex : Instr → State → Out) (s : State) : Out :=
  match s.mgmtMove, s.hostMove, s.inputs with
  | some i, _, _ => orPass s (ex i s)
  | none, some i, _ => orPass s (ex i s)
  | none, none, (_, .event i) :: r => orPass { s with inputs := r } (ex i { s with inputs := r })
  | none, none, (_, x) :: r => .next (({ s with inputs := r }).takeInput x)
  | none, none, [] => .next s
/-- One step of the module: the next move of the cycle, or the next cycle when none is left. -/
def stepBy (ex : Instr → State → Out) (s : State) : Out :=
  if s.power = .ember ∨ s.power = .dark then stillMove ex s
  else
    match s.agenda with
    | m :: r => moveOf ex { s with agenda := r } m
    | [] => .next s.newCycle

end Sys2Proof.Machine
end

