-- ==== Sys2Proof/Machine/FloatOps.lean ====
section
/-! DEFINITION. The scalar float instructions (R101 to R106). A float result fills the low bits of gd and clears the
rest. -/

namespace Sys2Proof.Machine

/-- A float result as a register value (R101). -/
def floatWord (r : Nat × FlagBits) : Word × FlagBits := (BitVec.ofNat 64 r.1, r.2)
/-- The value bits of a source register. -/
def Thread.num (t : Thread) (r : Reg) : Nat := (t.reg r).toNat

/-- FADD (R102). -/
def execFadd (d a b : Reg) (rm : Rm) (ty : Fty) (g : PReg) (s : State) : Out :=
  .next (alu d [a, b] g (fun t => floatWord (fadd ty rm (t.num a) (t.num b))) s)

/-- FSUB (R102). -/
def execFsub (d a b : Reg) (rm : Rm) (ty : Fty) (g : PReg) (s : State) : Out :=
  .next (alu d [a, b] g (fun t => floatWord (fsub ty rm (t.num a) (t.num b))) s)

/-- FMUL (R102). -/
def execFmul (d a b : Reg) (rm : Rm) (ty : Fty) (g : PReg) (s : State) : Out :=
  .next (alu d [a, b] g (fun t => floatWord (fmul ty rm (t.num a) (t.num b))) s)

/-- FDIV (R102). -/
def execFdiv (d a b : Reg) (rm : Rm) (ty : Fty) (g : PReg) (s : State) : Out :=
  .next (alu d [a, b] g (fun t => floatWord (fdiv ty rm (t.num a) (t.num b))) s)

/-- FMA reads gd as the addend (R102). -/
def execFma (d a b : Reg) (rm : Rm) (ty : Fty) (g : PReg) (s : State) : Out :=
  .next (alu d [a, b, d] g (fun t => floatWord (ffma ty rm (t.num a) (t.num b) (t.num d))) s)

/-- FSQRT (R102). -/
def execFsqrt (d a : Reg) (rm : Rm) (ty : Fty) (g : PReg) (s : State) : Out :=
  .next (alu d [a] g (fun t => floatWord (fsqrt ty rm (t.num a))) s)

/-- FMIN (R103). -/
def execFmin (d a b : Reg) (ty : Fty) (g : PReg) (s : State) : Out :=
  .next (alu d [a, b] g (fun t => floatWord (pickMax ty false (t.num a) (t.num b))) s)

/-- FMAX (R103). -/
def execFmax (d a b : Reg) (ty : Fty) (g : PReg) (s : State) : Out :=
  .next (alu d [a, b] g (fun t => floatWord (pickMax ty true (t.num a) (t.num b))) s)

/-- FCLASS (R104). -/
def execFclass (d a : Reg) (ty : Fty) (g : PReg) (s : State) : Out :=
  .next (alu d [a] g (fun t => (BitVec.ofNat 64 (2 ^ fclass ty (t.num a)), 0)) s)

/-- FCMP (R105, R98). -/
def execFcmp (pd : PReg) (a : Reg) (c : Cond) (ty : Fty) (b : Reg) (g : PReg) (s : State) : Out :=
  .next (compare pd [a, b] g (fun t => fcmp ty c (t.num a) (t.num b)) s)

/-- FCVT: an integer result is extended by its type, any other fills the low bits (R106). -/
def execFcvt (d a : Reg) (dst src : Ty) (rm : Rm) (g : PReg) (s : State) : Out :=
  .next (alu d [a] g (fun t => let r := convert dst src rm (t.num a); (dst.extend r.1, r.2)) s)

end Sys2Proof.Machine
end

