-- ==== Sys2Proof/Machine/Scalar.lean ====
section
/-! DEFINITION. The integer, immediate, comparison, selection and predicate instructions (R94 to R100, R112). -/

namespace Sys2Proof.Machine

/-! ## Values of the integer group (R94) -/

/-- The shift count b[5:0]. -/
def shAmount (b : Word) : Nat := fld b 5 0
/-- Bits 127:64 of the signed and of the unsigned product. -/
def mulHigh (a b : Word) : Word := wordOf (a.toInt * b.toInt / 2 ^ 64)
def mulHighN (a b : Word) : Word := BitVec.ofNat 64 (a.toNat * b.toNat / 2 ^ 64)
/-- The smaller and the larger, as s64 and as n64. -/
def minS (a b : Word) : Word := if a.toInt ≤ b.toInt then a else b
def maxS (a b : Word) : Word := if a.toInt ≤ b.toInt then b else a
def minN (a b : Word) : Word := if a.toNat ≤ b.toNat then a else b
def maxN (a b : Word) : Word := if a.toNat ≤ b.toNat then b else a
/-- The number of leading zero bits among the low `n` bits. -/
def clzBelow (a : Word) : Nat → Nat
  | 0 => 0
  | n + 1 => if a.getLsbD n then 0 else clzBelow a n + 1
/-- The number of trailing zero bits among the `n` bits from bit `k`. -/
def ctzFrom (a : Word) : Nat → Nat → Nat
  | _, 0 => 0
  | k, n + 1 => if a.getLsbD k then 0 else ctzFrom a (k + 1) n + 1
/-- The number of one bits among the low `n` bits. -/
def popBelow (a : Word) : Nat → Nat
  | 0 => 0
  | n + 1 => b2n (a.getLsbD n) + popBelow a n
/-- MOVHI: imm × 2^20 + old gd[19:0] (R96). -/
def movhiValue (old imm : Word) : Word := imm * BitVec.ofNat 64 (2 ^ 20) + place (fld old 19 0) 0

/-- A comparison of two words cut to a type (R97). -/
def intCompare (c : Cond) (t : Ity) (a b : Word) : Bool := condHolds c (t.ty.int a.toNat - t.ty.int b.toNat)

/-! ## Meanings -/

/-- NOP does nothing under any guard (R112). -/
def execNopA (_g : PReg) (s : State) : Out := .next s

/-- ADD (R94). -/
def execAdd (d a b : Reg) (g : PReg) (s : State) : Out :=
  .next (alu d [a, b] g (fun t => (t.reg a + t.reg b, 0)) s)

/-- SUB (R94). -/
def execSub (d a b : Reg) (g : PReg) (s : State) : Out :=
  .next (alu d [a, b] g (fun t => (t.reg a - t.reg b, 0)) s)

/-- MUL (R94). -/
def execMul (d a b : Reg) (g : PReg) (s : State) : Out :=
  .next (alu d [a, b] g (fun t => (t.reg a * t.reg b, 0)) s)

/-- MULH (R94). -/
def execMulh (d a b : Reg) (g : PReg) (s : State) : Out :=
  .next (alu d [a, b] g (fun t => (mulHigh (t.reg a) (t.reg b), 0)) s)

/-- MULHN (R94). -/
def execMulhn (d a b : Reg) (g : PReg) (s : State) : Out :=
  .next (alu d [a, b] g (fun t => (mulHighN (t.reg a) (t.reg b), 0)) s)

/-- DIV (R95). -/
def execDiv (d a b : Reg) (g : PReg) (s : State) : Out :=
  .next (alu d [a, b] g (fun t => (divSigned (t.reg a) (t.reg b)).1) s)

/-- DIVN (R95). -/
def execDivn (d a b : Reg) (g : PReg) (s : State) : Out :=
  .next (alu d [a, b] g (fun t => (divUnsigned (t.reg a) (t.reg b)).1) s)

/-- REM (R95). -/
def execRem (d a b : Reg) (g : PReg) (s : State) : Out :=
  .next (alu d [a, b] g (fun t => (divSigned (t.reg a) (t.reg b)).2) s)

/-- REMN (R95). -/
def execRemn (d a b : Reg) (g : PReg) (s : State) : Out :=
  .next (alu d [a, b] g (fun t => (divUnsigned (t.reg a) (t.reg b)).2) s)

/-- AND (R94). -/
def execAnd (d a b : Reg) (g : PReg) (s : State) : Out :=
  .next (alu d [a, b] g (fun t => (t.reg a &&& t.reg b, 0)) s)

/-- ANDN (R94). -/
def execAndn (d a b : Reg) (g : PReg) (s : State) : Out :=
  .next (alu d [a, b] g (fun t => (t.reg a &&& ~~~t.reg b, 0)) s)

/-- OR (R94). -/
def execOr (d a b : Reg) (g : PReg) (s : State) : Out :=
  .next (alu d [a, b] g (fun t => (t.reg a ||| t.reg b, 0)) s)

/-- XOR (R94). -/
def execXor (d a b : Reg) (g : PReg) (s : State) : Out :=
  .next (alu d [a, b] g (fun t => (t.reg a ^^^ t.reg b, 0)) s)

/-- SHL (R94). -/
def execShl (d a b : Reg) (g : PReg) (s : State) : Out :=
  .next (alu d [a, b] g (fun t => (t.reg a <<< shAmount (t.reg b), 0)) s)

/-- SHR (R94). -/
def execShr (d a b : Reg) (g : PReg) (s : State) : Out :=
  .next (alu d [a, b] g (fun t => (t.reg a >>> shAmount (t.reg b), 0)) s)

/-- SHRA (R94). -/
def execShra (d a b : Reg) (g : PReg) (s : State) : Out :=
  .next (alu d [a, b] g (fun t => ((t.reg a).sshiftRight (shAmount (t.reg b)), 0)) s)

/-- ROL (R94). -/
def execRol (d a b : Reg) (g : PReg) (s : State) : Out :=
  .next (alu d [a, b] g (fun t => ((t.reg a).rotateLeft (shAmount (t.reg b)), 0)) s)

/-- MIN (R94). -/
def execMin (d a b : Reg) (g : PReg) (s : State) : Out :=
  .next (alu d [a, b] g (fun t => (minS (t.reg a) (t.reg b), 0)) s)

/-- MAX (R94). -/
def execMax (d a b : Reg) (g : PReg) (s : State) : Out :=
  .next (alu d [a, b] g (fun t => (maxS (t.reg a) (t.reg b), 0)) s)

/-- MINN (R94). -/
def execMinn (d a b : Reg) (g : PReg) (s : State) : Out :=
  .next (alu d [a, b] g (fun t => (minN (t.reg a) (t.reg b), 0)) s)

/-- MAXN (R94). -/
def execMaxn (d a b : Reg) (g : PReg) (s : State) : Out :=
  .next (alu d [a, b] g (fun t => (maxN (t.reg a) (t.reg b), 0)) s)

/-- MOV (R94). -/
def execMov (d a : Reg) (g : PReg) (s : State) : Out :=
  .next (alu d [a] g (fun t => (t.reg a, 0)) s)

/-- CLZ (R94). -/
def execClz (d a : Reg) (g : PReg) (s : State) : Out :=
  .next (alu d [a] g (fun t => (BitVec.ofNat 64 (clzBelow (t.reg a) 64), 0)) s)

/-- CTZ (R94). -/
def execCtz (d a : Reg) (g : PReg) (s : State) : Out :=
  .next (alu d [a] g (fun t => (BitVec.ofNat 64 (ctzFrom (t.reg a) 0 64), 0)) s)

/-- POPC (R94). -/
def execPopc (d a : Reg) (g : PReg) (s : State) : Out :=
  .next (alu d [a] g (fun t => (BitVec.ofNat 64 (popBelow (t.reg a) 64), 0)) s)

/-- SEXTS8 (R94). -/
def execSextS8 (d a : Reg) (g : PReg) (s : State) : Out :=
  .next (alu d [a] g (fun t => (Ty.s8.extend (t.reg a).toNat, 0)) s)

/-- SEXTS16 (R94). -/
def execSextS16 (d a : Reg) (g : PReg) (s : State) : Out :=
  .next (alu d [a] g (fun t => (Ty.s16.extend (t.reg a).toNat, 0)) s)

/-- SEXTS32 (R94). -/
def execSextS32 (d a : Reg) (g : PReg) (s : State) : Out :=
  .next (alu d [a] g (fun t => (Ty.s32.extend (t.reg a).toNat, 0)) s)

/-- ZEXTN8 (R94). -/
def execZextN8 (d a : Reg) (g : PReg) (s : State) : Out :=
  .next (alu d [a] g (fun t => (Ty.n8.extend (t.reg a).toNat, 0)) s)

/-- ZEXTN16 (R94). -/
def execZextN16 (d a : Reg) (g : PReg) (s : State) : Out :=
  .next (alu d [a] g (fun t => (Ty.n16.extend (t.reg a).toNat, 0)) s)

/-- ZEXTN32 (R94). -/
def execZextN32 (d a : Reg) (g : PReg) (s : State) : Out :=
  .next (alu d [a] g (fun t => (Ty.n32.extend (t.reg a).toNat, 0)) s)

/-- ADDI (R96). -/
def execAddi (d a : Reg) (imm : Imm 12) (g : PReg) (s : State) : Out :=
  .next (alu d [a] g (fun t => (t.reg a + immSigned imm, 0)) s)

/-- LEA (R96). -/
def execLea (d a : Reg) (imm : Imm 12) (g : PReg) (s : State) : Out :=
  .next (alu d [a] g (fun t => (t.reg a + immSigned imm * 8, 0)) s)

/-- MOVI (R96). -/
def execMovi (d : Reg) (imm : Imm 17) (g : PReg) (s : State) : Out :=
  .next (alu d [] g (fun _ => (immSigned imm, 0)) s)

/-- MOVHI reads gd as a source (R96). -/
def execMovhi (d : Reg) (imm : Imm 17) (g : PReg) (s : State) : Out :=
  .next (alu d [d] g (fun t => (movhiValue (t.reg d) (immUnsigned imm), 0)) s)

/-- ADDPC adds to the address of the instruction's bundle (R96). -/
def execAddpc (d : Reg) (imm : Imm 17) (g : PReg) (s : State) : Out :=
  .next (alu d [] g (fun _ => (s.iss.pc + immSigned imm, 0)) s)

/-- CMP (R97, R98). -/
def execCmp (pd : PReg) (a : Reg) (c : Cond) (ty : Ity) (b : Reg) (g : PReg) (s : State) : Out :=
  .next (compare pd [a, b] g (fun t => (intCompare c ty (t.reg a) (t.reg b), 0)) s)

/-- CMPI (R97, R98). -/
def execCmpi (pd : PReg) (a : Reg) (c : Cond) (ty : Ity) (imm : Imm 8) (g : PReg) (s : State) : Out :=
  .next (compare pd [a] g (fun t => (intCompare c ty (t.reg a) (immSigned imm), 0)) s)

/-- SEL reads both sources and takes the poison of the one selected (R99). -/
def execSel (d a b : Reg) (p : PReg) (g : PReg) (s : State) : Out :=
  .next (guarded g (needs [a, b] fun s =>
    let th := s.iss.snap
    let r := if th.predAt p then a else b
    writeReg d (th.reg r) (th.isPoisoned r) s) s)

/-- A predicate computed from predicates: such an instruction never detaches and never traps (R100). -/
def predOp (pd : PReg) (g : PReg) (f : Thread → Bool) (s : State) : State :=
  guarded g (fun s => live (fun th => th.setPred pd (f s.iss.snap)) s) s

/-- PAND (R100). -/
def execPand (pd pa pb : PReg) (g : PReg) (s : State) : Out := .next (predOp pd g (fun t => t.predAt pa && t.predAt pb) s)

/-- POR (R100). -/
def execPor (pd pa pb : PReg) (g : PReg) (s : State) : Out := .next (predOp pd g (fun t => t.predAt pa || t.predAt pb) s)

/-- PXOR (R100). -/
def execPxor (pd pa pb : PReg) (g : PReg) (s : State) : Out := .next (predOp pd g (fun t => t.predAt pa != t.predAt pb) s)

/-- PNOT (R100). -/
def execPnot (pd pa : PReg) (g : PReg) (s : State) : Out := .next (predOp pd g (fun t => !t.predAt pa) s)

end Sys2Proof.Machine
end

