-- ==== Sys2Proof/Machine/Dispatch.lean ====
section
/-! DEFINITION. One arm for each constructor of `Instr`. -/

namespace Sys2Proof.Machine

/-- What an instruction or an indivisible step of the module does. -/
def exec (i : Instr) (s : State) : Host.Outcome State Fault Refusal :=
  match i with
  | .nopA g => Sys2Proof.Machine.execNopA g s
  | .add d a b g => Sys2Proof.Machine.execAdd d a b g s
  | .sub d a b g => Sys2Proof.Machine.execSub d a b g s
  | .mul d a b g => Sys2Proof.Machine.execMul d a b g s
  | .mulh d a b g => Sys2Proof.Machine.execMulh d a b g s
  | .mulhn d a b g => Sys2Proof.Machine.execMulhn d a b g s
  | .div d a b g => Sys2Proof.Machine.execDiv d a b g s
  | .divn d a b g => Sys2Proof.Machine.execDivn d a b g s
  | .rem d a b g => Sys2Proof.Machine.execRem d a b g s
  | .remn d a b g => Sys2Proof.Machine.execRemn d a b g s
  | .and d a b g => Sys2Proof.Machine.execAnd d a b g s
  | .andn d a b g => Sys2Proof.Machine.execAndn d a b g s
  | .or d a b g => Sys2Proof.Machine.execOr d a b g s
  | .xor d a b g => Sys2Proof.Machine.execXor d a b g s
  | .shl d a b g => Sys2Proof.Machine.execShl d a b g s
  | .shr d a b g => Sys2Proof.Machine.execShr d a b g s
  | .shra d a b g => Sys2Proof.Machine.execShra d a b g s
  | .rol d a b g => Sys2Proof.Machine.execRol d a b g s
  | .min d a b g => Sys2Proof.Machine.execMin d a b g s
  | .max d a b g => Sys2Proof.Machine.execMax d a b g s
  | .minn d a b g => Sys2Proof.Machine.execMinn d a b g s
  | .maxn d a b g => Sys2Proof.Machine.execMaxn d a b g s
  | .mov d a g => Sys2Proof.Machine.execMov d a g s
  | .clz d a g => Sys2Proof.Machine.execClz d a g s
  | .ctz d a g => Sys2Proof.Machine.execCtz d a g s
  | .popc d a g => Sys2Proof.Machine.execPopc d a g s
  | .sextS8 d a g => Sys2Proof.Machine.execSextS8 d a g s
  | .sextS16 d a g => Sys2Proof.Machine.execSextS16 d a g s
  | .sextS32 d a g => Sys2Proof.Machine.execSextS32 d a g s
  | .zextN8 d a g => Sys2Proof.Machine.execZextN8 d a g s
  | .zextN16 d a g => Sys2Proof.Machine.execZextN16 d a g s
  | .zextN32 d a g => Sys2Proof.Machine.execZextN32 d a g s
  | .addi d a imm g => Sys2Proof.Machine.execAddi d a imm g s
  | .lea d a imm g => Sys2Proof.Machine.execLea d a imm g s
  | .movi d imm g => Sys2Proof.Machine.execMovi d imm g s
  | .movhi d imm g => Sys2Proof.Machine.execMovhi d imm g s
  | .addpc d imm g => Sys2Proof.Machine.execAddpc d imm g s
  | .cmp pd a c ty b g => Sys2Proof.Machine.execCmp pd a c ty b g s
  | .cmpi pd a c ty imm g => Sys2Proof.Machine.execCmpi pd a c ty imm g s
  | .sel d a b p g => Sys2Proof.Machine.execSel d a b p g s
  | .pand pd pa pb g => Sys2Proof.Machine.execPand pd pa pb g s
  | .por pd pa pb g => Sys2Proof.Machine.execPor pd pa pb g s
  | .pxor pd pa pb g => Sys2Proof.Machine.execPxor pd pa pb g s
  | .pnot pd pa g => Sys2Proof.Machine.execPnot pd pa g s
  | .fadd d a b rm ty g => Sys2Proof.Machine.execFadd d a b rm ty g s
  | .fsub d a b rm ty g => Sys2Proof.Machine.execFsub d a b rm ty g s
  | .fmul d a b rm ty g => Sys2Proof.Machine.execFmul d a b rm ty g s
  | .fma d a b rm ty g => Sys2Proof.Machine.execFma d a b rm ty g s
  | .fdiv d a b rm ty g => Sys2Proof.Machine.execFdiv d a b rm ty g s
  | .fsqrt d a rm ty g => Sys2Proof.Machine.execFsqrt d a rm ty g s
  | .fmin d a b ty g => Sys2Proof.Machine.execFmin d a b ty g s
  | .fmax d a b ty g => Sys2Proof.Machine.execFmax d a b ty g s
  | .fclass d a ty g => Sys2Proof.Machine.execFclass d a ty g s
  | .fcmp pd a c ty b g => Sys2Proof.Machine.execFcmp pd a c ty b g s
  | .fcvt d a dst src rm g => Sys2Proof.Machine.execFcvt d a dst src rm g s
  | .br off g => Sys2Proof.Machine.execBr off g s
  | .jmp off g => Sys2Proof.Machine.execJmp off g s
  | .call off g => Sys2Proof.Machine.execCall off g s
  | .loop a off g => Sys2Proof.Machine.execLoop a off g s
  | .sig sg g => Sys2Proof.Machine.execSig sg g s
  | .jmpr a g => Sys2Proof.Machine.execJmpr a g s
  | .callr a g => Sys2Proof.Machine.execCallr a g s
  | .ret g => Sys2Proof.Machine.execRet g s
  | .exit g => Sys2Proof.Machine.execExit g s
  | .crr d c g => Sys2Proof.Machine.execCrr d c g s
  | .crw c a g => Sys2Proof.Machine.execCrw c a g s
  | .crx d c a g => Sys2Proof.Machine.execCrx d c a g s
  | .ld d a ty ord sc off g => Sys2Proof.Machine.execLd d a ty ord sc off g s
  | .st d a ty ord sc off g => Sys2Proof.Machine.execSt d a ty ord sc off g s
  | .ldw d a ty ord sc off g => Sys2Proof.Machine.execLdw d a ty ord sc off g s
  | .ldc d a ty ord sc off g => Sys2Proof.Machine.execLdc d a ty ord sc off g s
  | .stf d a ty ord sc off g => Sys2Proof.Machine.execStf d a ty ord sc off g s
  | .ste d a ty ord sc off g => Sys2Proof.Machine.execSte d a ty ord sc off g s
  | .fest full a ty ord sc off g => Sys2Proof.Machine.execFest full a ty ord sc off g s
  | .feq pd a ty ord sc off g => Sys2Proof.Machine.execFeq pd a ty ord sc off g s
  | .lrw d a ty ord sc off g => Sys2Proof.Machine.execLrw d a ty ord sc off g s
  | .sch d a ty ord sc off g => Sys2Proof.Machine.execSch d a ty ord sc off g s
  | .rcan a ty ord sc off g => Sys2Proof.Machine.execRcan a ty ord sc off g s
  | .fence sc g => Sys2Proof.Machine.execFence sc g s
  | .put a idx b g => Sys2Proof.Machine.execPut a idx b g s
  | .arm d g => Sys2Proof.Machine.execArm d g s
  | .cpy mode d a b tag g => Sys2Proof.Machine.execCpy mode d a b tag g s
  | .cpys mode d a b tag g => Sys2Proof.Machine.execCpys mode d a b tag g s
  | .cpyd mode d a b tag g => Sys2Proof.Machine.execCpyd mode d a b tag g s
  | .twall a g => Sys2Proof.Machine.execTwall a g s
  | .twany a g => Sys2Proof.Machine.execTwany a g s
  | .tfirst d a g => Sys2Proof.Machine.execTfirst d a g s
  | .tclr a g => Sys2Proof.Machine.execTclr a g s
  | .spawn a b g => Sys2Proof.Machine.execSpawn a b g s
  | .mig a b g => Sys2Proof.Machine.execMig a b g s
  | .launch a g => Sys2Proof.Machine.execLaunch a g s
  | .bar sc a g => Sys2Proof.Machine.execBar sc a g s
  | .wlpush a g => Sys2Proof.Machine.execWlpush a g s
  | .wlpop d g => Sys2Proof.Machine.execWlpop d g s
  | .nred sc a b g => Sys2Proof.Machine.execNred sc a b g s
  | .rrec d a g => Sys2Proof.Machine.execRrec d a g s
  | .emitToken a b g => Sys2Proof.Machine.execEmitToken a b g s
  | .emitLogp a b g => Sys2Proof.Machine.execEmitLogp a b g s
  | .emitFault a b g => Sys2Proof.Machine.execEmitFault a b g s
  | .stepend g => Sys2Proof.Machine.execStepend g s
  | .tstate d a b g => Sys2Proof.Machine.execTstate d a b g s
  | .tsetStop d a b g => Sys2Proof.Machine.execTsetStop d a b g s
  | .tsetRun d a b g => Sys2Proof.Machine.execTsetRun d a b g s
  | .tsetSetpc d a b g => Sys2Proof.Machine.execTsetSetpc d a b g s
  | .tresumeRetry d a b g => Sys2Proof.Machine.execTresumeRetry d a b g s
  | .tresumeSkip d a b g => Sys2Proof.Machine.execTresumeSkip d a b g s
  | .tresumeGo d a b g => Sys2Proof.Machine.execTresumeGo d a b g s
  | .tresumeStop d a b g => Sys2Proof.Machine.execTresumeStop d a b g s
  | .tkill d a b g => Sys2Proof.Machine.execTkill d a b g s
  | .tkillLaunch d a b g => Sys2Proof.Machine.execTkillLaunch d a b g s
  | .fltrd d a g => Sys2Proof.Machine.execFltrd d a g s
  | .snuffDefine d a b g => Sys2Proof.Machine.execSnuffDefine d a b g s
  | .snuffFence d a b g => Sys2Proof.Machine.execSnuffFence d a b g s
  | .snuffRelease d a b g => Sys2Proof.Machine.execSnuffRelease d a b g s
  | .snuffRead d a b g => Sys2Proof.Machine.execSnuffRead d a b g s
  | .errlog d a g => Sys2Proof.Machine.execErrlog d a g s
  | .tlbfill a b g => Sys2Proof.Machine.execTlbfill a b g s
  | .tlbinvPage a b g => Sys2Proof.Machine.execTlbinvPage a b g s
  | .tlbinvAsn a b g => Sys2Proof.Machine.execTlbinvAsn a b g s
  | .tlbinvAll a b g => Sys2Proof.Machine.execTlbinvAll a b g s
  | .mbxwait d a g => Sys2Proof.Machine.execMbxwait d a g s
  | .preempt d a b g => Sys2Proof.Machine.execPreempt d a b g s
  | .savectx d a b g => Sys2Proof.Machine.execSavectx d a b g s
  | .restctx d a g => Sys2Proof.Machine.execRestctx d a g s
  | .enbud a b g => Sys2Proof.Machine.execEnbud a b g s
  | .vadd vd va vb ty rm => Sys2Proof.Machine.execVadd vd va vb ty rm s
  | .vsub vd va vb ty rm => Sys2Proof.Machine.execVsub vd va vb ty rm s
  | .vmul vd va vb ty rm => Sys2Proof.Machine.execVmul vd va vb ty rm s
  | .vmin vd va vb ty => Sys2Proof.Machine.execVmin vd va vb ty s
  | .vmax vd va vb ty => Sys2Proof.Machine.execVmax vd va vb ty s
  | .vabs vd va ty => Sys2Proof.Machine.execVabs vd va ty s
  | .vneg vd va ty => Sys2Proof.Machine.execVneg vd va ty s
  | .vfma3 vd va vb ty rm => Sys2Proof.Machine.execVfma3 vd va vb ty rm s
  | .vdiv vd va vb ty rm => Sys2Proof.Machine.execVdiv vd va vb ty rm s
  | .vsqrt vd va ty rm => Sys2Proof.Machine.execVsqrt vd va ty rm s
  | .vrcp vd va ty rm => Sys2Proof.Machine.execVrcp vd va ty rm s
  | .vrsq vd va ty rm => Sys2Proof.Machine.execVrsq vd va ty rm s
  | .vexp2 vd va ty rm => Sys2Proof.Machine.execVexp2 vd va ty rm s
  | .vlog2 vd va ty rm => Sys2Proof.Machine.execVlog2 vd va ty rm s
  | .vtanh vd va ty rm => Sys2Proof.Machine.execVtanh vd va ty rm s
  | .vand vd va vb ty => Sys2Proof.Machine.execVand vd va vb ty s
  | .vor vd va vb ty => Sys2Proof.Machine.execVor vd va vb ty s
  | .vxor vd va vb ty => Sys2Proof.Machine.execVxor vd va vb ty s
  | .vshl vd va vb ty => Sys2Proof.Machine.execVshl vd va vb ty s
  | .vshr vd va vb ty => Sys2Proof.Machine.execVshr vd va vb ty s
  | .vshra vd va vb ty => Sys2Proof.Machine.execVshra vd va vb ty s
  | .vperm vd va vb ty => Sys2Proof.Machine.execVperm vd va vb ty s
  | .vredadd vd va ty rm => Sys2Proof.Machine.execVredadd vd va ty rm s
  | .vredmax vd va ty => Sys2Proof.Machine.execVredmax vd va ty s
  | .vargmax vd va ty => Sys2Proof.Machine.execVargmax vd va ty s
  | .vcmp vd va vb ty c => Sys2Proof.Machine.execVcmp vd va vb ty c s
  | .vfma4 vd va vb vc ty rm => Sys2Proof.Machine.execVfma4 vd va vb vc ty rm s
  | .vsel vd va vb vc ty => Sys2Proof.Machine.execVsel vd va vb vc ty s
  | .vcvt vd va dst src rm => Sys2Proof.Machine.execVcvt vd va dst src rm s
  | .vbcast v g ty => Sys2Proof.Machine.execVbcast v g ty s
  | .vext g v ty idx => Sys2Proof.Machine.execVext g v ty idx s
  | .vld v g ty imm => Sys2Proof.Machine.execVld v g ty imm s
  | .vst v g ty imm => Sys2Proof.Machine.execVst v g ty imm s
  | .vgather v g x ty imm => Sys2Proof.Machine.execVgather v g x ty imm s
  | .vscatter v g x ty imm => Sys2Proof.Machine.execVscatter v g x ty imm s
  | .vclaim g imm => Sys2Proof.Machine.execVclaim g imm s
  | .rep count sd sa sb => Sys2Proof.Machine.execRep count sd sa sb s
  | .mma t a b c f => Sys2Proof.Machine.execMma t a b c f s
  | .mmaz t a => Sys2Proof.Machine.execMmaz t a s
  | .mclr t => Sys2Proof.Machine.execMclr t s
  | .mrd t a b f => Sys2Proof.Machine.execMrd t a b f s
  | .mst t a b f => Sys2Proof.Machine.execMst t a b f s
  | .mfmt t a => Sys2Proof.Machine.execMfmt t a s
  | .mscale t a b => Sys2Proof.Machine.execMscale t a b s
  | .mcap a b c => Sys2Proof.Machine.execMcap a b c s
  | .msend a b => Sys2Proof.Machine.execMsend a b s
  | .mwait a => Sys2Proof.Machine.execMwait a s
  | .rmap t a => Sys2Proof.Machine.execRmap t a s
  | .cnew c => Sys2Proof.Machine.execCnew c s
  | .cbind c h => Sys2Proof.Machine.execCbind c h s
  | .cfork cd cs => Sys2Proof.Machine.execCfork cd cs s
  | .cfree c => Sys2Proof.Machine.execCfree c s
  | .cset c h f => Sys2Proof.Machine.execCset c h f s
  | .cget h c f => Sys2Proof.Machine.execCget h c f s
  | .cwait c => Sys2Proof.Machine.execCwait c s
  | .trunc c h => Sys2Proof.Machine.execTrunc c h s
  | .append c ha hn => Sys2Proof.Machine.execAppend c ha hn s
  | .gen c hn => Sys2Proof.Machine.execGen c hn s
  | .score c ha hn hd => Sys2Proof.Machine.execScore c ha hn hd s
  | .choose c ha hn hd => Sys2Proof.Machine.execChoose c ha hn hd s
  | .beam c hk hn => Sys2Proof.Machine.execBeam c hk hn s
  | .spec c ha hn => Sys2Proof.Machine.execSpec c ha hn s
  | .post ha c => Sys2Proof.Machine.execPost ha c s
  | .recv hd ha => Sys2Proof.Machine.execRecv hd ha s
  | .hmov hd src => Sys2Proof.Machine.execHmov hd src s
  | .hadd hd ha src => Sys2Proof.Machine.execHadd hd ha src s
  | .hsub hd ha src => Sys2Proof.Machine.execHsub hd ha src s
  | .hcmp c hd ha src => Sys2Proof.Machine.execHcmp c hd ha src s
  | .hbr ha off => Sys2Proof.Machine.execHbr ha off s
  | .hjmp off => Sys2Proof.Machine.execHjmp off s
  | .hld hd ha off => Sys2Proof.Machine.execHld hd ha off s
  | .hst hs ha off => Sys2Proof.Machine.execHst hs ha off s
  | .replyArrival id => Sys2Proof.Machine.execReplyArrival id s
  | .energyRefill core => Sys2Proof.Machine.execEnergyRefill core s
  | .bankAccessArrival id => Sys2Proof.Machine.execBankAccessArrival id s
  | .waitBudgetExhausted id => Sys2Proof.Machine.execWaitBudgetExhausted id s
  | .pageWalkComplete core id => Sys2Proof.Machine.execPageWalkComplete core id s
  | .postedStoreRefused id => Sys2Proof.Machine.execPostedStoreRefused id s
  | .putArrival id => Sys2Proof.Machine.execPutArrival id s
  | .copyAccept id => Sys2Proof.Machine.execCopyAccept id s
  | .copyStart cluster => Sys2Proof.Machine.execCopyStart cluster s
  | .copyComplete cluster => Sys2Proof.Machine.execCopyComplete cluster s
  | .scaledChunkArrival cluster pseq => Sys2Proof.Machine.execScaledChunkArrival cluster pseq s
  | .segfmtWrite id => Sys2Proof.Machine.execSegfmtWrite id s
  | .segfmtTakesEffect cluster seg => Sys2Proof.Machine.execSegfmtTakesEffect cluster seg s
  | .vigctlWrite id => Sys2Proof.Machine.execVigctlWrite id s
  | .vigstatPeakWrite id => Sys2Proof.Machine.execVigstatPeakWrite id s
  | .registerWrite off value => Sys2Proof.Machine.execRegisterWrite off value s
  | .matrixCommandAccept id => Sys2Proof.Machine.execMatrixCommandAccept id s
  | .matrixCommandStart cluster => Sys2Proof.Machine.execMatrixCommandStart cluster s
  | .operandsConsumed cluster => Sys2Proof.Machine.execOperandsConsumed cluster s
  | .matrixCommandComplete cluster => Sys2Proof.Machine.execMatrixCommandComplete cluster s
  | .msendArrival id => Sys2Proof.Machine.execMsendArrival id s
  | .launchRecordArrival id => Sys2Proof.Machine.execLaunchRecordArrival id s
  | .shapeBroadcastComplete cluster => Sys2Proof.Machine.execShapeBroadcastComplete cluster s
  | .launchEnd lid => Sys2Proof.Machine.execLaunchEnd lid s
  | .spawnMessageArrival id => Sys2Proof.Machine.execSpawnMessageArrival id s
  | .slotFreeNotice id => Sys2Proof.Machine.execSlotFreeNotice id s
  | .nredPacketArrival id => Sys2Proof.Machine.execNredPacketArrival id s
  | .mailboxRecordArrival id => Sys2Proof.Machine.execMailboxRecordArrival id s
  | .chunkHopCheck hop loc chunk result => Sys2Proof.Machine.execChunkHopCheck hop loc chunk result s
  | .autoFence region => Sys2Proof.Machine.execAutoFence region s
  | .stepFormation bind => Sys2Proof.Machine.execStepFormation bind s
  | .stepCommit bind => Sys2Proof.Machine.execStepCommit bind s
  | .flareReexecution bind => Sys2Proof.Machine.execFlareReexecution bind s
  | .pageMove ridx blk lpddr => Sys2Proof.Machine.execPageMove ridx blk lpddr s
  | .promotionComplete ridx => Sys2Proof.Machine.execPromotionComplete ridx s
  | .residencyHoldExpiry bind => Sys2Proof.Machine.execResidencyHoldExpiry bind s
  | .kvFetch district => Sys2Proof.Machine.execKvFetch district s
  | .kvStore district => Sys2Proof.Machine.execKvStore district s
  | .kvCommandComplete district => Sys2Proof.Machine.execKvCommandComplete district s
  | .hostStoreCompletion id => Sys2Proof.Machine.execHostStoreCompletion id s
  | .beaconLinkTrained port => Sys2Proof.Machine.execBeaconLinkTrained port s
  | .peerAccessArrival port req => Sys2Proof.Machine.execPeerAccessArrival port req s
  | .peerAccessRefused id reason cause => Sys2Proof.Machine.execPeerAccessRefused id reason cause s
  | .linkDown port => Sys2Proof.Machine.execLinkDown port s
  | .systemRequestArrival id => Sys2Proof.Machine.execSystemRequestArrival id s
  | .tkillOfTheProgram prog => Sys2Proof.Machine.execTkillOfTheProgram prog s
  | .nopV => Sys2Proof.Machine.execNopV s
  | .vyield => Sys2Proof.Machine.execVyield s
  | .repgo => Sys2Proof.Machine.execRepgo s
  | .repend => Sys2Proof.Machine.execRepend s
  | .halt => Sys2Proof.Machine.execHalt s
  | .yield => Sys2Proof.Machine.execYield s
  | .illegalWordTurn => Sys2Proof.Machine.execIllegalWordTurn s
  | .replayIssue => Sys2Proof.Machine.execReplayIssue s
  | .replayComplete => Sys2Proof.Machine.execReplayComplete s
  | .launchPlacement => Sys2Proof.Machine.execLaunchPlacement s
  | .spawnResendTick => Sys2Proof.Machine.execSpawnResendTick s
  | .loadLevelling => Sys2Proof.Machine.execLoadLevelling s
  | .stackGrowth => Sys2Proof.Machine.execStackGrowth s
  | .fmbxRecordOffer => Sys2Proof.Machine.execFmbxRecordOffer s
  | .agentAdmission => Sys2Proof.Machine.execAgentAdmission s
  | .eviction => Sys2Proof.Machine.execEviction s
  | .hostPlainRead => Sys2Proof.Machine.execHostPlainRead s
  | .hostPlainWrite => Sys2Proof.Machine.execHostPlainWrite s
  | .hostFillRead => Sys2Proof.Machine.execHostFillRead s
  | .hostFillWrite => Sys2Proof.Machine.execHostFillWrite s
  | .hostStateRead => Sys2Proof.Machine.execHostStateRead s
  | .hostStateWriteEmpty => Sys2Proof.Machine.execHostStateWriteEmpty s
  | .hostStateWriteFull => Sys2Proof.Machine.execHostStateWriteFull s
  | .hostStateWriteNone => Sys2Proof.Machine.execHostStateWriteNone s
  | .hostSnoop => Sys2Proof.Machine.execHostSnoop s
  | .hostLinkTrained => Sys2Proof.Machine.execHostLinkTrained s
  | .powerGlow => Sys2Proof.Machine.execPowerGlow s
  | .powerDim => Sys2Proof.Machine.execPowerDim s
  | .powerEmber => Sys2Proof.Machine.execPowerEmber s
  | .powerDark => Sys2Proof.Machine.execPowerDark s
  | .chandlerConfig => Sys2Proof.Machine.execChandlerConfig s
  | .chandlerPauseAdmission => Sys2Proof.Machine.execChandlerPauseAdmission s
  | .chandlerResumeAdmission => Sys2Proof.Machine.execChandlerResumeAdmission s
  | .logread => Sys2Proof.Machine.execLogread s
  | .repairs => Sys2Proof.Machine.execRepairs s
  | .attest => Sys2Proof.Machine.execAttest s
  | .fwstage => Sys2Proof.Machine.execFwstage s
  | .identity => Sys2Proof.Machine.execIdentity s
  | .moduleReset => Sys2Proof.Machine.execModuleReset s
  | .hostPortLinkDown => Sys2Proof.Machine.execHostPortLinkDown s
  | .unknownMgmtOp => Sys2Proof.Machine.execUnknownMgmtOp s

end Sys2Proof.Machine
end

