-- ==== Sys2Proof/Machine/Step.lean ====
section
/-! DEFINITION. One step of the module, and a program's first bundle placed by hand. -/

namespace Sys2Proof.Machine

/-- One step: the next move of the cycle, or the next cycle (log entry 30). -/
def step (s : State) : Host.Outcome State Fault Refusal := stepBy exec s

/-- The state with an instruction placed as the bundle of slot 0 of core 0, whose turn is the next move: its thread is a new
one, privileged and with no address space, at address 0 of its core's TCM. After module reset a module holds no thread and
no launch, and runs programs only once its firmware has booted (R437), so the outside must send both; this stands for that
(log entry 31). -/
def State.withFetchWord (s : State) (nbits w : Nat) : State :=
  let bundle : Word :=
    if 32 < nbits then BitVec.ofNat 64 w
    else if (decodeA (w % 2 ^ 32) none).toOption.isSome then BitVec.ofNat 64 (w % 2 ^ 32)
    else BitVec.ofNat 64 (w % 2 ^ 32 * 2 ^ 32)
  let s := s.writeWord (tcmBase 0) bundle
  { s.setThread 0 { Thread.init with priv := true } with
    agenda := [.turn 0 0]
    mgmt := { s.mgmt with recovery := false } }

end Sys2Proof.Machine
end

