-- ==== Sys2Proof/Safety.lean ====
section
/-! DEFINITION. The terms in which claims speak of a run that goes well: a state that keeps the model's invariants, a step that
answers a next state, and when an instruction has its own effect. -/

namespace Sys2Proof.Machine

/-- The invariant of memory: its list is in canonical form, so that equal memories are equal lists. -/
def State.memoryCanonical (s : State) : Prop := Memory.wf s.mem = true

/-- A step goes on: it ends in no fault and no refusal. -/
def State.goesOn (s : State) : Prop := ∃ t, step s = .next t

/-- An A-slot instruction has its own effect: its guard reads true and every register it reads is present (R18, R91). -/
def State.ready (s : State) (g : PReg) (rs : List Reg) : Prop :=
  s.iss.snap.predAt g = true ∧ ∀ r ∈ rs, s.iss.snap.isPresent r = true

/-- An A-slot instruction whose operands must not be poisoned has its own effect (R18, R91, R171, R401). -/
def State.readyClean (s : State) (g : PReg) (rs : List Reg) : Prop :=
  s.ready g rs ∧ ∀ r ∈ rs, s.iss.snap.isPoisoned r = false

/-- A physical address that an access reaches: one that exists, through a port whose link is up, with metadata where the form
needs it (R144, R147, R387). -/
def State.exists (s : State) (fullEmpty : Bool) (pa : Nat) : Prop :=
  match regionOf pa with
  | .absent => False
  | .peer p => fullEmpty = false ∧ (s.ports.toList[p]?.map (fun q => q.up)).getD false = true
  | _ => fullEmpty = true → hasMeta pa = true

/-- The issuing thread's access of a form and size at an address reaches a physical address: it has no other access
outstanding, and the address is aligned, mapped for it and present (R20, R170, R171, R456). -/
def State.reaches (s : State) (f : Form) (va : Word) (size pa : Nat) : Prop :=
  s.iss.snap.relaxed = none ∧ va.toNat % size = 0 ∧ s.exists (isFullEmpty f) pa ∧
    s.translate s.iss.core s.iss.slot s.iss.snap.space s.iss.snap.priv (formKind f) va = .ok pa

/-- The same of each element of a vector access (R135, R136). -/
def State.reachesAll (s : State) (k : Kind) (vas : List Word) (size : Nat) (pas : List Nat) : Prop :=
  s.iss.snap.relaxed = none ∧
    List.Forall₂ (fun (va : Word) pa => va.toNat % size = 0 ∧ s.exists false pa ∧
      s.translate s.iss.core s.iss.slot s.iss.snap.space s.iss.snap.priv k va = .ok pa) vas pas

/-- What a program can read of memory is the same in two states: every byte, and every word's F, X and HOLD (R147). -/
def State.sameMemory (s t : State) : Prop :=
  (∀ a, Memory.read t.mem a = Memory.read s.mem a) ∧ ∀ a, t.wordMeta a = s.wordMeta a

end Sys2Proof.Machine

namespace Sys2Proof

/-- Where a value stands in the order of the numbers: the real it denotes, or an infinity above or below all of them. A NaN
has no place; it is given the lowest. -/
def Val.rank : Val → WithBot (WithTop ℚ)
  | .nan _ => ⊥
  | .inf n => if n then ⊥ else ((⊤ : WithTop ℚ) : WithBot (WithTop ℚ))
  | .fin n m e => (((if n then -1 else 1) * (m : ℚ) * (2 : ℚ) ^ e : ℚ) : WithTop ℚ)

end Sys2Proof
end

