-- ==== Sys2Proof/WellFormed.lean ====
section
/-! DEFINITION. Which instructions an instruction word can hold: the codes that each instruction accepts (R80, R82, R85,
R97, R120), and the one instruction of those that share a word. -/

namespace Sys2Proof

/-- Whether every code of an instruction is one that its encoding accepts (R75, R80, R82, R85, R97, R120, R123). A
vector instruction whose type takes no rounding mode holds 000 in that field (R120). -/
def Instr.wf : Instr → Bool
  | .cmp _ _ c _ _ _ | .cmpi _ _ c _ _ _ => c != .un
  | .hcmp c _ _ _ => c != .un
  | .ld _ _ _ o _ _ _ => o.okLoad
  | .st _ _ _ o _ _ _ => o.okStore
  | .ldw _ _ t o _ _ _ | .ldc _ _ t o _ _ _ | .lrw _ _ t o _ _ _ | .feq _ _ t o _ _ _ => t.isWord && o.okAcq
  | .stf _ _ t o _ _ _ | .ste _ _ t o _ _ _ | .sch _ _ t o _ _ _ | .fest _ _ t o _ _ _ => t.isWord && o.okRel
  | .rcan _ t o _ _ _ => t.isWord && o.okSc
  | .vadd _ _ _ t r | .vsub _ _ _ t r => t.isIF && (t.isFloat || r == .rne)
  | .vmul _ _ _ t r => t.isFloat || r == .rne
  | .vredadd _ _ t r => t.isIF && (t.isFloat || r == .rne)
  | .vfma3 _ _ _ t _ | .vdiv _ _ _ t _ | .vfma4 _ _ _ _ t _ => t.isFloat
  | .vsqrt _ _ t _ | .vrcp _ _ t _ | .vrsq _ _ t _ => t.isFloat
  | .vexp2 _ _ t _ | .vlog2 _ _ t _ | .vtanh _ _ t _ => t.isF3
  | .vshl _ _ _ t | .vshr _ _ _ t | .vshra _ _ _ t => t.isInt
  | .vcmp _ _ _ t c => !(t.isInt && c == .un)
  | .vgather _ _ _ t _ | .vscatter _ _ _ t _ => t.isW
  | .vclaim _ n => decide (n.toNat ≤ 64)
  | .rep n _ _ _ => decide (n.toNat ≤ 4096)
  | .nopA .. | .add .. | .sub .. | .mul .. | .mulh .. | .mulhn .. | .div .. | .divn .. | .rem .. | .remn .. | .and ..
  | .andn .. | .or .. | .xor .. | .shl .. | .shr .. | .shra .. | .rol .. | .min .. | .max .. | .minn .. | .maxn ..
  | .mov .. | .clz .. | .ctz .. | .popc .. | .sextS8 .. | .sextS16 .. | .sextS32 .. | .zextN8 .. | .zextN16 ..
  | .zextN32 .. | .addi .. | .lea .. | .movi .. | .movhi .. | .addpc .. | .sel .. | .pand .. | .por .. | .pxor ..
  | .pnot .. | .fadd .. | .fsub .. | .fmul .. | .fma .. | .fdiv .. | .fsqrt .. | .fmin .. | .fmax .. | .fclass ..
  | .fcmp .. | .fcvt .. | .br .. | .jmp .. | .call .. | .loop .. | .sig .. | .jmpr .. | .callr .. | .ret ..
  | .exit .. | .crr .. | .crw .. | .crx .. | .fence .. | .put .. | .arm .. | .cpy .. | .cpys .. | .cpyd ..
  | .twall .. | .twany .. | .tfirst .. | .tclr .. | .spawn .. | .mig .. | .launch .. | .bar .. | .wlpush ..
  | .wlpop .. | .nred .. | .rrec .. | .emitToken .. | .emitLogp .. | .emitFault .. | .stepend .. | .tstate ..
  | .tsetStop .. | .tsetRun .. | .tsetSetpc .. | .tresumeRetry .. | .tresumeSkip .. | .tresumeGo .. | .tresumeStop ..
  | .tkill .. | .tkillLaunch .. | .fltrd .. | .snuffDefine .. | .snuffFence .. | .snuffRelease .. | .snuffRead ..
  | .errlog .. | .tlbfill .. | .tlbinvPage .. | .tlbinvAsn .. | .tlbinvAll .. | .mbxwait .. | .preempt ..
  | .savectx .. | .restctx .. | .enbud .. | .vmin .. | .vmax .. | .vabs .. | .vneg .. | .vand .. | .vor .. | .vxor ..
  | .vperm .. | .vredmax .. | .vargmax .. | .vsel .. | .vcvt .. | .vbcast .. | .vext .. | .vld .. | .vst .. | .mma ..
  | .mmaz .. | .mclr .. | .mrd .. | .mst .. | .mfmt .. | .mscale .. | .mcap .. | .msend .. | .mwait .. | .rmap ..
  | .cnew .. | .cbind .. | .cfork .. | .cfree .. | .cset .. | .cget .. | .cwait .. | .trunc .. | .append .. | .gen ..
  | .score .. | .choose .. | .beam .. | .spec .. | .post .. | .recv .. | .hmov .. | .hadd .. | .hsub .. | .hbr ..
  | .hjmp .. | .hld .. | .hst .. | .replyArrival .. | .energyRefill .. | .bankAccessArrival ..
  | .waitBudgetExhausted .. | .pageWalkComplete .. | .postedStoreRefused .. | .putArrival .. | .copyAccept ..
  | .copyStart .. | .copyComplete .. | .scaledChunkArrival .. | .segfmtWrite .. | .segfmtTakesEffect ..
  | .vigctlWrite .. | .vigstatPeakWrite .. | .registerWrite .. | .matrixCommandAccept .. | .matrixCommandStart ..
  | .operandsConsumed .. | .matrixCommandComplete .. | .msendArrival .. | .launchRecordArrival ..
  | .shapeBroadcastComplete .. | .launchEnd .. | .spawnMessageArrival .. | .slotFreeNotice .. | .nredPacketArrival ..
  | .mailboxRecordArrival .. | .chunkHopCheck .. | .autoFence .. | .stepFormation .. | .stepCommit ..
  | .flareReexecution .. | .pageMove .. | .promotionComplete .. | .residencyHoldExpiry .. | .kvFetch .. | .kvStore ..
  | .kvCommandComplete .. | .hostStoreCompletion .. | .beaconLinkTrained .. | .peerAccessArrival ..
  | .peerAccessRefused .. | .linkDown .. | .systemRequestArrival .. | .tkillOfTheProgram .. | .nopV | .vyield
  | .repgo | .repend | .halt | .yield | .illegalWordTurn | .replayIssue | .replayComplete | .launchPlacement
  | .spawnResendTick | .loadLevelling | .stackGrowth | .fmbxRecordOffer | .agentAdmission | .eviction
  | .hostPlainRead | .hostPlainWrite | .hostFillRead | .hostFillWrite | .hostStateRead | .hostStateWriteEmpty
  | .hostStateWriteFull | .hostStateWriteNone | .hostSnoop | .hostLinkTrained | .powerGlow | .powerDim | .powerEmber
  | .powerDark | .chandlerConfig | .chandlerPauseAdmission | .chandlerResumeAdmission | .logread | .repairs | .attest
  | .fwstage | .identity | .moduleReset | .hostPortLinkDown | .unknownMgmtOp => true

/-- The instruction that the decoder answers for a word that several rows of the table share: what the word does is told
by an operand's value, which every one of them reads (R314, R420 to R422, R424, R427; log entry 32). -/
def Instr.canon : Instr → Instr
  | .emitLogp a b g | .emitFault a b g => .emitToken a b g
  | .tsetRun d a b g | .tsetSetpc d a b g => .tsetStop d a b g
  | .tresumeSkip d a b g | .tresumeGo d a b g | .tresumeStop d a b g => .tresumeRetry d a b g
  | .tkillLaunch d a b g => .tkill d a b g
  | .snuffFence d a b g | .snuffRelease d a b g | .snuffRead d a b g => .snuffDefine d a b g
  | .tlbinvAsn a b g | .tlbinvAll a b g => .tlbinvPage a b g
  | i => i

end Sys2Proof
end

