-- ==== Sys2Proof/Certificates/Slice0/Obligations.lean ====
section
/-! DEFINITION. The statements for the provers. -/

open Sys2Proof Sys2Proof.Machine

/-! ## The integer group and its neighbours (chapter 5) -/

/-- R94: every result of the integer group but division, as gd's new value; the result is poisoned when a source is (R23), and
nothing else of the machine changes. -/
def Obligations.IntegerGroupResults : Prop :=
  ∀ (s : State) (d a b : Reg) (g : PReg), s.ready g [a, b] →
    let x := s.iss.snap.reg a
    let y := s.iss.snap.reg b
    let sh := y.toNat % 64
    let two (v : Word) : Out := .next (writeReg d v (s.iss.snap.isPoisoned a || s.iss.snap.isPoisoned b) s)
    let one (v : Word) : Out := .next (writeReg d v (s.iss.snap.isPoisoned a) s)
    exec (.add d a b g) s = two (x + y) ∧
    exec (.sub d a b g) s = two (x - y) ∧
    exec (.mul d a b g) s = two (x * y) ∧
    exec (.mulh d a b g) s = two (BitVec.ofInt 64 (x.toInt * y.toInt / 2 ^ 64)) ∧
    exec (.mulhn d a b g) s = two (BitVec.ofNat 64 (x.toNat * y.toNat / 2 ^ 64)) ∧
    exec (.and d a b g) s = two (x &&& y) ∧
    exec (.andn d a b g) s = two (x &&& ~~~y) ∧
    exec (.or d a b g) s = two (x ||| y) ∧
    exec (.xor d a b g) s = two (x ^^^ y) ∧
    exec (.shl d a b g) s = two (BitVec.ofNat 64 (x.toNat * 2 ^ sh)) ∧
    exec (.shr d a b g) s = two (BitVec.ofNat 64 (x.toNat / 2 ^ sh)) ∧
    exec (.shra d a b g) s = two (BitVec.ofInt 64 (x.toInt / 2 ^ sh)) ∧
    exec (.rol d a b g) s = two (BitVec.ofNat 64 (x.toNat * 2 ^ sh) ||| BitVec.ofNat 64 (x.toNat / 2 ^ (64 - sh))) ∧
    exec (.min d a b g) s = two (if x.toInt ≤ y.toInt then x else y) ∧
    exec (.max d a b g) s = two (if x.toInt ≤ y.toInt then y else x) ∧
    exec (.minn d a b g) s = two (if x.toNat ≤ y.toNat then x else y) ∧
    exec (.maxn d a b g) s = two (if x.toNat ≤ y.toNat then y else x) ∧
    exec (.mov d a g) s = one x ∧
    (∃ n : Nat, exec (.clz d a g) s = one (BitVec.ofNat 64 n) ∧ n ≤ 64 ∧ x.toNat < 2 ^ (64 - n) ∧ (n < 64 → 2 ^ (63 - n) ≤ x.toNat)) ∧
    (∃ n : Nat, exec (.ctz d a g) s = one (BitVec.ofNat 64 n) ∧ n ≤ 64 ∧ x.toNat % 2 ^ n = 0 ∧ (n < 64 → x.getLsbD n = true)) ∧
    exec (.popc d a g) s = one (BitVec.ofNat 64 ((List.range 64).countP (fun i => x.getLsbD i))) ∧
    exec (.sextS8 d a g) s = one ((x.setWidth 8).signExtend 64) ∧
    exec (.sextS16 d a g) s = one ((x.setWidth 16).signExtend 64) ∧
    exec (.sextS32 d a g) s = one ((x.setWidth 32).signExtend 64) ∧
    exec (.zextN8 d a g) s = one ((x.setWidth 8).setWidth 64) ∧
    exec (.zextN16 d a g) s = one ((x.setWidth 16).setWidth 64) ∧
    exec (.zextN32 d a g) s = one ((x.setWidth 32).setWidth 64)

/-- R95: DIV, DIVN, REM and REMN, with DZ for a zero divisor and SAT for the one quotient that does not fit. -/
def Obligations.DivisionResults : Prop :=
  ∀ (s : State) (d a b : Reg) (g : PReg), s.ready g [a, b] →
    let x := s.iss.snap.reg a
    let y := s.iss.snap.reg b
    let wrote (v : Word) (f : FlagBits) : Out :=
      .next (raiseFlags f (writeReg d v (s.iss.snap.isPoisoned a || s.iss.snap.isPoisoned b) s))
    if y = 0 then
      exec (.div d a b g) s = wrote 0 dzFlag ∧ exec (.divn d a b g) s = wrote 0 dzFlag ∧
      exec (.rem d a b g) s = wrote x dzFlag ∧ exec (.remn d a b g) s = wrote x dzFlag
    else
      exec (.divn d a b g) s = wrote (BitVec.ofNat 64 (x.toNat / y.toNat)) 0 ∧
      exec (.remn d a b g) s = wrote (BitVec.ofNat 64 (x.toNat % y.toNat)) 0 ∧
      (if x = BitVec.ofInt 64 (-2 ^ 63) ∧ y = BitVec.ofInt 64 (-1) then
        exec (.div d a b g) s = wrote (BitVec.ofNat 64 (2 ^ 63 - 1)) satFlag ∧ exec (.rem d a b g) s = wrote 0 0
      else
        exec (.div d a b g) s = wrote (BitVec.ofInt 64 (x.toInt.tdiv y.toInt)) 0 ∧
        exec (.rem d a b g) s = wrote (BitVec.ofInt 64 (x.toInt.tmod y.toInt)) 0)

/-- R96, R99, R100: constants and addresses (`immSigned` is the immediate of R73 and R76, sign-extended; MOVHI's is unsigned); SEL
takes the value and the poison of the register selected; the predicate instructions compute from predicates alone, and p0 keeps
its value (R24). -/
def Obligations.ImmediateSelectAndPredicateResults : Prop :=
  (∀ (s : State) (d a : Reg) (i : Imm 12) (j : Imm 17) (g : PReg), s.ready g [a, d] →
    let wrote (v : Word) (p : Bool) : Out := .next (writeReg d v p s)
    exec (.addi d a i g) s = wrote (s.iss.snap.reg a + immSigned i) (s.iss.snap.isPoisoned a) ∧
    exec (.lea d a i g) s = wrote (s.iss.snap.reg a + immSigned i * 8) (s.iss.snap.isPoisoned a) ∧
    exec (.movi d j g) s = wrote (immSigned j) false ∧
    exec (.movhi d j g) s
      = wrote (immUnsigned j * BitVec.ofNat 64 (2 ^ 20) + BitVec.ofNat 64 ((s.iss.snap.reg d).toNat % 2 ^ 20)) (s.iss.snap.isPoisoned d) ∧
    exec (.addpc d j g) s = wrote (s.iss.pc + immSigned j) false) ∧
  (∀ (s : State) (d a b : Reg) (p pd pa pb g : PReg),
    (s.ready g [a, b] →
      exec (.sel d a b p g) s =
        .next (if s.iss.snap.predAt p then writeReg d (s.iss.snap.reg a) (s.iss.snap.isPoisoned a) s
          else writeReg d (s.iss.snap.reg b) (s.iss.snap.isPoisoned b) s)) ∧
    (s.ready g [] →
      let x := s.iss.snap.predAt pa
      let y := s.iss.snap.predAt pb
      let wrote (v : Bool) (o : Out) : Prop :=
        o = .next { s with iss := { s.iss with live :=
          if pd = 0 then s.iss.live else { s.iss.live with pred := setBit s.iss.live.pred pd.val v } } }
      wrote (x && y) (exec (.pand pd pa pb g) s) ∧ wrote (x || y) (exec (.por pd pa pb g) s) ∧
        wrote (x ^^ y) (exec (.pxor pd pa pb g) s) ∧ wrote (!x) (exec (.pnot pd pa g) s)))

/-- R97, R98: the comparison of the operands cut to the type, written to pd; with a poisoned source the bundle takes effect and
the thread detaches with a poison message that names the register.
The model's own choices in it: log entry 78. -/
def Obligations.ComparisonResults : Prop :=
  ∀ (s : State) (pd : PReg) (a b : Reg) (t : Ity) (i : Imm 8) (g : PReg), s.ready g [a, b] →
    let cut (w : Word) : Int := t.ty.int w.toNat
    let x := cut (s.iss.snap.reg a)
    let wrote (v : Bool) : State := live (fun th => th.setPred pd v) s
    let ends (rs : List Reg) (u : State) : Out :=
      match rs.find? (fun r => s.iss.snap.isPoisoned r) with
      | some r => .next (trapTook { cause := 0x10, detail := r.val + 32 } u)
      | none => .next u
    ∀ c : Cond, c ≠ .un →
      let holds (x y : Int) : Bool :=
        match c with
        | .eq => x == y
        | .ne => x != y
        | .lt => decide (x < y)
        | .le => decide (x ≤ y)
        | .gt => decide (x > y)
        | .ge => decide (x ≥ y)
        | .un => false
      exec (.cmp pd a c t b g) s = ends [a, b] (wrote (holds x (cut (s.iss.snap.reg b)))) ∧
      exec (.cmpi pd a c t i g) s = ends [a] (wrote (holds x (cut (immSigned i))))

/-! ## Scalar floating point (chapter 5) -/

/-- R101 to R106: the scalar float instructions write what the format's operation gives, with its flags ORed into FLAGS, and
nothing else changes. -/
def Obligations.FloatResults : Prop :=
  ∀ (s : State) (d a b : Reg) (rm : Rm) (t : Fty) (dst src : Ty) (g : PReg), s.ready g [a, b, d] →
    let x := (s.iss.snap.reg a).toNat
    let y := (s.iss.snap.reg b).toNat
    let wrote (rs : List Reg) (r : Nat × FlagBits) : Out :=
      .next (raiseFlags r.2 (writeReg d (BitVec.ofNat 64 r.1) (rs.any s.iss.snap.isPoisoned) s))
    exec (.fadd d a b rm t g) s = wrote [a, b] (fadd t rm x y) ∧
    exec (.fsub d a b rm t g) s = wrote [a, b] (fsub t rm x y) ∧
    exec (.fmul d a b rm t g) s = wrote [a, b] (fmul t rm x y) ∧
    exec (.fdiv d a b rm t g) s = wrote [a, b] (fdiv t rm x y) ∧
    exec (.fma d a b rm t g) s = wrote [a, b, d] (ffma t rm x y (s.iss.snap.reg d).toNat) ∧
    exec (.fsqrt d a rm t g) s = wrote [a] (fsqrt t rm x) ∧
    exec (.fmin d a b t g) s = wrote [a, b] (pickMax t false x y) ∧
    exec (.fmax d a b t g) s = wrote [a, b] (pickMax t true x y) ∧
    exec (.fcvt d a dst src rm g) s =
      .next (raiseFlags (convert dst src rm x).2 (writeReg d (dst.extend (convert dst src rm x).1) (s.iss.snap.isPoisoned a) s))

/-- R104, R105, R98: FCLASS sets the one bit of gd that the sign, the exponent field and the fraction field of the operand give, and
raises no flag. FCMP follows the order of the numbers its operands denote: NaNs are unordered, −0 equals +0, and NV is raised by
any NaN for lt, le, gt and ge, by a signaling one for eq, ne and un; a poisoned source detaches the thread as in R98.
The model's own choices in it: log entry 78. -/
def Obligations.FclassAndFcmp : Prop :=
  (∀ (s : State) (d a : Reg) (t : Fty) (g : PReg), s.ready g [a] →
    let x := (s.iss.snap.reg a).toNat
    let sign := bits x (t.width - 1) 1 = 1
    let expo := bits x (t.prec - 1) (t.width - t.prec)
    let frac := bits x 0 (t.prec - 1)
    let n : Nat :=
      if expo = 2 * t.bias + 1 then
        if frac = 0 then (if sign then 0 else 7) else if bits x (t.prec - 2) 1 = 0 then 8 else 9
      else if expo = 0 then
        if frac = 0 then (if sign then 3 else 4) else (if sign then 2 else 5)
      else if sign then 1 else 6
    exec (.fclass d a t g) s = .next (writeReg d (BitVec.ofNat 64 (2 ^ n)) (s.iss.snap.isPoisoned a) s)) ∧
  (∀ (s : State) (pd : PReg) (a b : Reg) (c : Cond) (t : Fty) (g : PReg), s.ready g [a, b] →
    let va := t.val (s.iss.snap.reg a).toNat
    let vb := t.val (s.iss.snap.reg b).toNat
    let un := va.isNan || vb.isNan
    let sig := va.isSig || vb.isSig
    let v : Bool :=
      match c with
      | .eq => !un && decide (va.rank = vb.rank)
      | .ne => un || decide (va.rank ≠ vb.rank)
      | .lt => !un && decide (va.rank < vb.rank)
      | .le => !un && decide (va.rank ≤ vb.rank)
      | .gt => !un && decide (va.rank > vb.rank)
      | .ge => !un && decide (va.rank ≥ vb.rank)
      | .un => un
    let nv : Bool :=
      match c with
      | .eq | .ne | .un => sig
      | .lt | .le | .gt | .ge => un
    let u := raiseFlags (if nv then nvFlag else 0) (live (fun th => th.setPred pd v) s)
    exec (.fcmp pd a c t b g) s =
      .next (match [a, b].find? (fun r => s.iss.snap.isPoisoned r) with
        | some r => trapTook { cause := 0x10, detail := r.val + 32 } u
        | none => u))

/-- R49, R102, R103: FMIN and FMAX give one of their operands, the smaller or the larger, with −0 below +0; any NaN gives the
canonical NaN, and a signaling one raises NV. An operation of R102 with a NaN operand gives the canonical NaN and raises NV
exactly when an operand is a signaling NaN, but for an infinity times zero beside a quiet NaN addend, which raises NV too; and
sums and products do not depend on the order of their operands. -/
def Obligations.FloatNanMinimumAndSymmetry : Prop :=
  (∀ (t : Fty) (a b : Nat),
    let va := t.val a
    let vb := t.val b
    if va.isNan || vb.isNan then
      ∀ m, pickMax t m a b = (t.qnan, if va.isSig || vb.isSig then nvFlag else 0)
    else
      (∀ m, pickMax t m a b = (bits a 0 t.width, 0) ∨ pickMax t m a b = (bits b 0 t.width, 0)) ∧
      (va.rank < vb.rank → pickMax t false a b = (bits a 0 t.width, 0) ∧ pickMax t true a b = (bits b 0 t.width, 0)) ∧
      (vb.rank < va.rank → pickMax t false a b = (bits b 0 t.width, 0) ∧ pickMax t true a b = (bits a 0 t.width, 0)) ∧
      (va.isZero ∧ vb.isZero → va.neg ≠ vb.neg →
        t.val (pickMax t false a b).1 = (if va.neg then va else vb) ∧ t.val (pickMax t true a b).1 = (if va.neg then vb else va))) ∧
  (∀ (t : Fty) (rm : Rm) (a b c : Nat),
    let va := t.val a
    let vb := t.val b
    let vc := t.val c
    let nan (sig : Bool) : Nat × FlagBits := (t.qnan, if sig then nvFlag else 0)
    (va.isNan ∨ vb.isNan →
      let r := nan (va.isSig || vb.isSig)
      fadd t rm a b = r ∧ fsub t rm a b = r ∧ fmul t rm a b = r ∧ fdiv t rm a b = r ∧
        ffma t rm a b c = nan (va.isSig || vb.isSig || vc.isSig)) ∧
    (va.isNan → fsqrt t rm a = nan va.isSig) ∧
    (vc.isNan →
      let times := (va = .inf true ∨ va = .inf false) ∧ vb.isZero ∨ (vb = .inf true ∨ vb = .inf false) ∧ va.isZero
      ffma t rm a b c = nan (va.isSig || vb.isSig || vc.isSig || decide times)) ∧
    fadd t rm a b = fadd t rm b a ∧ fmul t rm a b = fmul t rm b a)

/-- R106, R54: a conversion between integer types keeps a value the new type can hold, and otherwise gives the nearest value it
can and raises SAT alone. -/
def Obligations.IntegerConversionSaturates : Prop :=
  ∀ (dst src : Ty) (rm : Rm) (a : Nat), dst.isInt → src.isInt →
    let v := src.int a
    let lo : Int := if dst.signed then -(2 ^ (dst.width - 1)) else 0
    let hi : Int := if dst.signed then 2 ^ (dst.width - 1) - 1 else 2 ^ dst.width - 1
    let r := convert dst src rm a
    (lo ≤ v → v ≤ hi → dst.int r.1 = v ∧ r.2 = 0) ∧ (v < lo → dst.int r.1 = lo ∧ r.2 = satFlag) ∧
      (hi < v → dst.int r.1 = hi ∧ r.2 = satFlag)

/-! ## Transfers, block signatures, control registers (chapter 5) -/

/-- R107 to R109, R112: the transfers whose targets are relative or replace bits of the bundle's address, and NOP, which does
nothing under any guard; the transfers to the address in a register, of which a misaligned one takes nothing and sends the
misaligned-target message with the target.
The model's own choices in it: log entry 78. -/
def Obligations.Transfers : Prop :=
  (∀ (s : State) (a : Reg) (off : Imm 22) (back : Imm 17) (g : PReg), s.readyClean g [a] →
    let n := s.iss.snap.reg a
    let at4 (i : Word) : Word := s.iss.pc + i * 8
    exec (.nopA g) s = .next s ∧
    exec (.br off g) s = .next (transfer (at4 (immSigned off)) s) ∧
    exec (.call off g) s = .next (transfer (at4 (immSigned off)) (writeReg 28 (s.iss.pc + 8) false s)) ∧
    (∃ target, exec (.jmp off g) s = .next (transfer target s) ∧
      match off.ext with
      | none => target.toNat % 8 = s.iss.pc.toNat % 8 ∧ target.toNat / 8 % 2 ^ 22 = off.field.toNat ∧
          target.toNat / 2 ^ 25 = s.iss.pc.toNat / 2 ^ 25
      | some x => target.toNat % 8 = s.iss.pc.toNat % 8 ∧ target.toNat / 8 % 2 ^ 49 = (x ++ off.field).toNat ∧
          target.toNat / 2 ^ 52 = s.iss.pc.toNat / 2 ^ 52) ∧
    exec (.loop a back g) s = .next (
      if n = 0 then s
      else if n = 1 then writeReg a 0 false s
      else transfer (at4 (immSigned back)) (writeReg a (n - 1) false s))) ∧
  (∀ (s : State) (a : Reg) (g : PReg), s.readyClean g [a, 28] →
    let target := s.iss.snap.reg a
    let link := s.iss.snap.reg 28
    let missed (v : Word) : Out := .next (trap { cause := 0x11, va := v } s)
    (target.toNat % 8 = 0 →
      exec (.jmpr a g) s = .next (transfer target s) ∧
      exec (.callr a g) s = .next (transfer target (writeReg 28 (s.iss.pc + 8) false s))) ∧
    (target.toNat % 8 ≠ 0 → exec (.jmpr a g) s = missed target ∧ exec (.callr a g) s = missed target) ∧
    exec (.ret g) s = if link.toNat % 8 = 0 then .next (transfer link s) else missed link)

/-- R114: SIG completes under any guard, and opens a new block: with no signature pending, or one that the hash matches, the next
state is that; when a signature is pending that the hash does not match, it opens the block as well and the thread detaches
with a signature message, the bundle having taken effect. SIG completes in both. -/
def Obligations.SigChecksTheBlock : Prop :=
  ∀ (s : State) (sg : BitVec 22) (g : PReg),
    let old := s.iss.snap.sig
    let computed : BitVec 22 := (old.state ^^^ (old.state >>> 22)).setWidth 22
    let t := live (fun th => { th with sig := ⟨0, sg, true⟩ }) s
    (old.pv = false ∨ computed = old.exp → exec (.sig sg g) s = .next t) ∧
    (old.pv = true → computed ≠ old.exp →
      ∃ u, exec (.sig sg g) s = .next u ∧ u.iss.live = { t.iss.live with run := .trapped 0x13 true, ahead := [] } ∧
        u.iss.stopped = s.iss.stopped ∧ u.mem = s.mem ∧ u.marks = s.marks ∧
        ∃ e, u.log = mset s.log (s.logSeq % 4096) e ∧ fld e[0] 59 52 = 0x13)

/-- R116, R29 to R45: CRR reads a control register as it stands at issue, present and unpoisoned; CRW writes it field by field; CRX
does both in one action. ENCTL, SPACE and the GUARD registers take a write from a supervisor thread alone. A write to a register
that no instruction writes changes nothing, and a write to any other leaves every reserved field 0, p0 true, VL within GRANT, and
LEFT of WAITBUD within 0x10_0000; a write to ENCTL leaves NEXTPP as it was.
The model's own choices in it: log entry 78. -/
def Obligations.ControlRegisters : Prop :=
  (∀ (s : State) (d a : Reg) (c : Creg) (g : PReg), s.readyClean g [a] →
    let v := s.iss.snap.reg a
    let guardedReg : Bool := match c with
      | .enctl | .space | .guard _ => true
      | _ => false
    exec (.crr d c g) s = .next (writeReg d (cregRead s s.iss.snap c) false s) ∧
    (s.iss.snap.priv = true ∨ guardedReg = false →
      exec (.crw c a g) s = .next (cregWrite c v s) ∧
      exec (.crx d c a g) s = .next (writeReg d (cregRead s s.iss.snap c) false (cregWrite c v s))) ∧
    (s.iss.snap.priv = false → guardedReg = true →
      let refused : Out := .next (trap { cause := 0x12, detail := c.code } s)
      exec (.crw c a g) s = refused ∧ exec (.crx d c a g) s = refused)) ∧
  (∀ (s : State) (v : Word),
    let rd (c : Creg) : Word := cregRead (cregWrite c v s) (cregWrite c v s).iss.live c
    (∀ c, c ∈ [Creg.slot, .threadgen, .grant, .present, .poison, .energy, .repst, .sigst, .netcap, .launchid, .mbxst, .tags] →
      cregWrite c v s = s) ∧
    rd .pred = BitVec.ofNat 64 (v.toNat % 256 / 2 * 2 + 1) ∧
    rd .flags = BitVec.ofNat 64 (v.toNat % 64) ∧
    rd .vl = BitVec.ofNat 64 (min (v.toNat % 128) s.iss.live.grant.toNat) ∧
    rd .waitbud = BitVec.ofNat 64 (min (v.toNat % 2 ^ 21) 0x100000) ∧
    rd .chkid = v ∧
    rd .space = v &&& 0xFFFF00FFFFFFFFFF#64 ∧
    rd .cpmbx = v &&& 0x00FFFFFFFFFFFFF9#64 ∧
    rd .nrctl = v &&& 0xFFFFFF1F1FFFFFFF#64 ∧
    rd .dpat = v &&& 0xFFFF00FFF7#64 ∧
    fld (rd .enctl) 31 16 = max 64 (fld v 31 16) ∧
    fld (rd .enctl) 63 32 = 0 ∧ fld (rd .enctl) 15 3 = 0 ∧ fld (rd .enctl) 2 0 = (s.core s.iss.core).nextpp.val ∧
    (∀ n, rd (.guard n) = v &&& 0x7_8000_FFFF_FFFF#64))

/-! ## The vector unit (chapter 6) -/

/-- R27: with GRANT 0 every instruction that names a vector register takes the no-grant fault, cause 0x14 with its major code. -/
def Obligations.NoGrantFault : Prop :=
  ∀ (i : Instr) (s : State), vUnit i ≠ 0 → s.iss.snap.grant = 0 →
    exec i s = .next (trap { cause := 0x14, detail := s.iss.word.toNat / 2 ^ 27, va := s.iss.bundle } s)

/-- R119, R121, R125, R126, R128 to R132: each element-wise instruction that does not detach writes elements 0 to n − 1 of vd from
the same elements of its sources, poisoned where a source element is, and ORs the flags of all of them into FLAGS. -/
def Obligations.VectorElementwiseResults : Prop :=
  ∀ (s : State) (d a b c : VReg) (r : Reg) (t : Ty) (rm : Rm) (cond : Cond),
    s.iss.snap.grant ≠ 0 → s.iss.snap.isPresent r = true → 0 < vcount t s.iss.snap →
    let th := s.iss.snap
    let e (v : VReg) (i : Nat) : Nat := (th.vget v).elem t i
    let p (v : VReg) (i : Nat) : Bool := (th.vget v).elemPoison t i
    let wrote (f : Nat → ElemRes) : Out :=
      let m := mapElems t (vcount t th) (th.vget d) f
      .next (writeVec d m.1 m.2 s)
    let one (f : Nat → Nat × FlagBits) : Out := wrote (fun i => ((f (e a i)).1, p a i, (f (e a i)).2))
    let two (f : Nat → Nat → Nat × FlagBits) : Out :=
      wrote (fun i => ((f (e a i) (e b i)).1, p a i || p b i, (f (e a i) (e b i)).2))
    let three (z : VReg) : Out :=
      wrote (fun i => ((ffma t.fty rm (e a i) (e b i) (e z i)).1, p a i || p b i || p z i, (ffma t.fty rm (e a i) (e b i) (e z i)).2))
    exec (.vadd d a b t rm) s = two (vaddE t rm) ∧
    exec (.vsub d a b t rm) s = two (vsubE t rm) ∧
    exec (.vmul d a b t rm) s = two (vmulE t rm) ∧
    exec (.vmin d a b t) s = two (vpickE false t) ∧
    exec (.vmax d a b t) s = two (vpickE true t) ∧
    exec (.vabs d a t) s = one (vabsE t) ∧
    exec (.vneg d a t) s = one (vnegE t) ∧
    exec (.vfma3 d a b t rm) s = three d ∧
    exec (.vfma4 d a b c t rm) s = three c ∧
    exec (.vand d a b t) s = two (fun x y => (x &&& y, 0)) ∧
    exec (.vor d a b t) s = two (fun x y => (x ||| y, 0)) ∧
    exec (.vxor d a b t) s = two (fun x y => (x ^^^ y, 0)) ∧
    exec (.vshl d a b t) s = two (fun x y => (x * 2 ^ (y % t.width) % 2 ^ t.width, 0)) ∧
    exec (.vshr d a b t) s = two (fun x y => (x / 2 ^ (y % t.width), 0)) ∧
    exec (.vshra d a b t) s = two (fun x y => ((toSigned x t.width / 2 ^ (y % t.width) % 2 ^ t.width).toNat, 0)) ∧
    exec (.vcmp d a b t cond) s = two (vcmpE t cond) ∧
    exec (.vsel d a b c t) s = wrote (fun i =>
      if e c i = 0 then (e b i, p c i || p b i, 0) else (e a i, p c i || p a i, 0)) ∧
    exec (.vperm d a b t) s = wrote (fun i =>
      if e b i < vcount t th then (e a (e b i), p b i || p a (e b i), 0) else (0, p b i, 0)) ∧
    exec (.vbcast d r t) s = wrote (fun _ => ((th.reg r).toNat % 2 ^ t.width, th.isPoisoned r, 0))

/-- R119, R121, R25, R26, R125: writing elements 0 to n − 1 writes those elements, leaves every element from n up as it was, and
poisons a lane exactly when an element written into it is poisoned, both lanes of the pair for a 64-bit type; and the element results on integer types are modulo 2^w and
raise no flag.
The model's own choices in it: log entry 48. -/
def Obligations.VectorElements : Prop :=
  (∀ (t : Ty) (n : Nat) (old : VData) (f : Nat → ElemRes), n ≤ t.count 64 → (∀ i, i < n → (f i).1 < 2 ^ t.width) →
    let r := (mapElems t n old f).1
    (∀ i, i < n → r.elem t i = (f i).1) ∧
    (∀ i, n ≤ i → i < t.count 64 → r.elem t i = old.elem t i) ∧
    (t.store ≠ 64 → ∀ l, l < 64 → r.poison.getLsbD l =
      if l * t.perLane < n then (List.range n).any (fun i => i / t.perLane == l && (f i).2.1) else old.poison.getLsbD l) ∧
    (t.store = 64 → ∀ l, l < 64 → r.poison.getLsbD l = if l / 2 < n then (f (l / 2)).2.1 else old.poison.getLsbD l)) ∧
  (∀ (t : Ty) (rm : Rm) (x y : Nat), t.isInt → x < 2 ^ t.width → y < 2 ^ t.width →
    let w : Int := 2 ^ t.width
    let wraps (v : Int) (r : Nat × FlagBits) : Prop := r.1 < 2 ^ t.width ∧ (r.1 : Int) % w = v % w ∧ r.2 = 0
    wraps (x + y) (vaddE t rm x y) ∧
    wraps (x - y) (vsubE t rm x y) ∧
    wraps (x * y) (vmulE t rm x y) ∧
    wraps (-x) (vnegE t x) ∧
    wraps (if t.signed then |t.int x| else x) (vabsE t x) ∧
    vpickE false t x y = (if t.int x ≤ t.int y then x else y, 0) ∧
    vpickE true t x y = (if t.int x ≤ t.int y then y else x, 0))

/-- R120, R126, R127: the long-latency instructions detach the thread until the unit's reply, which brings the elements and the
flags; nothing is written at issue.
The model's own choices in it: log entry 37. -/
def Obligations.LongLatencyVectorIssue : Prop :=
  ∀ (s : State) (d a b : VReg) (t : Ty) (rm : Rm), s.iss.snap.grant ≠ 0 → 0 < vcount t s.iss.snap →
    let th := s.iss.snap
    let waits (f : Nat → ElemRes) : Out :=
      let m := mapElems t (vcount t th) (th.vget d) f
      .next (detach (.unit ⟨d, m.1.lanes, m.1.poison, m.2⟩) .drain s)
    let x (i : Nat) : Nat := (th.vget a).elem t i
    let p (v : VReg) (i : Nat) : Bool := (th.vget v).elemPoison t i
    let one (f : Nat → Nat × FlagBits) : Out := waits (fun i => ((f (x i)).1, p a i, (f (x i)).2))
    exec (.vdiv d a b t rm) s = waits (fun i =>
      let q := fdiv t.fty rm (x i) ((th.vget b).elem t i)
      (q.1, p a i || p b i, q.2)) ∧
    exec (.vsqrt d a t rm) s = one (fsqrt t.fty rm) ∧
    exec (.vrcp d a t rm) s = one (frcp t.fty rm) ∧
    exec (.vrsq d a t rm) s = one (frsq t.fty rm) ∧
    exec (.vexp2 d a t rm) s = one (fexp2 t.fty rm) ∧
    exec (.vlog2 d a t rm) s = one (flog2 t.fty rm) ∧
    exec (.vtanh d a t rm) s = one (ftanh t.fty rm)

/-- R132 to R134, R64, R49, R106: VEXT reads one element; VCVT, VREDADD, VREDMAX and VARGMAX leave every register but vd as it was.
VCVT writes what the conversion of each element gives, with the flags of all of them, and clears the lanes below VL that hold no
result. A reduction puts its result in element 0, poisoned when any element is, the rest of that lane zero. VREDADD gives the sum
modulo 2^w on an integer type, and on a float type the sum in the order of the tree. VREDMAX gives the largest element, VARGMAX
also the least index that holds it, in the lane after; on a float type VREDMAX gives the canonical NaN when any element is a NaN
and +0 rather than −0, VARGMAX takes the first NaN as largest, and both raise NV for a signaling NaN alone. -/
def Obligations.VectorExtractAndReduce : Prop :=
  ∀ (s : State) (d a : VReg) (r : Reg) (t t2 : Ty) (rm : Rm) (idx : BitVec 8), s.iss.snap.grant ≠ 0 →
    0 < vcount t s.iss.snap → s.iss.snap.vl.toNat ≤ 64 →
    let th := s.iss.snap
    let x := th.vget a
    let n := vcount t th
    let vl := th.vl.toNat
    let others (u : State) : Prop := (∀ v, v ≠ d → u.iss.live.vget v = s.iss.live.vget v) ∧
      u.iss.live.regs = s.iss.live.regs ∧ u.iss.live.pred = s.iss.live.pred ∧ s.sameMemory u
    let val (i : Nat) : Val := t.fty.val (x.elem t i)
    let sig (i : Nat) : FlagBits := if (val i).isSig then nvFlag else 0
    let raises (u : State) (f : FlagBits) : Prop := u.iss.live.flags = s.iss.live.flags ||| f
    let nv : FlagBits := if (List.range n).any (fun i => (val i).isSig) then nvFlag else 0
    let first (u : State) (index : Bool) : Prop :=
      let y := u.iss.live.vget d
      let after := if t.store = 64 then 2 else 1
      y.elemPoison t 0 = (List.range n).any (x.elemPoison t) ∧
        (t.store ≠ 64 → (laneAt y.lanes 0).toNat = y.elem t 0) ∧
        (index = true → y.poison.getLsbD after = (List.range n).any (x.elemPoison t)) ∧
        ∀ l, (if index then after < l else after ≤ l) → l < 64 →
          laneAt y.lanes l = laneAt (th.vget d).lanes l ∧ y.poison.getLsbD l = (th.vget d).poison.getLsbD l
    exec (.vext r a t idx) s = .next (
      if idx.toNat < n then writeReg r (t.extend (x.elem t idx.toNat)) (x.elemPoison t idx.toNat) s
      else writeReg r 0 false s) ∧
    (∃ u, exec (.vcvt d a t t2 rm) s = .next u ∧ others u ∧
      let y := u.iss.live.vget d
      let m := min n (vcount t2 th)
      let per := if t.store = 64 then 1 else t.perLane
      let c (i : Nat) := convert t t2 rm (x.elem t2 i)
      raises u (((List.range m).map (fun i => (c i).2)).foldl (fun f g => f ||| g) 0) ∧
        (∀ i, i < m → y.elem t i = (c i).1 % 2 ^ t.width ∧
          y.elemPoison t i = (List.range m).any (fun j => j / per == i / per && x.elemPoison t2 j)) ∧
        ∀ l, (if t.store = 64 then 2 * m ≤ l ∧ l < vl / 2 * 2 else m ≤ l * per ∧ l < vl) →
          laneAt y.lanes l = 0 ∧ y.poison.getLsbD l = false) ∧
    (∃ u, exec (.vredadd d a t rm) s = .next u ∧ others u ∧ first u false ∧
      (t.isInt → raises u 0 ∧ (u.iss.live.vget d).elem t 0 = ((List.range n).map (x.elem t)).sum % 2 ^ t.width) ∧
      (t.isFloat → ∀ v f, pairtree (fun p q =>
          let z := fadd t.fty rm p.1 q.1
          (z.1, p.2 ||| q.2 ||| z.2)) 9 ((List.range n).map (fun i => (x.elem t i, sig i))) = some (v, f) →
        raises u f ∧ (u.iss.live.vget d).elem t 0 = if (t.fty.val v).isNan then t.fty.qnan else v)) ∧
    (∃ u, exec (.vredmax d a t) s = .next u ∧ others u ∧ first u false ∧
      (t.isInt → raises u 0 ∧ ∃ i, i < n ∧ (u.iss.live.vget d).elem t 0 = x.elem t i ∧
        ∀ j, j < n → t.int (x.elem t j) ≤ t.int (x.elem t i)) ∧
      (t.isFloat → raises u nv ∧
        ((∃ i, i < n ∧ (val i).isNan = true) → (u.iss.live.vget d).elem t 0 = t.fty.qnan) ∧
        ((∀ i, i < n → (val i).isNan = false) → ∃ i, i < n ∧ (u.iss.live.vget d).elem t 0 = x.elem t i ∧
          ∀ j, j < n → (val j).rank ≤ (val i).rank ∧ ((val i).isZero → (val j).isZero → (val i).neg → (val j).neg)))) ∧
    (∃ u, exec (.vargmax d a t) s = .next u ∧ others u ∧ first u true ∧
      ∃ i, i < n ∧ laneAt (u.iss.live.vget d).lanes (if t.store = 64 then 2 else 1) = BitVec.ofNat 32 i ∧
        (t.isInt → raises u 0 ∧ (u.iss.live.vget d).elem t 0 = x.elem t i ∧
          ∀ j, j < n → t.int (x.elem t j) ≤ t.int (x.elem t i) ∧ (t.int (x.elem t j) = t.int (x.elem t i) → i ≤ j)) ∧
        (t.isFloat → raises u nv ∧ (u.iss.live.vget d).elem t 0 = (if (val i).isNan then t.fty.qnan else x.elem t i) ∧
          ∀ j, j < n → ((val j).isNan = true → (val i).isNan = true ∧ i ≤ j) ∧
            ((val i).isNan = false → (val j).rank ≤ (val i).rank ∧ ((val j).rank = (val i).rank → i ≤ j))))

/-- R36, R123, R124, R41, R42: VCLAIM gives the largest multiple of 8 that the request and the free lanes allow, in g, GRANT and
VL; VYIELD gives every lane back, and does nothing when there is none; REP opens capture, REPEND closes it and REPGO starts replay, or each is a misuse, which
empties the buffer; NOP of the V slot does nothing.
The model's own choices in it: log entry 74. -/
def Obligations.LanesAndRepetition : Prop :=
  ∀ (s : State) (g : Reg) (imm : BitVec 7) (count : BitVec 13) (sd sa sb : Fin 8),
    let th := s.iss.snap
    let free := s.freeLanes (clusterOf s.iss.core) + th.grant.toNat
    let misuse (o : Out) : Prop := ∃ u, o = .next u ∧ u.iss.stopped = true ∧ u.iss.live.rep.code = [] ∧
      u.iss.live.rep.cap = false ∧ u.iss.live.rep.act = false ∧ u.iss.live.run = .trapped 0x0D false
    (∃ u, exec (.vclaim g imm) s = .next u ∧
      ∃ n : Nat, n % 8 = 0 ∧ n ≤ imm.toNat ∧ n ≤ free ∧ (∀ m, m % 8 = 0 → m ≤ imm.toNat → m ≤ free → m ≤ n) ∧
        u.iss.live.reg g = BitVec.ofNat 64 n ∧ u.iss.live.grant = BitVec.ofNat 7 n ∧ u.iss.live.vl = BitVec.ofNat 7 n ∧
        u.iss.live.want = imm) ∧
    exec .vyield s = .next (
      if s.iss.live.grant = 0 then s else live (fun th => { th with grant := 0, vl := 0, want := 0 }) s) ∧
    exec .nopV s = .next s ∧
    (if th.rep.cap then misuse (exec (.rep count sd sa sb) s)
      else exec (.rep count sd sa sb) s = .next (live (fun th => { th with rep := ⟨count, 0, 0, sd, sa, sb, false, true, []⟩ }) s)) ∧
    (if th.rep.cap then exec .repend s = .next (live (fun th => { th with rep := { th.rep with cap := false } }) s)
      else misuse (exec .repend s)) ∧
    (if th.rep.cap = true ∨ th.rep.code = [] then misuse (exec .repgo s)
      else ∃ u, exec .repgo s = .next u ∧ u.iss.live = { s.iss.live with rep :=
        { s.iss.live.rep with iter := 0, pos := 0, act := decide (s.iss.live.rep.count ≠ 0) } })

/-! ## Memory instructions as they issue (chapter 8) -/

/-- R170 to R182, R184, R185: a form whose address is aligned, mapped and present makes its access: a relaxed load leaves gd
absent and a relaxed store is posted, and the thread goes on; every other form waits for its access, draining first.
The model's own choices in it: log entries 35, 44. -/
def Obligations.MemoryInstructionIssue : Prop :=
  ∀ (s : State) (d a : Reg) (pd : PReg) (full : Bool) (t : Ity) (o : MemOrd) (sc : Scope) (off : Imm 3) (g : PReg) (pa : Nat),
    s.readyClean g [a, d] →
    let th := s.iss.snap
    let va := th.reg a + immOff off * BitVec.ofNat 64 t.size
    let wa := th.reg a + immOff off * 8
    let v := th.reg d
    let waits (f : Form) (va : Word) (size : Nat) (data : Word) (dest : Dest) : Out :=
      .next (detach (.access f va pa size data o sc dest) .drain s)
    (s.reaches .ld va t.size pa →
      (o ≠ .rx → exec (.ld d a t o sc off g) s = waits .ld va t.size 0 (.reg d t)) ∧
      (o = .rx → ∃ u r, exec (.ld d a t o sc off g) s = .next u ∧ u.iss.live.relaxed = some r ∧ r.dest = d ∧ r.ty = t ∧ r.va = va ∧
        r.pa = pa ∧ u.iss.live.isPresent d = false ∧ u.iss.live.pend = s.iss.live.pend ∧ u.iss.stopped = s.iss.stopped)) ∧
    (s.reaches .st va t.size pa →
      (o ≠ .rx → exec (.st d a t o sc off g) s = waits .st va t.size v .none) ∧
      (o = .rx → ∃ u, exec (.st d a t o sc off g) s = .next u ∧ u.iss = s.iss ∧
        ∃ m, u.flight = s.flight ++ [m] ∧ ∃ x : Access, x.form = .st ∧ x.pa = pa ∧ x.size = t.size ∧ x.data = v ∧
          x.posted = true ∧ m.msg = if offDie (dieOf s.iss.core) pa then .toBridge (dieOf s.iss.core) x none else x.msg)) ∧
    (s.reaches .ldw wa 8 pa → exec (.ldw d a t o sc off g) s = waits .ldw wa 8 0 (.reg d .n64)) ∧
    (s.reaches .ldc wa 8 pa → exec (.ldc d a t o sc off g) s = waits .ldc wa 8 0 (.reg d .n64)) ∧
    (s.reaches .stf wa 8 pa → exec (.stf d a t o sc off g) s = waits .stf wa 8 v .none) ∧
    (s.reaches .ste wa 8 pa → exec (.ste d a t o sc off g) s = waits .ste wa 8 v .none) ∧
    (s.reaches (.fest full) wa 8 pa → exec (.fest full a t o sc off g) s = waits (.fest full) wa 8 0 .none) ∧
    (s.reaches .feq wa 8 pa → exec (.feq pd a t o sc off g) s = waits .feq wa 8 0 (.pred pd)) ∧
    (s.reaches .lrw wa 8 pa → exec (.lrw d a t o sc off g) s = waits .lrw wa 8 0 (.reg d .n64)) ∧
    (s.reaches .sch wa 8 pa → exec (.sch d a t o sc off g) s = waits .sch wa 8 v (.status d)) ∧
    (s.reaches .rcan wa 8 pa → exec (.rcan a t o sc off g) s = waits .rcan wa 8 0 .none)

/-- R456, R92: a misaligned address takes the misaligned-access message with the address, and nothing is accessed. -/
def Obligations.MisalignedAccessTraps : Prop :=
  ∀ (s : State) (d a : Reg) (pd : PReg) (full : Bool) (t : Ity) (o : MemOrd) (sc : Scope) (off : Imm 3) (g : PReg),
    s.readyClean g [a, d] → s.iss.snap.relaxed = none →
    let va := s.iss.snap.reg a + immOff off * BitVec.ofNat 64 t.size
    let wa := s.iss.snap.reg a + immOff off * 8
    let trapped (va : Word) : Out := .next (trap { cause := 0x23, va := va } s)
    (va.toNat % t.size ≠ 0 → exec (.ld d a t o sc off g) s = trapped va ∧ exec (.st d a t o sc off g) s = trapped va) ∧
    (wa.toNat % 8 ≠ 0 →
      exec (.ldw d a t o sc off g) s = trapped wa ∧ exec (.ldc d a t o sc off g) s = trapped wa ∧
      exec (.stf d a t o sc off g) s = trapped wa ∧ exec (.ste d a t o sc off g) s = trapped wa ∧
      exec (.lrw d a t o sc off g) s = trapped wa ∧ exec (.sch d a t o sc off g) s = trapped wa ∧
      exec (.fest full a t o sc off g) s = trapped wa ∧ exec (.feq pd a t o sc off g) s = trapped wa ∧
      exec (.rcan a t o sc off g) s = trapped wa)

/-- R135, R136: a vector access whose base and offsets are clean and whose elements' addresses are aligned and reach memory waits
with those elements, each at its own address.
The model's own choices in it: log entry 35. -/
def Obligations.VectorMemoryIssue : Prop :=
  ∀ (s : State) (v x : VReg) (g : Reg) (t : Ty) (imm : BitVec 8) (pas : List Nat),
    let th := s.iss.snap
    let n := vcount t th
    let size := t.store / 8
    let base := th.reg g + imm.signExtend 64 * 16
    let plain := (List.range n).map (fun i => base + BitVec.ofNat 64 (i * size))
    let indexed := (List.range n).map (fun i => base + BitVec.ofInt 64 (toSigned ((th.vget x).elem t i) t.width))
    let elems (store : Bool) (vas : List Word) : List Elem :=
      ((List.range n).zip (vas.zip pas)).map (fun p =>
        ⟨p.1, p.2.1, p.2.2, if store then BitVec.ofNat 64 ((th.vget v).elem t p.1) else 0, false⟩)
    let waits (store : Bool) (vas : List Word) : Out := .next (detach (.vector store v t (elems store vas) []) .drain s)
    th.grant ≠ 0 → 0 < n → th.isPresent g = true → th.isPoisoned g = false →
    (s.reachesAll .load plain size pas → exec (.vld v g t imm) s = waits false plain) ∧
    (s.reachesAll .store plain size pas → (∀ i, i < n → (th.vget v).elemPoison t i = false) →
      exec (.vst v g t imm) s = waits true plain) ∧
    (s.reachesAll .load indexed size pas → (∀ i, i < n → (th.vget x).elemPoison t i = false) →
      exec (.vgather v g x t imm) s = waits false indexed) ∧
    (s.reachesAll .store indexed size pas → (∀ i, i < n → (th.vget x).elemPoison t i = false) →
      (∀ i, i < n → (th.vget v).elemPoison t i = false) → exec (.vscatter v g x t imm) s = waits true indexed)

/-- R187, R188, R190: FENCE waits until its scope has drained and discards what was fetched ahead; PUT waits to send b's value and
poison to a register of the thread a names; ARM makes gd absent and keeps its value. -/
def Obligations.FencePutArm : Prop :=
  ∀ (s : State) (sc : Scope) (a idx b d : Reg) (g : PReg), s.readyClean g [a] → s.iss.snap.isPresent b = true →
    let th := s.iss.snap
    exec (.fence sc g) s = .next (detach (.fence sc) .drain (live (fun th => { th with ahead := [] }) s)) ∧
    ((th.reg a).toNat < 2 ^ 29 → (th.reg a).toNat % 8 ≠ 7 → th.relaxed = none →
      exec (.put a idx b g) s = .next (detach (.put (th.reg a) idx (th.reg b) (th.isPoisoned b)) .drain s)) ∧
    exec (.arm d g) s = .next (live (fun th => { th with present := th.present &&& ~~~BitVec.twoPow 32 d.val }) s)

/-! ## Words at their home banks (chapter 7) -/

/-- R148, R164, R177, R180 to R185: an access whose condition holds at its word takes the whole effect of its form on the word's
bytes, F, X and HOLD, and is answered; every other byte and every other word's state stay as they were. Of KVKICK only the
bits that are not reserved are written (R7, R327). BANK_ACCESS_ARRIVAL completes so for every form. -/
def Obligations.AccessForms : Prop :=
  ∀ (s : State) (id : Nat) (a : Access), s.msg? id = some (.access a) → s.memoryCanonical → s.wayBlocked a.pa = none →
    hasMeta a.pa = true → a.pa % 8 + a.size ≤ 8 →
    (a.form ≠ .ld → a.form ≠ .st → (∀ m f, a.form ≠ .copy m f) → a.size = 8) →
    mget s.wordErrors (wordOfAddr a.pa) = none → s.waitersAt (wordOfAddr a.pa) = [] → s.tableUsed (bankOf (wordOfAddr a.pa)) < 16 →
    let w := wordOfAddr a.pa
    let m := s.wordMeta w
    let mine := decide (m.hold = some a.who)
    let freed : Meta := { m with full := true, hold := none, holdRec := none, holdSeq := 0 }
    let whole := decide (a.size = 8)
    let value := Reply.value (BitVec.ofNat 64 (s.readN a.pa a.size)) m.poison
    let row : Bool × Bool × Meta × Reply :=
      match a.form with
      | .ld => (true, false, m, value)
      | .st => (true, true, { m with poison := if whole then a.poison else m.poison || a.poison }, .done)
      | .ldw => (m.full, false, m, value)
      | .ldc => (m.full, false, { m with full := false }, value)
      | .stf => (!m.full, true, ⟨true, a.poison, none, none, 0⟩, .done)
      | .ste => (m.full, true, { m with poison := a.poison }, .done)
      | .lrw => (m.full, false, { m with
          full := false
          hold := some a.who
          holdRec := none
          holdSeq := (mget s.parkSeqs (bankOf w)).getD 0 }, value)
      | .sch => (true, mine, if mine then { freed with poison := a.poison } else m, .status (if mine then 0 else 1))
      | .rcan => (true, false, if mine then freed else m, .done)
      | .fest f => (true, false, { freed with full := f }, .done)
      | .feq => (true, false, m, .value (if m.full then 1 else 0) false)
      | .copy mode f => (true, true, { m with
          poison := if whole then a.poison else m.poison || a.poison
          full := match mode with
            | .fb => if whole then f else m.full
            | .ff => true
            | .fe => false
            | .fk => m.full
            | .fr => if whole then true else m.full }, .done)
    let stores := row.2.1
    let after := row.2.2.1
    let reply := row.2.2.2
    row.1 = true → m.holdRec = none →
    ∃ u : State, exec (.bankAccessArrival id) s = .next (u.answer a reply) ∧
      u = { s.take id with
        mem := u.mem
        marks := u.marks
        districts := u.districts
        parkSeqs := u.parkSeqs
        sumWrites := u.sumWrites } ∧
      (isKick w = false → ∀ x, Memory.read u.mem x =
        if stores = true ∧ a.pa ≤ x ∧ x < a.pa + a.size then BitVec.ofNat 8 (a.data.toNat / 256 ^ (x - a.pa)) else Memory.read s.mem x) ∧
      (isKick w = true → (∀ x, x < w ∨ w + 8 ≤ x → Memory.read u.mem x = Memory.read s.mem x) ∧
        u.readWord w = if stores then setFld (s.readWord w) (a.pa % 8 * 8) (8 * a.size) a.data.toNat &&& 0x3FFFE0#64 else s.readWord w) ∧
      u.wordMeta w = after ∧ (∀ x, x ≠ w → u.wordMeta x = s.wordMeta x) ∧
      ((∀ d o, regionOf a.pa ≠ .districtCtl d o) → u.districts = s.districts)

/-- R150, R156: an access whose condition does not hold joins the end of its word's waiters, in its bank's table, with the bank's
next arrival number, and is not answered; a woken one pays a unit of its issuer's budget, and with none left is answered with
the wait-budget fault and changes no word: WAIT_BUDGET_EXHAUSTED completes so.
The model's own choices in it: log entry 79. -/
def Obligations.ParkingAndBudgets : Prop :=
  ∀ (s : State) (id : Nat) (a : Access), s.msg? id = some (.access a) → s.wayBlocked a.pa = none → hasMeta a.pa = true →
    a.form = .ldw ∨ a.form = .ldc ∨ a.form = .ste ∨ a.form = .lrw ∨ a.form = .stf →
    holds a.form (s.wordMeta (wordOfAddr a.pa)) = false → mget s.wordErrors (wordOfAddr a.pa) = none →
    let w := wordOfAddr a.pa
    let s0 := s.take id
    let number := (mget s.parkSeqs (bankOf w)).getD 0
    (a.repark = true → s.budgetOf a.who = 0 →
      exec (.waitBudgetExhausted id) s = .next (s0.refuse a 0x28 0 a.va (BitVec.ofNat 64 a.pa) 0)) ∧
    (a.repark = false ∨ s.budgetOf a.who ≠ 0 → s.roomAt w false = .table →
      ∃ u, exec (.bankAccessArrival id) s = .next u ∧ u.waitersAt w = s.waitersAt w ++ [⟨a, number, none⟩] ∧
        mget u.parkSeqs (bankOf w) = some (number + 1) ∧
        (∀ x, x ≠ w → u.waitersAt x = s.waitersAt x) ∧ u.mem = s.mem ∧ u.marks = s.marks ∧ u.flight = s0.flight ∧
        (∀ n th, a.who = .thread n → s.named n = some th →
          ∃ th', u.named n = some th' ∧ th'.waitbud = (if a.repark then th.waitbud - 1 else th.waitbud) ∧ th'.regs = th.regs))

/-- R151, R153, R155: the waiters of a word in its bank's table are served in arrival order as far as the word's state lets them:
all readers of a full word are answered together, and a consumer or an LRW behind them takes the value alone, those behind it
staying parked, an LRW leaving its HOLD with the bank's next arrival number; of an empty word the first STF fills it, and the
readers behind that are answered with its value while a further STF stays parked. -/
def Obligations.WaitersServedInOrder : Prop :=
  ∀ (s : State) (w : Nat) (l : List Waiter), hasMeta w = true → w % 8 = 0 →
    (s.wordMeta w).holdRec = none → (s.wordMeta w).hold = none →
    (∀ x ∈ l, x.spilled = none ∧ x.acc.pa = w ∧ x.acc.size = 8) →
    let m := s.wordMeta w
    let value (x : Waiter) (u : State) : State := u.answer x.acc (.value (BitVec.ofNat 64 (s.readN w 8)) m.poison)
    (m.full = true → (l.map (fun x => x.seq)).Nodup → s.waitersAt w = l → (∀ x ∈ l, x.acc.form = .ldw) →
      (s.feserve w).waitersAt w = [] ∧ (s.feserve w).wordMeta w = m ∧ (s.feserve w).mem = s.mem ∧
        (s.feserve w).flight = (l.foldl (fun u x => value x u) s).flight) ∧
    (∀ (rs : List Waiter) (c : Waiter), s.waitersAt w = rs ++ c :: l → ((rs ++ c :: l).map (fun x => x.seq)).Nodup →
      (∀ x ∈ rs, x.acc.form = .ldw ∧ x.spilled = none ∧ x.acc.pa = w ∧ x.acc.size = 8) →
      c.spilled = none → c.acc.pa = w → c.acc.size = 8 →
      (m.full = true → c.acc.form = .ldc ∨ c.acc.form = .lrw → s.tableUsed (bankOf w) ≤ 16 →
        (∀ x ∈ l, x.acc.form = .ldw ∨ x.acc.form = .ldc ∨ x.acc.form = .lrw ∨ x.acc.form = .ste) →
        (s.feserve w).waitersAt w = l ∧ (s.feserve w).mem = s.mem ∧
          (s.feserve w).flight = (value c (rs.foldl (fun u x => value x u) s)).flight ∧
          (s.feserve w).wordMeta w = (if c.acc.form = .ldc then { m with full := false } else
            ⟨false, m.poison, some c.acc.who, none, (mget s.parkSeqs (bankOf w)).getD 0⟩)) ∧
      (m.full = false → c.acc.form = .stf → rs = [] → isKick w = false → s.memoryCanonical →
        let filled : State := { s with mem := Memory.writeN s.mem w 8 c.acc.data.toNat }
        let given (x : Waiter) (u : State) : State := u.answer x.acc (.value c.acc.data c.acc.poison)
        (s.feserve w).mem = filled.mem ∧ (s.feserve w).wordMeta w = ⟨true, c.acc.poison, none, none, 0⟩ ∧
        ((∀ x ∈ l, x.acc.form = .stf) →
          (s.feserve w).waitersAt w = l ∧ (s.feserve w).flight = (filled.answer c.acc .done).flight) ∧
        ((∀ x ∈ l, x.acc.form = .ldw) → (s.feserve w).waitersAt w = [] ∧
          (s.feserve w).flight = (l.foldl (fun u x => given x u) (filled.answer c.acc .done)).flight)))

/-! ## Exceptions, replies and what reaches a core (chapters 2, 7, 20, 21) -/

/-- R92, R395, R398: taking an exception at issue. The bundle takes no effect, the program counter stays at it, the thread is
TRAPPED with the cause, and one message record, whose words name the cause, the thread, the bundle, the launch and the cycle,
goes to the service core of the thread's district.
The model's own choices in it: log entry 2. -/
def Obligations.TakingAnException : Prop :=
  ∀ (s : State) (x : Trap), x.cause < 256 → x.detail < 2 ^ 16 → s.iss.core < 16384 → s.iss.slot < 8 →
    (x.cause = 0x10 → s.autoRegion (clusterOf s.iss.core) = none) →
    let t := trap x s
    let th := s.iss.snap
    t.iss.stopped = true ∧ t.iss.live = { th with run := .trapped x.cause false, ahead := [] } ∧ t.iss.pc = s.iss.pc ∧
    t.threads = s.threads ∧ t.mem = s.mem ∧ t.marks = s.marks ∧ t.cores = s.cores ∧
    ∃ f r, t.flight = s.flight ++ [f] ∧ s.cycle < f.due ∧ f.msg = .record (svcBase + s.iss.core / 128) r ∧
      fld r[0] 63 60 = 1 ∧ fld r[0] 59 52 = x.cause ∧ fld r[0] 51 36 = x.detail ∧ fld r[0] 35 34 = 0 ∧ fld r[0] 30 29 = 0 ∧
      fld r[0] 28 0 = th.gen.toNat * 2 ^ 17 + s.iss.core * 8 + s.iss.slot ∧ r[1] = s.iss.pc ∧ r[2] = x.va ∧ r[3] = x.vb ∧
      r[4] = th.launchid ∧ r[5] = BitVec.ofNat 64 s.cycle ∧ r[6] = x.vc ∧ r[7] = 0

/-- R421, R417 to R420, R422, R429 to R431: returning from an exception, and the other requests to a thread as they arrive. A TRESUME
that reaches a thread TRAPPED at its bundle answers 0 and makes it issue the bundle again, go on past it, the destination of a
load in it becoming present, go on at the target, or stop at it; a thread that is not TRAPPED is left alone with status 2, and a
name of no live thread gives 1. TSTATE answers with the thread's state; TSET stops it, lets it run, or sets the pc of a STOPPED
one; TKILL frees its slot. PREEMPT keeps its target from issuing until its posted stores have performed; PREEMPT and SAVECTX
store the 1,152 words of its context, of which PREEMPT's target becomes HELD, and refuse a target in another state with status 2;
RESTCTX puts back what such an area holds.
The model's own choices in it: log entries 42, 45, 57. -/
def Obligations.ReturnFromAnException : Prop :=
  (∀ (s : State) (id cause slot core : Nat) (gen : BitVec 12) (sender : TName) (op target pc : Word) (th : Thread),
    sysName target = some (.thread ⟨core, slot, gen⟩) →
    let s0 := s.take id
    let gives (v : Word) (u : State) : State := u.send (path 8 sender.core sender.slot) (.reply sender (.value v false))
    let answered (v : Nat) (u : State) : State := gives (BitVec.ofNat 64 v) u
    let asks (o : SysOp) : Prop := s.msg? id = some (.sys sender o target false)
    let becomes (x : Thread) : Prop := exec (.systemRequestArrival id) s = .next (answered 0 (s0.setThread (tid core slot) x))
    let refused : Prop := exec (.systemRequestArrival id) s = .next (answered 2 s0)
    let area (stopped : Bool) : Nat → Word := ctxWord core slot th stopped
    let launch := ((s.named sender).map (fun t => t.launchid)).getD 0
    (asks (.tresume (fld op 1 0) pc) →
      (s.named ⟨core, slot, gen⟩ = some th → th.run = .trapped cause false → th.pend = [] → th.relaxed = none → th.stopq = false →
        becomes (match fld op 1 0 with
          | 0 => { th with run := .run }
          | 1 => { th with
              run := .run
              pc := th.pc + 8
              prepaid := false
              present := match th.skipDest with
                | some d => th.present ||| BitVec.twoPow 32 d.val
                | none => th.present }
          | 2 => { th with run := .run, pc := pc, prepaid := false }
          | _ => { th with run := .stopped })) ∧
      (s.named ⟨core, slot, gen⟩ = some th → th.run = .run → refused) ∧
      (s.named ⟨core, slot, gen⟩ = none →
        ∃ u, exec (.systemRequestArrival id) s = .next (answered 1 u) ∧ u.threads = s.threads ∧ u.mem = s.mem)) ∧
    (∀ b, asks (.tstate b) →
      (s.named ⟨core, slot, gen⟩ = none → exec (.systemRequestArrival id) s = .next (gives (if b = 0 then place 5 60 else 0) s0)) ∧
      (s.named ⟨core, slot, gen⟩ = some th → (∀ w o, th.run = .detached w o → w < 16) → (∀ c x, th.run = .trapped c x → c < 256) →
        ∃ v, exec (.systemRequestArrival id) s = .next (gives v s0) ∧ (b = 1 → v = th.pc) ∧ (b = 3 → v = th.launchid) ∧
          (b = 2 → ∀ w o, th.run = .detached w o → v = o) ∧
          (b = 0 → bit v 55 = th.priv ∧ bit v 54 = th.stopq ∧ fld v 53 47 = th.grant.toNat ∧ fld v 63 60 = (match th.run with
            | .run => if th.pend = [] then 0 else 1
            | .detached _ _ => 1
            | .trapped _ _ => 2
            | .stopped => 3
            | .held => 4) ∧ ∀ c x, th.run = .trapped c x → fld v 46 39 = c))) ∧
    (s.named ⟨core, slot, gen⟩ = some th →
      (asks (.tset 1 pc) → th.run = .run → becomes (if th.pend = [] then { th with run := .stopped } else { th with stopq := true })) ∧
      (asks (.tset 2 pc) → th.run = .stopped → th.pend = [] → th.relaxed = none → becomes { th with run := .run, stopq := false }) ∧
      (asks (.tset 3 pc) → th.run = .stopped → th.pend = [] → th.relaxed = none → becomes { th with pc := pc, prepaid := false }) ∧
      (asks (.tset 3 pc) → th.run ≠ .stopped → refused) ∧
      (asks (.tkill false) → ∃ u, exec (.systemRequestArrival id) s = .next (answered 0 u) ∧ u.thread (tid core slot) = none) ∧
      (∀ a, asks (.preempt a) ∨ asks (.savectx a) → (∀ p ∈ s.waiters, ∀ x ∈ p.2, x.acc.who ≠ .thread ⟨core, slot, gen⟩) →
        th.pend = [] → th.relaxed = none → th.exiting = false → th.hold = false →
        (asks (.preempt a) → th.run = .run → s.inFlightStores ⟨core, slot, gen⟩ .system = true →
          exec (.systemRequestArrival id) s = .next (s.setThread (tid core slot) { th with hold := true })) ∧
        (asks (.preempt a) → th.run = .stopped ∨ th.run = .held ∨ th.run = .trapped cause false →
          exec (.systemRequestArrival id) s = .next (answered 2 (s0.setThread (tid core slot) th))) ∧
        (asks (.savectx a) → th.run ≠ .stopped →
          exec (.systemRequestArrival id) s = .next (answered 2 (s0.setThread (tid core slot) th))) ∧
        (s.inFlightStores ⟨core, slot, gen⟩ .system = false →
          (asks (.preempt a) → th.run = .run → ∀ t, s0.storeCtx sender launch a (area th.stopq) 1152 = (none, t) →
            ∃ u, exec (.systemRequestArrival id) s = .next (answered 0 u) ∧ u.mem = t.mem ∧ u.flight = t.flight ∧
              u.thread (tid core slot) = some th.heldFrom) ∧
          (asks (.savectx a) → th.run = .stopped → ∀ r t, s0.storeCtx sender launch a (area true) 1152 = (r, t) →
            exec (.systemRequestArrival id) s = .next (answered ((r.map (fun c => 3 + c * 256)).getD 0) t)))))) ∧
  (∀ (s t : State) (id slot core : Nat) (sender : TName) (a : Word) (th old : Thread) (stopped : Bool),
    s.msg? id = some (.sys sender (.restctx a) 0 false) → th.pend = [] → th.relaxed = none → th.pc.toNat % 8 = 0 →
    th.waitbud.toNat ≤ 0x100000 →
      let w := (List.range 1152).map (fun i => (ctxWord core slot th stopped i, false))
      s.loadCtx sender a 1152 = (some (.ok w), t) → t.heldNamed (ctxWord core slot th stopped 0) = some (core, slot, old) →
      th.grant.toNat ≤ t.freeLanes (clusterOf core) →
      let x := restoredThread core old w
      exec (.systemRequestArrival id) s = .next (((t.take id).restore core slot old w).send (path 8 sender.core sender.slot)
          (.reply sender (.value 0 false))) ∧
        x.regs = th.regs ∧ x.present = th.present ∧ x.poison = th.poison ∧ x.pred = th.predWord ∧ x.pc = th.pc ∧
        x.flags = th.flags ∧ x.vl = th.vl ∧ x.grant = th.grant ∧ x.want = th.want ∧ x.waitbud = th.waitbud ∧ x.chkid = th.chkid ∧
        x.msgbuf = th.msgbuf ∧ x.sig = th.sig ∧ x.run = (if stopped then .stopped else .run) ∧ x.priv = (isSvc core || th.priv))

/-- R19, R177, R178, R182, R184: a reply ends the oldest instruction its thread waits on, its value extended to the
destination's type, its poison and presence with it; the reply to a relaxed load makes its destination present. -/
def Obligations.RepliesReachTheirThreads : Prop :=
  ∀ (s : State) (id : Nat) (n : TName) (th : Thread) (p : Pending) (rest : List Pending) (f : Form) (va v : Word) (pa size : Nat)
      (data : Word) (o : MemOrd) (sc : Scope) (dest : Dest) (x : Bool) (r : Relaxed),
    s.named n = some th → th.exiting = false → th.stopq = false → th.rep.act = false → th.run = .run →
    (s.msg? id = some (.reply n (.value v x)) → th.pend = p :: rest → p.op = .access f va pa size data o sc dest →
      exec (.replyArrival id) s = .next ((s.take id).setThread (tid n.core n.slot)
        (let th := { th with pend := rest, woke := s.cycle + 1 }
        match dest with
        | .none => th
        | .reg d t => th.setReg d (t.ty.extend v.toNat) x
        | .pred q => th.setPred q (v ≠ 0)
        | .status d => th.setReg d v false))) ∧
    (s.msg? id = some (.relaxedReply n (.value v x)) → th.relaxed = some r →
      exec (.replyArrival id) s = .next ((s.take id).setThread (tid n.core n.slot)
        { th.setReg r.dest (r.ty.ty.extend v.toNat) x with relaxed := none }))

/-- R39, R40, R188, R189, R260, R428: at a multiple of 1,024 cycles a core takes a REFILL set by ENBUD, its balance becomes REFILL,
and with no slot starved nothing else changes; else the starved slots are paid in order from NEXTPP upward modulo 7, until one's
charge exceeds what is left: those paid lose their STARVED bits and their threads are pre-paid, the others keep theirs, and
NEXTPP names the slot where it stopped, or the one after the last paid. A PUT writes the value and its poison to the register of the live thread it names,
which becomes present, and answers its sender; one that names no live thread writes nothing and leaves a notice for the sender's
core. -/
def Obligations.PutsAndRefills : Prop :=
  (∀ (s : State) (core : Nat), core < 16384 + 128 → s.cycle % 1024 = 0 → (s.core core).starved = 0 →
    let k := s.core core
    let refill := k.newRefill.getD k.refill
    ∃ t, exec (.energyRefill core) s = .next t ∧
      t.core core = { k with refill := refill, newRefill := none, balance := refill } ∧
      (∀ c, c ≠ core → t.core c = s.core c) ∧ t.threads = s.threads ∧ t.mem = s.mem) ∧
  (∀ (s : State) (core : Nat) (paid rest : List Nat), core < 16384 + 128 → s.cycle % 1024 = 0 →
    let k := s.core core
    let refill := k.newRefill.getD k.refill
    let charge (i : Nat) : Nat := (mget k.charges i).getD 0
    let spent := (paid.map charge).sum
    ((List.range 7).map (fun i => (k.nextpp.val + i) % 7)).filter (fun i => k.starved.getLsbD i) = paid ++ rest →
    spent ≤ refill.toNat → (∀ i, rest.head? = some i → refill.toNat < spent + charge i) →
    ∃ t, exec (.energyRefill core) s = .next t ∧
      (t.core core).refill = refill ∧ (t.core core).newRefill = none ∧ (t.core core).balance.toNat = refill.toNat - spent ∧
      (∀ i, i < 7 → (t.core core).starved.getLsbD i = (k.starved.getLsbD i && !paid.contains i)) ∧
      (t.core core).nextpp.val = (match rest.head?, paid.getLast? with
        | some i, _ => i
        | none, some i => (i + 1) % 7
        | none, none => k.nextpp.val) ∧
      (∀ i ∈ paid, ∀ th, s.thread (tid core i) = some th → t.thread (tid core i) = some { th with prepaid := true }) ∧
      (∀ n, (∀ i ∈ paid, n ≠ tid core i) → t.thread n = s.thread n) ∧ t.mem = s.mem) ∧
  (∀ (s : State) (id : Nat) (sender : TName) (target v : Word) (idx : Reg) (x : Bool),
    s.msg? id = some (.put sender target idx v x) → s.isFenced (clusterOf (fld target 16 3)) = false →
    let n : TName := ⟨fld target 16 3, fld target 2 0, BitVec.ofNat 12 (fld target 28 17)⟩
    let answered (u : State) : State := u.send (path 4 (tid n.core n.slot) sender.core) (.reply sender .done)
    (∀ th, s.named n = some th → th.run ≠ .held →
      exec (.putArrival id) s = .next (answered ((s.take id).setThread (tid n.core n.slot) (th.setReg idx v x)))) ∧
    (s.named n = none →
      ∃ f r, exec (.putArrival id) s = .next (answered { s.take id with flight := (s.take id).flight ++ [f], nextId := s.nextId + 1 }) ∧
        f.msg = .record sender.core r ∧ fld r[0] 63 60 = 3 ∧ fld r[0] 51 36 = 0))

/-- R154, R66, R376, R456: stores to registers and to host memory. VIGCTL takes a supervisor's store while its area holds no record
and traps a user's; a 1 in PEAK sets it to USED; a fence refuses either with cause 0x29; a store to host memory performs at its completion; a store to SEGFMTn that
keeps R65's limits waits, and takes effect when no command in flight names the segment.
The model's own choices in it: log entry 76. -/
def Obligations.RegisterStores : Prop :=
  ∀ (s : State) (id : Nat) (a : Access) (d c off : Nat),
    let s0 := s.take id
    let written (old : Word) : Word := setFld old (a.pa % 8 * 8) (8 * a.size) a.data.toNat
    (regionOf a.pa = .districtCtl d off → s.addrFenced a.pa = true →
      let refused : Out := .next (s0.refuse a 0x29 0 a.va (BitVec.ofNat 64 a.pa) 0)
      (s.msg? id = some (.vigctl a) → exec (.vigctlWrite id) s = refused) ∧
      (s.msg? id = some (.vigstat a) → exec (.vigstatPeakWrite id) s = refused)) ∧
    (s.msg? id = some (.vigctl a) → regionOf a.pa = .districtCtl d off → s.addrFenced a.pa = false →
      (a.sup = true → exec (.vigctlWrite id) s = .next ((s0.setDistrict d
        (if (s.district d).records = [] then { s.district d with vigctl := written (s.district d).vigctl } else s.district d)).answer a .done)) ∧
      (a.sup = false → exec (.vigctlWrite id) s = .next (s0.refuse a 0x12 0 a.va 0 0))) ∧
    (s.msg? id = some (.vigstat a) → regionOf a.pa = .districtCtl d off → s.addrFenced a.pa = false →
      exec (.vigstatPeakWrite id) s = .next ((s0.setDistrict d
        (if fld (written 0) 47 24 = 0 then s.district d
          else { s.district d with peak := BitVec.ofNat 24 (s.district d).records.length })).answer a .done)) ∧
    (s.msg? id = some (.hostStore a) → regionOf (wordOfAddr a.pa) = .host →
      exec (.hostStoreCompletion id) s = .next ((s0.writeN a.pa a.size a.data.toNat).answer a .done)) ∧
    (s.msg? id = some (.segWrite a) → regionOf a.pa = .clusterCtl c off → regionOf (wordOfAddr a.pa) = .clusterCtl c (off / 8 * 8) →
      off < 0x80 → s.isFenced c = false →
      let v := written ((s.cluster c).segfmt.toList.getD (off / 8) 0)
      fld v 15 12 ≤ 9 → fld v 11 9 ≤ 4 → (bit v 8 = true → fld v 15 12 = 1 ∨ fld v 15 12 = 2 ∨ fld v 15 12 = 3) →
      exec (.segfmtWrite id) s = .next (s0.setCluster c { s.cluster c with segWait := (s.cluster c).segWait ++ [⟨off / 8, a⟩] })) ∧
    (∀ n (hn : n < 16) x rest, c < 2048 → (s.cluster c).segWait = x :: rest → x.seg = n → s.segBusy c n = false →
      wordOfAddr x.acc.pa = clusterCtlBase c + 8 * n → regionOf (clusterCtlBase c + 8 * n) = .clusterCtl c (8 * n) →
      let v := setFld ((s.cluster c).segfmt[n]) (x.acc.pa % 8 * 8) (8 * x.acc.size) x.acc.data.toNat
      exec (.segfmtTakesEffect c n) s = .next ((s.setCluster c { s.cluster c with
        segWait := rest, segfmt := (s.cluster c).segfmt.set n (v &&& 0x0000FFFF0000FF00#64) }).answer x.acc .done))

/-- R161, R394, R456: a walk that ends at a leaf fills both TLBs and its thread issues its bundle again, and one that ends in a
fault traps the thread; a record that arrives joins its mailbox, and a full mailbox drops and counts a notice and keeps any
other record waiting; a refused posted store is reported. -/
def Obligations.WalksRecordsAndRefusals : Prop :=
  ∀ (s : State) (id core k : Nat) (w : Walk) (th : Thread) (r : Record) (n : TName) (launch va : Word) (cause reason pa : Nat) (pc : Word),
    s.wordErrors = [] →
    let dropped := s.modCore core (fun q => { q with walks := q.walks.filter (fun x => x.id != id) })
    ((s.core core).walks.find? (fun x => x.id == id) = some w → dropped.named ⟨core, w.slot, w.gen⟩ = some th →
      (∃ o, th.run = .detached 1 o) → th.stopq = false →
      (∀ l, dropped.walk th.space w.va.toNat = .ok l → exec (.pageWalkComplete core id) s =
        .next ((dropped.fillTlbs core w.slot th.space l).setThread (tid core w.slot) { th with run := .run })) ∧
      (∀ f, dropped.walk th.space w.va.toNat = .error f → ∃ u, exec (.pageWalkComplete core id) s = .next u ∧
        u.thread (tid core w.slot) = some { th with run := .trapped f.cause false, ahead := [] } ∧ u.mem = s.mem)) ∧
    (s.msg? id = some (.record k r) →
      ((s.core k).mailbox.length < 32 → (s.core k).mbxq = [] → exec (.mailboxRecordArrival id) s =
        .next ((s.take id).setCore k { s.core k with mailbox := (s.core k).mailbox ++ [r] })) ∧
      (32 ≤ (s.core k).mailbox.length → fld r[0] 63 60 = 3 → exec (.mailboxRecordArrival id) s =
        .next ((s.take id).setCore k { s.core k with lost := BitVec.ofNat 16 (min 0xFFFF ((s.core k).lost.toNat + 1)) })) ∧
      (32 ≤ (s.core k).mailbox.length → fld r[0] 63 60 ≠ 3 → exec (.mailboxRecordArrival id) s = .next s)) ∧
    (s.msg? id = some (.refusedStore n launch pc cause reason va pa) → s.launchOf launch = none →
      s.chandler.pastSteps.any (fun p => p.1 == launch) = false →
      ∃ u e, exec (.postedStoreRefused id) s = .next u ∧ u.log = mset s.log (s.logSeq % 4096) e ∧ u.logSeq = s.logSeq + 1 ∧
        (cause < 256 → fld e[0] 59 52 = cause) ∧ e[3] = va ∧ u.mem = s.mem)

/-! ## Copies, tags and the matrix unit (chapters 8 and 10) -/

/-- R191, R199, R200: a copy instruction waits, after draining, to send its kick with the registers and control registers read at
issue; the tag waits go on at once when TAGS meets the mask and otherwise wait, TFIRST giving the lowest tag set, or 64 for a
mask of 0; TCLR clears the masked bits.
The model's own choices in it: log entry 51. -/
def Obligations.CopiesAndTagsIssue : Prop :=
  ∀ (s : State) (m : CopyMode) (d a b : Reg) (tag : Fin 64) (g : PReg), s.readyClean g [d, a, b] →
    let th := s.iss.snap
    let tags := (s.core s.iss.core).tags
    let mask := th.reg a
    let cmd (k : CopyKind) : CopyCmd := {
      kind := k, spa := 0, dpa := 0, mode := m, dest := th.reg d, src := th.reg a, count := th.reg b, tag := tag, cpmbx := th.cpmbx,
      dpat := (s.core s.iss.core).dpat, chkid := th.chkid, space := th.space, launch := th.launchid,
      name := ⟨s.iss.core, s.iss.slot, th.gen⟩, sup := th.priv, word := BitVec.ofNat 64 s.iss.word.toNat, pc := s.iss.pc }
    let waits (o : Op) (ph : Phase) : Out := .next (detach o ph s)
    (th.relaxed = none →
      exec (.cpy m d a b tag g) s = waits (.copy (cmd .cpy)) .drain ∧
      exec (.cpys m d a b tag g) s = waits (.copy (cmd .cpys)) .drain ∧
      exec (.cpyd m d a b tag g) s = waits (.copy (cmd .cpyd)) .drain) ∧
    exec (.twall a g) s = (if tags &&& mask = mask then .next s else waits (.tags true mask none) .waiting) ∧
    exec (.twany a g) s = (if mask = 0 ∨ tags &&& mask ≠ 0 then .next s else waits (.tags false mask none) .waiting) ∧
    (if mask = 0 then exec (.tfirst d a g) s = .next (writeReg d 64 false s)
      else if tags &&& mask = 0 then exec (.tfirst d a g) s = waits (.tags false mask (some d)) .waiting
      else ∃ n, n < 64 ∧ exec (.tfirst d a g) s = .next (writeReg d (BitVec.ofNat 64 n) false s) ∧
        (tags &&& mask).getLsbD n = true ∧ ∀ i, i < n → (tags &&& mask).getLsbD i = false) ∧
    exec (.tclr a g) s = .next (s.setCore s.iss.core { s.core s.iss.core with tags := tags &&& ~~~mask })

/-- R191, R193, R198, R69: the engine accepts the oldest kick that reaches it while a place is free, its ends translated and
within their limits; starts its oldest command; completes one by setting its tag and raising CDONE; and takes a scaled chunk
whose sequence numbers agree with SEGFMT's NEXTSEQ, which rises by one, a chunk out of sequence writing nothing.
COPY_ACCEPT, COPY_START, COPY_COMPLETE and SCALED_CHUNK_ARRIVAL complete so.
The model's own choices in it: log entries 39, 46, 82. -/
def Obligations.CopyEngineSteps : Prop :=
  ∀ (s : State) (id cl : Nat) (c : CopyCmd) (r : CopyRun) (q : List CopyCmd) (spa dpa pa dn off : Nat) (pseq : BitVec 16), cl < 2048 →
    let e := (s.cluster cl).copy
    let ends : CopyCmd := { c with spa := spa, dpa := dpa }
    (s.msg? id = some (.copyKick c) → clusterOf c.name.core = cl →
      s.firstArrived (fun m => match m with
        | .copyKick x => clusterOf x.name.core == cl
        | _ => false) = some id →
      e.marked = false → e.queue.length + b2n e.run.isSome < 16 → s.inFlightStores c.name .system = false →
      (if c.srcLen = 0 then spa = 0 else s.translateEngine c.name.core c.space c.sup (if c.mode = .fr then .store else .load) c.src = (.ok spa, s)) →
      (if c.kind = .cpyd ∨ c.srcLen = 0 then dpa = 0 else s.translateEngine c.name.core c.space c.sup .store c.dest = (.ok dpa, s)) →
      s.copyRefused ends = none → (∀ p ∈ s.copySegs ends, ∀ x ∈ (s.cluster p.1).segWait, x.seg ≠ p.2) →
      exec (.copyAccept id) s = .next (((s.take id).setCluster cl { s.cluster cl with
        copy := { e with queue := e.queue ++ [ends] } }).accepted c.name)) ∧
    (e.run = none → e.queue = c :: q →
      ∃ t run, exec (.copyStart cl) s = .next t ∧ (t.cluster cl).copy = { e with queue := q, run := some run } ∧
        run.cmd = c ∧ run.done = 0 ∧ t.mem = s.mem ∧ t.marks = s.marks) ∧
    (e.run = some r → r.moved = true → r.held = none → r.parked = none → s.postedBy (.engine cl) (fun _ => true) = false →
      bit r.cmd.cpmbx 0 = false →
      ∃ t, exec (.copyComplete cl) s = .next t ∧ (t.cluster cl).copy = { e with run := none, cdone := e.cdone + 1 } ∧ t.mem = s.mem ∧
        (r.tagged = false → (t.core r.cmd.name.core).tags.getLsbD r.cmd.tag.val = true)) ∧
    (e.run = some r → r.cmd.kind = .cpys → r.held = none → r.parked = none → r.moved = false → r.done / 4096 < r.cmd.chunks →
      s.copyAddress r.cmd .store (r.cmd.dest + BitVec.ofNat 64 (r.done / 4096 * 4096)) r.cmd.dest r.cmd.dpa = (.ok pa, s) →
      segOf pa = some (cl, dn, off) → dn < 16 →
      (pseq.toNat ≠ fld (s.segWord cl dn) 47 32 → ∃ t, exec (.scaledChunkArrival cl pseq) s = .next t ∧ t.mem = s.mem ∧
        t.marks = s.marks ∧ (t.cluster cl).copy.run.map (fun x => x.held.isSome) = some true) ∧
      (off % 4096 = 0 → pseq.toNat = fld (s.segWord cl dn) 47 32 → (fld r.cmd.count 47 32 + r.done / 4096) % 2 ^ 16 = pseq.toNat →
        ∀ s1 r1, fetchBytes cl (r.cmd.src.toNat + r.done / 4096 * (if r.cmd.fromSeg then 4096 else 4224))
            (if r.cmd.fromSeg then 4096 else 4224) (none, s, r) = (none, s1, r1) →
          ∃ t x, exec (.scaledChunkArrival cl pseq) s = .next t ∧ (t.cluster cl).copy.run = some x ∧ x.done = r1.done + 4096 ∧
            fld (t.segWord cl dn) 47 32 = (pseq.toNat + 1) % 2 ^ 16))

/-- R164, R194, R212: a word of a copy without conversion, aligned at both ends, moves as one access: COPY_START reads it once and
posts a store of its bytes, its poison and, by the copy's mode, its F to the destination; when such a store reaches its bank,
BANK_ACCESS_ARRIVAL gives the destination the source's bytes and poison, its F by the mode, and no other byte or word changes.
The model's own choices in it: log entry 39. -/
def Obligations.CopyMovesWords : Prop :=
  (∀ (s : State) (cl p x : Nat) (r : CopyRun), cl < 2048 → (s.cluster cl).copy.run = some r → r.cmd.kind = .cpy →
    s.convOf r.cmd = none → r.held = none → r.parked = none → r.moved = false → r.srcw = [] → r.done + 8 ≤ r.cmd.count.toNat →
    (r.cmd.src.toNat + r.done) % 8 = 0 → (r.cmd.dest.toNat + r.done) % 8 = 0 → r.cmd.src.toNat + r.done < 2 ^ 64 →
    s.copyAddress r.cmd (if r.cmd.mode = .fr then .store else .load) (BitVec.ofNat 64 (r.cmd.src.toNat + r.done)) r.cmd.src r.cmd.spa
      = (.ok p, s) →
    (∀ flight openReads threads nextId,
      let t : State := { s with
        flight := flight
        openReads := openReads
        threads := threads
        nextId := nextId }
      t.copyAddress r.cmd .store (r.cmd.dest + BitVec.ofNat 64 r.done) r.cmd.dest r.cmd.dpa = (.ok x, t)) →
    hasMeta p = true → p % 8 = 0 → s.wordErrors = [] → (r.cmd.mode = .fr → (s.wordMeta p).full = true) →
    ∃ u run f a, exec (.copyStart cl) s = .next u ∧ u.mem = s.mem ∧ u.marks = s.marks ∧ f ∈ u.flight ∧
      f.msg = (if offDie (cl / 256) x then .toBridge (cl / 256) a none else a.msg) ∧
      a.form = .copy r.cmd.mode (s.wordMeta p).full ∧ a.pa = x ∧ a.size = 8 ∧ a.data = s.readWord p ∧
      a.poison = (s.wordMeta p).poison ∧ a.posted = true ∧ a.who = .engine cl ∧
      (u.cluster cl).copy.run = some run ∧ run.done = r.done + 8 ∧ run.cmd = r.cmd) ∧
  (∀ (s : State) (id : Nat) (a : Access) (mode : CopyMode) (full : Bool), s.msg? id = some (.access a) → s.wayBlocked a.pa = none →
    a.form = .copy mode full → a.size = 8 → a.pa % 8 = 0 → hasMeta a.pa = true → isKick a.pa = false → a.posted = true →
    mget s.wordErrors a.pa = none → s.waitersAt a.pa = [] →
    ∃ u, exec (.bankAccessArrival id) s = .next u ∧ u.mem = Memory.writeN s.mem a.pa 8 a.data.toNat ∧
      u.wordMeta a.pa = { s.wordMeta a.pa with
        poison := a.poison
        full := match mode with
          | .fb => full
          | .ff | .fr => true
          | .fe => false
          | .fk => (s.wordMeta a.pa).full } ∧
      ∀ y, y ≠ a.pa → u.wordMeta y = s.wordMeta y)

/-- R226, R229, R240 to R247: a matrix instruction with operands within their limits waits, after draining, to send its command;
MRD reads one element of an unlocked tile and retries on a locked one; MWAIT waits while a tile of its mask is locked; MCAP
makes a capability of this cluster's stamp.
The model's own choices in it: log entries 12, 49, 51. -/
def Obligations.MatrixInstructionsIssue : Prop :=
  ∀ (s : State) (t : Tile) (a b c : Reg) (f : Pairing) (x : Target), s.readyClean 0 [a, b, c] → s.iss.snap.relaxed = none →
    let th := s.iss.snap
    let cl := s.cluster (clusterOf s.iss.core)
    let cmd (fn fmt : Nat) (va vb vc : Word) : MatCmd := {
      fn := BitVec.ofNat 4 fn, fmt := BitVec.ofNat 3 fmt, tile := t, a := va, b := vb, c := vc, space := th.space, launch := th.launchid,
      name := ⟨s.iss.core, s.iss.slot, th.gen⟩, sup := th.priv, cap := none, word := BitVec.ofNat 64 s.iss.word.toNat, pc := s.iss.pc,
      pa := 0, old := [], oldX := [] }
    let sends (c : MatCmd) : Out := .next (detach (.matrix c) .drain s)
    exec (.mma t a b c f) s = sends (cmd 0 f.code (th.reg a) (th.reg b) (th.reg c)) ∧
    exec (.mmaz t a) s = sends (cmd 1 0 (th.reg a) 0 0) ∧
    exec (.mclr t) s = sends (cmd 2 0 0 0 0) ∧
    exec (.mst t a b x) s = sends (cmd 4 x.code (th.reg a) (th.reg b) 0) ∧
    exec (.mfmt t a) s = sends (cmd 5 0 (th.reg a) 0 0) ∧
    exec (.mscale t a b) s = sends (cmd 6 0 (th.reg a) (th.reg b) 0) ∧
    exec (.rmap t a) s = sends (cmd 10 0 (th.reg a) 0 0) ∧
    (fld (th.reg b) 63 12 = 0 → (cl.tile t.val).owners = 0 →
      let i := fld (th.reg b) 11 0
      let r := readout ((cl.tile t.val).elem i) (cl.tile t.val).ref x
      exec (.mrd t a b x) s = .next (raiseFlags r.2 (writeReg a (x.ty.extend r.1) ((cl.tile t.val).rowPoison.getLsbD (i / 64)) s))) ∧
    (fld (th.reg b) 63 12 = 0 → (cl.tile t.val).owners ≠ 0 →
      exec (.mrd t a b x) s = .next (stopWait 7 (BitVec.twoPow 64 t.val) s)) ∧
    (fld (th.reg a) 63 4 = 0 → exec (.mwait a) s = (if (List.range 4).any (fun i => (th.reg a).getLsbD i && decide ((cl.tile i).owners ≠ 0)) then
        .next (detach (.mwait (BitVec.ofNat 4 (th.reg a).toNat)) .waiting s)
      else .next s)) ∧
    (fld (th.reg b) 63 11 = 0 → fld (th.reg c) 63 6 = 0 → ∃ v, exec (.mcap a b c) s = .next (writeReg a v false s) ∧
      fld v 39 28 = cl.mcstamp.toNat ∧ fld v 10 0 = (th.reg b).toNat ∧ fld v 25 20 = (th.reg c).toNat ∧
      fld v 63 40 = (Config.capCheck s.capKey (fld v 39 0)).toNat) ∧
    ((th.reg b).toNat < 0x18000 → (th.reg b).toNat % 32 = 0 →
      th.priv = true ∨ guardAllows (s.core s.iss.core).guards .load (th.reg b).toNat = true → s.wordErrors = [] →
      (∀ i, i < 4 → s.isPoisonAt (tcmBase s.iss.core + (th.reg b).toNat + 8 * i) = false) →
      let w (i : Nat) := s.readWord (tcmBase s.iss.core + (th.reg b).toNat + 8 * i)
      exec (.msend a b) s = sends { cmd (fld (w 0) 3 0) (fld (w 0) 6 4) (w 1) (w 2) (w 3) with
        tile := Fin.ofNat 4 (fld (w 0) 9 8), cap := some (th.reg a), word := w 0 })

/-- R227, R228, R238, R241, R242, R246: a matrix unit accepts the oldest command that reaches it, local (MATRIX_COMMAND_ACCEPT) or
sent with a good capability (MSEND_ARRIVAL), into its queue, the tile's OWNERS rising; it starts its oldest command
(MATRIX_COMMAND_START), with the start checks of an MMA or MST passed; a K-block of an MMA adds the floored contributions to each
active element, where no order of them can saturate; an MST posts its stores, of one element its readout and row poison; RMAP
takes the map's bytes and poison marks, where no store fell between; the other commands set tile state whole; operands consumed sets the enabled tag (OPERANDS_CONSUMED); completion lowers OWNERS, gives the flags to the launch and sets the tag
(MATRIX_COMMAND_COMPLETE). Each of the five steps completes under these conditions.
The model's own choices in it: log entry 49. -/
def Obligations.MatrixUnitSteps : Prop :=
  ∀ (s : State) (id cl pa : Nat) (c : MatCmd) (r : MatRun) (q : List MatCmd), cl < 2048 →
    let k := s.cluster cl
    let tile := k.tile
    let accepts (u : State) : Prop := (u.cluster cl).mat.queue.map (fun x => (x.fn, x.tile, x.a, x.b, x.c))
        = k.mat.queue.map (fun x => (x.fn, x.tile, x.a, x.b, x.c)) ++ [(c.fn, c.tile, c.a, c.b, c.c)] ∧
      ((u.cluster cl).tile c.tile.val).owners = (tile c.tile.val).owners + 1 ∧ u.mem = s.mem
    (c.target = cl → s.firstMat cl = some id → s.isFenced cl = false → k.mat.marked = false →
      k.mat.queue.length + b2n k.mat.run.isSome < 16 → s.inFlightStores c.name .system = false → matLimit c = none →
      (if c.fn = 4 then s.translateEngine c.name.core c.space c.sup .store c.a = (.ok pa, s) else pa = 0) →
      (∀ p ∈ ({ c with pa := pa } : MatCmd).segs cl, ∀ x ∈ (s.cluster p.1).segWait, x.seg ≠ p.2) →
      (s.msg? id = some (.matKick c) → c.cap = none →
        ∃ u, exec (.matrixCommandAccept id) s = .next (u.accepted c.name) ∧ accepts u) ∧
      (∀ cap, s.msg? id = some (.msend c) → c.cap = some cap → s.capRefused cl c cap = none →
        ∃ u, exec (.msendArrival id) s = .next (u.accepted c.name) ∧ accepts u)) ∧
    (k.mat.run = none → k.mat.queue = c :: q →
      let started := s.setCluster cl { k with mat := { k.mat with queue := q, run := some ⟨c, 0, false, false, [], [], 0, none⟩ } }
      (c.fn ≠ 0 → c.fn ≠ 4 → exec (.matrixCommandStart cl) s = .next started) ∧
      (∀ f, c.fn = 0 → Pairing.ofCode c.fmt.toNat = some f → s.mmaOk cl c (tile c.tile.val) f = true →
        exec (.matrixCommandStart cl) s = .next started) ∧
      (∀ f, c.fn = 4 → Target.ofCode c.fmt.toNat = some f → s.mstOk c f c.pa = true →
        exec (.matrixCommandStart cl) s = .next started)) ∧
    (k.mat.run = some r → r.finished = false → r.held = none →
      r.cmd.fn = 1 ∨ r.cmd.fn = 2 ∨ r.cmd.fn = 5 ∨ r.cmd.fn = 6 ∨ r.cmd.fn = 10 →
      ∃ u run, exec (.matrixCommandStart cl) s = .next u ∧ (u.cluster cl).mat.run = some run ∧ run.finished = true ∧ run.cmd = r.cmd ∧
        u.mem = s.mem ∧ (∀ i : Fin 4, i ≠ r.cmd.tile → (u.cluster cl).tile i.val = tile i.val) ∧
        (r.cmd.fn ≠ 10 → (u.cluster cl).tile r.cmd.tile.val =
          (let x := tile r.cmd.tile.val
          if r.cmd.fn = 1 then { x with elems := [], rowPoison := 0, ref := r.cmd.a.toInt }
          else if r.cmd.fn = 2 then { x with elems := [], rowPoison := 0 }
          else if r.cmd.fn = 5 then { x with tshape := r.cmd.a }
          else { x with ua := BitVec.ofNat 8 r.cmd.a.toNat, ub := BitVec.ofNat 8 r.cmd.b.toNat }))) ∧
    (∀ f, k.mat.run = some r → r.cmd.fn = 0 → r.finished = false → r.held = none → r.consumed = true →
      Pairing.ofCode r.cmd.fmt.toNat = some f → ∃ u, exec (.matrixCommandStart cl) s = .next u ∧ u.mem = s.mem ∧
        (∀ i : Fin 4, i ≠ r.cmd.tile → (u.cluster cl).tile i.val = tile i.val) ∧
        (mismatchOf (s.blockElems cl r f s.fresh) = none →
          (u.cluster cl).mat.run.map (fun x => x.block) = some (r.block + 1) ∧
          ∀ p ∈ (tile r.cmd.tile.val).activeRows, ∀ col, col < (tile r.cmd.tile.val).bcols →
            let before := (tile r.cmd.tile.val).elem (p.1 * 64 + col)
            let after := ((u.cluster cl).tile r.cmd.tile.val).elem (p.1 * 64 + col)
            let cs := blockContribs s cl r (tile r.cmd.tile.val) f r.block p.2 col
            orderFree before cs (tile r.cmd.tile.val).ref = true → before.nan = false → before.ovf = false →
            (∀ c ∈ cs, ∃ n m e, c.1 = .fin n m e) →
            after.x = before.x + (cs.map (fun c => flooredQ c.1 (tile r.cmd.tile.val).ref)).sum ∧ after.nan = false ∧
              after.ovf = false)) ∧
    (∀ f, k.mat.run = some r → r.cmd.fn = 4 → r.finished = false → r.held = none → Target.ofCode r.cmd.fmt.toNat = some f →
      let stores := mstStores (tile r.cmd.tile.val) r.cmd f
      (stores[r.block]? = none → ∃ u, exec (.matrixCommandStart cl) s = .next u ∧ u.mem = s.mem ∧
        (u.cluster cl).mat.run.map (fun x => x.finished) = some true) ∧
      (∀ st, stores[r.block]? = some (st, none) → s.translateEngine r.cmd.name.core r.cmd.space r.cmd.sup .store st.va = (.ok pa, s) →
        s.engineFault pa = none → ∃ u g x, exec (.matrixCommandStart cl) s = .next u ∧ u.flight = s.flight ++ [g] ∧ u.mem = s.mem ∧
          g.msg = (if offDie (cl / 256) pa then .toBridge (cl / 256) x none else x.msg) ∧ x.form = .copy .fk false ∧ x.pa = pa ∧
          x.size = st.n ∧ x.data = BitVec.ofNat 64 st.data ∧ x.poison = st.poison ∧ x.posted = true ∧ x.who = .engine (2048 + cl) ∧
          (u.cluster cl).mat.run.map (fun x => x.block) = some (r.block + 1)) ∧
      (mstRows r.cmd.b = 1 → mstCols r.cmd.b = 1 → r.cmd.a.toNat % f.bytes = 0 →
        let x := (tile r.cmd.tile.val).elem (mstRow0 r.cmd.b * 64 + mstCol0 r.cmd.b)
        stores = [(⟨r.cmd.a, f.bytes, (readout x (tile r.cmd.tile.val).ref f).1,
          (tile r.cmd.tile.val).rowPoison.getLsbD (mstRow0 r.cmd.b)⟩, none)])) ∧
    (k.mat.run = some r → r.cmd.fn = 10 → r.finished = false → r.held = none → s.wordErrors = [] →
      let cls := r.cmd.operandClusters cl
      r.cmd.old = s.operandBytes cls → r.cmd.oldX = s.operandPoison cls → ∃ u, exec (.matrixCommandStart cl) s = .next u ∧
        ∀ i (h : i < 64), operandCell cls (operandPa cl r.cmd.a + i) = true →
          let t := (u.cluster cl).tile r.cmd.tile.val
          t.rowMap[i] = Memory.read s.mem (operandPa cl r.cmd.a + i) ∧
            t.mapPoison.getLsbD i = (s.operandPoison cls).contains ((operandPa cl r.cmd.a + i) / 8 * 8)) ∧
    (k.mat.run = some r → r.cmd.fn = 0 → r.consumed = false → ∃ u, exec (.operandsConsumed cl) s = .next u ∧
      (u.cluster cl).mat.run.map (fun x => x.consumed) = some true ∧ (u.cluster cl).mat.tiles = k.mat.tiles ∧
      (bit r.cmd.c 23 = true → (u.core r.cmd.name.core).tags.getLsbD (fld r.cmd.c 21 16) = true)) ∧
    (k.mat.run = some r → r.finished = true → r.held = none → s.postedBy (.engine (2048 + cl)) (fun _ => true) = false →
      0 < (tile r.cmd.tile.val).owners →
      ∃ u, exec (.matrixCommandComplete cl) s = .next u ∧ (u.cluster cl).mat.run = none ∧
        ((u.cluster cl).tile r.cmd.tile.val).owners + 1 = (tile r.cmd.tile.val).owners ∧
        ((u.cluster cl).tile r.cmd.tile.val).elems = (tile r.cmd.tile.val).elems ∧
        (∀ l, s.launchOf r.cmd.launch = some l → ∃ m, u.launchOf r.cmd.launch = some m ∧
          m.lflags ||| (l.lflags ||| r.flags) = m.lflags) ∧
        (r.cmd.fn = 0 → bit r.cmd.c 31 = true → (u.core r.cmd.name.core).tags.getLsbD (fld r.cmd.c 29 24) = true))
/-! ## Launches, spawning and the system group (chapters 11, 14 and 21) -/

/-- R111, R267, R269 to R274: an instruction of chapter 11 whose operands keep their limits waits, after draining, with what it
carries, the launch's SPACE with a thread sent away; NRED reads its key from NRCTL; EXIT marks its thread to leave. SPAWN, MIG,
LAUNCH, BAR, WLPUSH, WLPOP, NRED and EXIT each answer a next state so. -/
def Obligations.LaunchInstructionsIssue : Prop :=
  ∀ (s : State) (d a b : Reg) (sc : Scope) (g : PReg), s.ready g [a, b] →
    let clean := s.readyClean g [a, b]
    let th := s.iss.snap
    let x := th.reg a
    let y := th.reg b
    let waits (o : Op) : Out := .next (detach o .drain s)
    let carried (mig : Bool) (coff words : Nat) (c : Carried) : Prop :=
      c.mig = mig ∧ c.target = x.toNat % 2 ^ 14 ∧ c.entry = y ∧ (∀ i (h : i < 10), c.regs[i] = th.regs[i]) ∧
        (∀ i, i < 10 → c.present.getLsbD i = th.present.getLsbD i ∧ c.poison.getLsbD i = th.poison.getLsbD i) ∧
        c.pred = (th.pred ||| 1) ∧ c.launch = th.launchid ∧
        c.space = ((s.launchOf th.launchid).map (fun l => l.space)).getD th.space ∧ c.priv = th.priv ∧ c.coff = coff ∧
        c.words.length = words ∧ c.origin = ⟨s.iss.core, s.iss.slot, th.gen⟩ ∧ c.pc = s.iss.pc ∧ c.resend = false
    (clean → x.toNat < 2 ^ 14 → y.toNat < 2 ^ 56 → y.toNat % 8 = 0 →
      ∃ c, exec (.spawn a b g) s = waits (.spawn c) ∧ carried false 0 0 c) ∧
    (clean → fld x 63 49 = 0 → fld x 31 23 = 0 → fld x 15 14 = 0 → fld x 48 32 % 8 = 0 → fld x 22 16 ≤ 64 →
      fld x 48 32 + 8 * fld x 22 16 ≤ 0x18000 → y.toNat < 2 ^ 56 → y.toNat % 8 = 0 → th.relaxed = none →
      th.priv = true ∨ (∀ i, i < fld x 22 16 → guardAllows (s.core s.iss.core).guards .load (fld x 48 32 + 8 * i) = true) →
      ∃ c, exec (.mig a b g) s = waits (.mig c) ∧ carried true (fld x 48 32) (fld x 22 16) c) ∧
    (clean → x.toNat % 64 = 0 → th.relaxed = none → exec (.launch a g) s = waits (.launch x [])) ∧
    (clean → x.toNat < 2 ^ 16 → exec (.bar sc a g) s = waits (.bar sc (BitVec.ofNat 16 x.toNat))) ∧
    (x ≠ 0 → exec (.wlpush a g) s = waits (.wlpush x (th.isPoisoned a))) ∧
    exec (.wlpop d g) s = waits (.wlpop d) ∧
    (fld th.nrctl 55 40 ≠ 0 → fld th.nrctl 36 32 ≠ 31 → fld th.nrctl 2 0 ≠ 7 →
      exec (.nred sc a b g) s = waits (.nred sc x y (th.isPoisoned a || th.isPoisoned b) th.nrctl)) ∧
    (th.relaxed = none → exec (.exit g) s = .next (live (fun th => { th with exiting := true }) s))

/-- R252, R253, R255, R271: the launch unit accepts the oldest record of a class that reaches it into the class's queue when no word
breaks its limits and the shape can be met; the placement gives the next turn's head record the lowest free entry and the lowest
free clusters of its shape; a cluster whose shape broadcast is over starts its threads; a launch with nothing left ends. The
steps LAUNCH_RECORD_ARRIVAL, LAUNCH_PLACEMENT, SHAPE_BROADCAST_COMPLETE and LAUNCH_END each answer a next state so.
The model's own choices in it: log entries 50, 81. -/
def Obligations.LaunchUnitSteps : Prop :=
  ∀ (s : State) (id lid cl turn rank : Nat) (r : LaunchRec) (l : Launch) (addr : Word) (cls : List Nat),
    let asked := fld (wordAt r.words 1) 25 24
    let class' := if r.priv then asked else max asked (fld r.launch 1 0)
    (s.msg? id = some (.launch r addr) →
      s.firstArrived (fun m => match m with
        | .launch x _ => decide (x.asked = class') && (s.recordBad x.words x.priv).isNone
        | _ => false) = some id →
      s.recordBad r.words r.priv = none → (s.queue class').length < 256 →
      exec (.launchRecordArrival id) s = .next (((s.take id).enqueue { r with
        cls := class'
        space := if wordAt r.words 3 = 0 then r.space else wordAt r.words 3 &&& 0xFFFF00FFFFFFFFFF#64 }).accepted r.issuer)) ∧
    (s.nextTurn = some (turn, r) → s.cwords = [] → r.step = none → pickClusters s.isFreeCluster r.words = some cls →
      s.launch lid = none → (∀ n, n < lid → (s.launch n).isSome = true) → lid < 4096 → r.cls < 4 →
      ∃ t x, exec .launchPlacement s = .next t ∧ t.launch lid = some x ∧ x.words = r.words ∧ x.issuer = r.issuer ∧
        x.lgen = (mget s.lgens lid).getD 0 + 1 ∧ x.clusters = cls.zipIdx ∧ (∀ c ∈ cls, (t.cluster c).holder = some lid) ∧
        t.queue r.cls = (s.queue r.cls).drop 1) ∧
    (cl < 2048 → (s.cluster cl).holder = some lid → s.launch lid = some l → l.pendingShape.find? (fun p => p.1 == cl) = some (cl, recShlen l.words) →
      l.clusters.find? (fun p => p.1 == cl) = some (cl, rank) → l.shapeHeld = [] → l.killed = false → (s.cluster cl).mat.idle = true →
      (s.cluster cl).mcstamp = l.stamp → exec (.shapeBroadcastComplete cl) s = .next (s.loadSlots lid l cl rank)) ∧
    (∀ done, cl < 2048 → (s.cluster cl).holder = some lid → s.launch lid = some l →
      l.pendingShape.find? (fun p => p.1 == cl) = some (cl, done) → l.clusters.find? (fun p => p.1 == cl) = some (cl, rank) →
      l.shapeHeld = [] → l.killed = false → (s.cluster cl).mat.idle = true → (s.cluster cl).mcstamp = l.stamp →
      exec (.shapeBroadcastComplete cl) s = .next (s.broadcast lid l cl rank done ((recShlen l.words - done) / 8))) ∧
    (s.launch lid = some l → s.cwords = [] → s.launchOver lid l = true → l.step = none → wordAt l.words 4 = 0 →
      ∃ t, exec (.launchEnd lid) s = .next t ∧ (∀ n, t.launch n = if n = lid then none else s.launch n) ∧ t.mem = s.mem ∧
        ∀ c ∈ l.clusters, (t.cluster c.1).holder ≠ some lid)

/-- R261, R266, R268, R270, R430: a spawn message takes a free slot of its target, or has its sender noted; a slot-free notice and
the tick at 4,096 cycles send messages again; where a core's count exceeds that of its least-loaded adjacent core, the lowest of
equals, by 2 or more, levelling moves half the difference from the bottom of its list to the bottom of that core's; a packet opens
its key's entry, or joins it: the entry keeps a NaN before a number, else the larger value, between equals or two NaNs that of
the smaller index, with the sum of the counts; a full entry is delivered to its owner's two registers in one action, or waits there while its owner is pre-empted. The steps
SPAWN_MESSAGE_ARRIVAL, SLOT_FREE_NOTICE, SPAWN_RESEND_TICK, LOAD_LEVELLING and NRED_PACKET_ARRIVAL each answer a next state so.
The model's own choices in it: log entries 54, 80. -/
def Obligations.SpawningAndReductions : Prop :=
  ∀ (s : State) (id sender seq slot target : Nat) (c : Carried) (e : NredEntry) (th : Thread),
    let s0 := s.take id
    (s.msg? id = some (.spawn sender seq) → mget (s.core sender).spawnBuf seq = some c → c.mig = false →
      s.isFenced (clusterOf c.target) = false → (s.cluster (clusterOf c.target)).holder = some (lidOf c.launch) →
      (s.launchOf c.launch).isSome = true → s.unprepared c.launch (clusterOf c.target) = false →
      (s.freeSlot c.target (some sender) = some slot → c.words = [] →
        exec (.spawnMessageArrival id) s = .next ((s0.dropSpawn sender seq).startCarried slot c)) ∧
      (s.freeSlot c.target (some sender) = none → (s.core c.target).notices.length < 32 →
        exec (.spawnMessageArrival id) s = .next (s0.setCore c.target { s.core c.target with
          notices := (s.core c.target).notices ++ [sender] }))) ∧
    (s.msg? id = some (.slotFree sender target slot) →
      ((s.core sender).spawnBuf.filter (fun p => p.2.target == target)).find? (fun p => !s0.spawnInFlight sender p.1) = some (seq, c) →
      ∃ t, exec (.slotFreeNotice id) s = .next t ∧ t.flight.length = s0.flight.length + 1 ∧
        mget (t.core sender).spawnBuf seq = some { c with resend := false }) ∧
    (s.cycle % 4096 = 0 → s.cores = [(sender, s.core sender)] → (s.core sender).spawnBuf = [(seq, { c with resend := true })] →
      ∃ t, exec .spawnResendTick s = .next t ∧ (t.core sender).spawnBuf = [(seq, { c with resend := false })] ∧
        t.flight.length = s.flight.length + 1) ∧
    (s.cycle % 4096 = 0 → s.cores.any (fun p => !p.2.worklist.isEmpty && (s.levelMove p.1).isSome) = true →
      ∃ t, exec .loadLevelling s = .next t ∧ t.mem = s.mem ∧ t.marks = s.marks) ∧
    (∀ from' to' : Nat,
      let count (c : Nat) : Nat := (s.core c).worklist.length
      let n := (count from' - count to') / 2
      s.cycle % 4096 = 0 → s.cores.filter (fun p => !p.2.worklist.isEmpty) = [(from', s.core from')] → to' ∈ s.adjacent from' →
      (∀ c ∈ s.adjacent from', count to' ≤ count c ∧ (count c = count to' → to' ≤ c)) → count to' + 2 ≤ count from' →
      count from' ≤ 1024 → (∀ i x, i < 7 → s.thread (tid to' i) = some x → x.pend = []) →
      ∃ t, exec .loadLevelling s = .next t ∧ (t.core from').worklist = (s.core from').worklist.take (count from' - n) ∧
        (t.core to').worklist = (s.core to').worklist ++ (s.core from').worklist.drop (count from' - n) ∧
        ∀ c, c ≠ from' → c ≠ to' → t.core c = s.core c) ∧
    (∀ x : NredEntry, s.msg? id = some (.nred e) → (s.core (keyOwner e.key).core).nred = [x] → x.key = e.key →
      x.count + e.count ≤ keyCount e.key → x.count + e.count < keyCount e.key ∨ s.ownerHeld e = true →
      ∃ y : NredEntry, exec (.nredPacketArrival id) s = .next (s0.setCore (keyOwner e.key).core
          { s.core (keyOwner e.key).core with nred := [y] }) ∧
        y.key = e.key ∧ y.count = x.count + e.count ∧ y.poison = (x.poison || e.poison) ∧ y.launches = x.launches ++ e.launches ∧
        (let p := Fty.f64.val x.v.toNat
        let q := Fty.f64.val e.v.toNat
        let nums : Prop := p.isNan = false ∧ q.isNan = false
        let keeps (z : NredEntry) : Prop := y.v = z.v ∧ y.i = z.i
        (p.isNan = true → q.isNan = false → keeps x) ∧ (q.isNan = true → p.isNan = false → keeps e) ∧
          (nums → q.rank < p.rank → keeps x) ∧ (nums → p.rank < q.rank → keeps e) ∧
          (p.isNan = true ∧ q.isNan = true ∨ nums ∧ p.rank = q.rank → keeps (if x.i.toNat < e.i.toNat then x else e)))) ∧
    (s.msg? id = some (.nred e) → (∀ x ∈ (s.core (keyOwner e.key).core).nred, x.key ≠ e.key) →
      (s.core (keyOwner e.key).core).nred.length < 8 → (∀ x ∈ (s.core (keyOwner e.key).core).nred, x.count < keyCount x.key) →
      (e.count < keyCount e.key ∨ s.ownerHeld e = true → exec (.nredPacketArrival id) s = .next (s0.setCore (keyOwner e.key).core
        { s.core (keyOwner e.key).core with nred := (s.core (keyOwner e.key).core).nred ++ [e] })) ∧
      (keyCount e.key = e.count → s.named (keyOwner e.key) = some th → th.run ≠ .held → keyReg e.key < 31 →
        exec (.nredPacketArrival id) s = .next (s0.setCore (keyOwner e.key).core (s.core (keyOwner e.key).core) |>.setThread
          (tid (keyOwner e.key).core (keyOwner e.key).slot)
          ((th.setReg (Fin.ofNat 32 (keyReg e.key)) e.v e.poison).setReg (Fin.ofNat 32 (keyReg e.key + 1)) e.i e.poison))))

/-- R312 to R315: in a thread of a step launch, RREC waits for the word of the request that its operand's row names, EMIT to hand
its output over, and STEPEND to report its end, each answering a next state; outside one each traps with cause 0x33.
The model's own choices in it: log entry 33. -/
def Obligations.StepSupportIssue : Prop :=
  ∀ (s : State) (d a b : Reg) (g : PReg) (bind seq : Nat) (r : Row), s.readyClean g [a, b] →
    let th := s.iss.snap
    let x := th.reg a
    let v := th.reg b
    let slot := fld x 43 32
    let idx := fld x 15 0
    let out (k : EmitKind) : Out := .next (detach (.emit ⟨⟨s.iss.core, s.iss.slot, th.gen⟩, th.launchid, slot, k, idx, v⟩) .drain s)
    (s.stepOf s.iss.core th.launchid = some (bind, seq) →
      exec (.stepend g) s = .next (detach .stepend .drain s) ∧
      (s.stepRow bind seq slot = some r → fld x 63 44 = 0 →
        (fld x 31 5 = 0 → th.relaxed = none → exec (.rrec d a g) s =
          .next (detach (.rrec d x (s.recordAddr r.ridx + 8 * fld x 4 0)) .drain s)) ∧
        (th.stepEnded = false → fld x 27 16 = 0 → idx < r.ntok →
          (fld x 31 28 = 0 → r.sample = true → idx + 1 = r.ntok → v.toNat < 2 ^ 32 → exec (.emitToken a b g) s = out .token) ∧
          (fld x 31 28 = 1 → r.scoref = true → exec (.emitLogp a b g) s = out .logp) ∧
          (fld x 31 28 = 2 → 0 < v.toNat → v.toNat < 2 ^ 16 → exec (.emitFault a b g) s = out .fault)))) ∧
    (s.stepOf s.iss.core th.launchid = none →
      exec (.stepend g) s = .next (trap { cause := 0x33, detail := 0x6A } s) ∧
      exec (.rrec d a g) s = .next (trap { cause := 0x33, detail := 0x68, va := x } s) ∧
      exec (.emitToken a b g) s = .next (trap { cause := 0x33, detail := 0x69, va := x } s))

/-- R417 to R431: a system instruction of a supervisor thread whose operands keep their limits waits, after draining, for the
answer to its request; FLTRD reads the message buffer at once and MBXWAIT waits for a record of a class in its mask, for any
thread; TLBFILL fills the issuing cluster's second-level TLB; in a user thread the others trap with cause 0x12. At the hub SNUFF
defines, fences, opens or reads a region, or is refused with 2; ERRLOG answers a word of the log; TLBINV, once no walk is under
way, removes what it names from every TLB in reach; ENBUD sets a new REFILL in its reach and is answered when every core of it has
taken it at its refill.
The model's own choices in it: log entry 45. -/
def Obligations.SystemInstructionsIssue : Prop :=
  (∀ (s : State) (d a b : Reg) (g : PReg), s.readyClean g [a, b] →
    let th := s.iss.snap
    let x := th.reg a
    let y := th.reg b
    let thread := ∃ n, sysName x = some (.thread n)
    let unit := ∃ n, sysName x = some (.engine n)
    let asks (o : SysOp) (target : Word) (d : Option Reg) : Out := .next (detach (.sys o target d) .drain s)
    let denied (i : Instr) (fn : Nat) : Prop := exec i s = .next (trap { cause := 0x12, detail := fn } s)
    let target := BitVec.ofNat 64 (fld y 55 3 * 8)
    (x.toNat < 8 → exec (.fltrd d a g) s = .next (writeReg d (th.msgbuf.toList.getD x.toNat 0) false s)) ∧
    (x.toNat < 256 → exec (.mbxwait d a g) s = if x = 0 then .next (writeReg d 0 false s)
      else .next (detach (.mbx d (BitVec.ofNat 8 x.toNat)) .waiting s)) ∧
    (th.priv = true →
      (thread ∨ unit → y.toNat < 4 → exec (.tstate d a b g) s = asks (.tstate y.toNat) x (some d)) ∧
      (thread →
        (fld y 63 56 = 1 → exec (.tsetStop d a b g) s = asks (.tset 1 target) x (some d)) ∧
        (fld y 63 56 = 2 → exec (.tsetRun d a b g) s = asks (.tset 2 target) x (some d)) ∧
        (fld y 63 56 = 3 → exec (.tsetSetpc d a b g) s = asks (.tset 3 target) x (some d)) ∧
        (y = 0 → exec (.tkill d a b g) s = asks (.tkill false) x (some d)) ∧
        (y = 1 → exec (.tkillLaunch d a b g) s = asks (.tkill true) x (some d)) ∧
        (y.toNat % 256 = 0 → th.relaxed = none → exec (.preempt d a b g) s = asks (.preempt y) x (some d) ∧
          exec (.savectx d a b g) s = asks (.savectx y) x (some d))) ∧
      (thread ∨ unit → fld y 63 56 = 0 → bit y 2 = false →
        (fld y 1 0 = 0 → exec (.tresumeRetry d a b g) s = asks (.tresume 0 target) x (some d)) ∧
        (fld y 1 0 = 1 → exec (.tresumeSkip d a b g) s = asks (.tresume 1 target) x (some d)) ∧
        (fld y 1 0 = 2 → exec (.tresumeGo d a b g) s = asks (.tresume 2 target) x (some d)) ∧
        (fld y 1 0 = 3 → exec (.tresumeStop d a b g) s = asks (.tresume 3 target) x (some d))) ∧
      (fld x 63 10 = 0 → fld x 7 4 = 0 → badRect y = false →
        (fld x 9 8 = 0 → exec (.snuffDefine d a b g) s = asks (.snuff (fld x 3 0) 0 y) 0 (some d)) ∧
        (fld x 9 8 = 1 → exec (.snuffFence d a b g) s = asks (.snuff (fld x 3 0) 1 y) 0 (some d)) ∧
        (fld x 9 8 = 2 → exec (.snuffRelease d a b g) s = asks (.snuff (fld x 3 0) 2 y) 0 (some d)) ∧
        (fld x 9 8 = 3 → exec (.snuffRead d a b g) s = asks (.snuff (fld x 3 0) 3 y) 0 (some d))) ∧
      exec (.errlog d a g) s = asks (.errlog x) 0 (some d) ∧
      (fld y 63 4 = 0 →
        (fld y 1 0 = 0 → fld x 63 56 = 0 → exec (.tlbinvPage a b g) s = asks (.tlbinv 0 (fld y 3 2) x) 0 none) ∧
        (fld y 1 0 = 1 → fld x 63 16 = 0 → exec (.tlbinvAsn a b g) s = asks (.tlbinv 1 (fld y 3 2) x) 0 none) ∧
        (fld y 1 0 = 2 → x = 0 → exec (.tlbinvAll a b g) s = asks (.tlbinv 2 (fld y 3 2) x) 0 none)) ∧
      (x.toNat % 256 = 0 → th.relaxed = none → exec (.restctx d a g) s = asks (.restctx x) 0 (some d)) ∧
      (fld x 63 18 = 0 → fld x 15 14 = 0 → y.toNat < 2 ^ 16 → exec (.enbud a b g) s =
        asks (.enbud (fld x 17 16) (fld x 13 0) (BitVec.ofNat 16 (max 64 y.toNat))) 0 none) ∧
      (fld y 63 62 = 2 → fld y 53 52 = 0 → fld y 15 8 = 0 → ∃ t l, exec (.tlbfill a b g) s = .next t ∧
        tlbFind (t.cluster (clusterOf s.iss.core)).tlb none (BitVec.ofNat 64 (fld x 15 0 * 2 ^ 48)) (fld x 55 16 * 2 ^ 16) = some l ∧
        t.mem = s.mem ∧ t.threads = s.threads)) ∧
    (th.priv = false →
      denied (.tstate d a b g) 0 ∧ denied (.tsetStop d a b g) 1 ∧ denied (.tsetRun d a b g) 1 ∧ denied (.tsetSetpc d a b g) 1 ∧
      denied (.tresumeRetry d a b g) 2 ∧ denied (.tresumeSkip d a b g) 2 ∧ denied (.tresumeGo d a b g) 2 ∧
      denied (.tresumeStop d a b g) 2 ∧ denied (.tkill d a b g) 3 ∧ denied (.tkillLaunch d a b g) 3 ∧
      denied (.snuffDefine d a b g) 5 ∧ denied (.snuffFence d a b g) 5 ∧ denied (.snuffRelease d a b g) 5 ∧
      denied (.snuffRead d a b g) 5 ∧ denied (.errlog d a g) 6 ∧ denied (.tlbfill a b g) 7 ∧ denied (.tlbinvPage a b g) 8 ∧
      denied (.tlbinvAsn a b g) 8 ∧ denied (.tlbinvAll a b g) 8 ∧ denied (.preempt d a b g) 10 ∧ denied (.savectx d a b g) 11 ∧
      denied (.restctx d a g) 12 ∧ denied (.enbud a b g) 13)) ∧
  (∀ (s : State) (id n op kind reach core : Nat) (sender : TName) (rect x : Word) (refill : BitVec 16) (r : Snuff),
    let s0 := s.take id
    let asks (o : SysOp) (begun : Bool) : Prop := s.msg? id = some (.sys sender o 0 begun)
    let reply (v : Reply) (u : State) : Out := .next (u.send (path 8 sender.core sender.slot) (.reply sender v))
    let gives (v : Word) (u : State) : Prop := exec (.systemRequestArrival id) s = reply (.value v false) u
    let only (u : State) (q : Snuff) : Prop := u.snuffs.toList[n]? = some q ∧ u.mem = s.mem ∧ u.threads = s.threads ∧
      ∀ i, i ≠ n → u.snuffs.toList[i]? = s.snuffs.toList[i]?
    (asks (.snuff n op rect) false → s.snuffs.toList[n]? = some r →
      let q : Snuff := ⟨fld rect 5 0, fld rect 12 8, fld rect 21 16, fld rect 28 24, bit rect 30, bit rect 31, false⟩
      let clash : Prop := q.en = true ∧ ∃ i y, i ≠ n ∧ s.snuffs.toList[i]? = some y ∧ y.en = true ∧ y.x0 ≤ q.x1 ∧ q.x0 ≤ y.x1 ∧
        y.y0 ≤ q.y1 ∧ q.y0 ≤ y.y1
      (op = 0 → (r.fenced = true ∨ clash → gives 2 s0) ∧ (r.fenced = false → ¬clash → ∃ u, gives 0 u ∧ only u q)) ∧
      (op = 1 → (r.en = false ∨ r.fenced = true → gives 2 s0) ∧ (r.en = true → r.fenced = false → gives 0 (s0.fence n))) ∧
      (op = 2 → (r.fenced = false → gives 2 s0) ∧ (r.fenced = true → ∃ u, gives 0 u ∧ only u { r with fenced := false })) ∧
      (op = 3 → r.x0 < 64 → r.x1 < 64 → r.y0 < 32 → r.y1 < 32 → ∃ v, gives v s0 ∧ fld v 5 0 = r.x0 ∧ fld v 12 8 = r.y0 ∧
        fld v 21 16 = r.x1 ∧ fld v 28 24 = r.y1 ∧ bit v 30 = r.en ∧ bit v 31 = r.auto ∧ bit v 63 = r.fenced)) ∧
    (asks (.errlog x) false →
      let w := fld x 1 0
      let k := fld x 63 2
      (k = 2 ^ 62 - 1 → gives (if w = 0 then BitVec.ofNat 64 s.logSeq else if w = 1 then BitVec.ofNat 64 s.logLost else 0) s0) ∧
      (k ≠ 2 ^ 62 - 1 → k < s.logSeq → s.logSeq ≤ k + 4096 → ∀ e, mget s.log (k % 4096) = some e → ∀ i : Fin 4, w = i.val →
        gives e[i] s0) ∧
      (k ≠ 2 ^ 62 - 1 → s.logSeq ≤ k ∨ k + 4096 < s.logSeq → gives 0 s0)) ∧
    (asks (.tlbinv kind reach x) false → (∀ p ∈ s.cores, p.2.walks = []) →
      let gone (e : TlbEntry) : Bool :=
        match kind with
        | 0 => e.asn.toNat == fld x 15 0 && e.page == fld x 55 16 * 2 ^ 16 / 2 ^ e.lg
        | 1 => e.asn.toNat == fld x 15 0
        | _ => true
      let near (c : Nat) : Bool :=
        match reach with
        | 0 => clusterOf c == clusterOf sender.core
        | 1 => districtOf c == districtOf sender.core
        | 2 => dieOf c == dieOf sender.core
        | _ => true
      ∃ u, exec (.systemRequestArrival id) s = reply .done u ∧ u.mem = s.mem ∧ u.threads = s.threads ∧
        (∀ c, (u.core c).tlb = if near c then (s.core c).tlb.filter (fun e => !gone e) else (s.core c).tlb) ∧
        ∀ k, k < 2048 → (u.cluster k).tlb =
          if near (8 * k) then (s.cluster k).tlb.filter (fun e => !gone e) else (s.cluster k).tlb) ∧
    (let l : List Nat :=
        match reach with
        | 0 => [core]
        | 1 => coresOf (clusterOf core)
        | 2 => (List.range 128).map (fun i => core / 128 * 128 + i)
        | _ => List.range 16384
      (asks (.enbud reach core refill) false → ∃ u, exec (.systemRequestArrival id) s = .next u ∧
        (∀ c, u.core c = if c ∈ l then { s.core c with newRefill := some refill } else s.core c) ∧
        u.msg? id = some (.sys sender (.enbud reach core refill) 0 true)) ∧
      (asks (.enbud reach core refill) true →
        ((∀ c ∈ l, (s.core c).newRefill = none) → exec (.systemRequestArrival id) s = reply .done s0) ∧
        ((∃ c ∈ l, (s.core c).newRefill ≠ none) → exec (.systemRequestArrival id) s = .next s))))

/-! ## Agent programs (chapters 14 and 16) -/

/-- R346 to R349, R90, R344, R350: the scalar, control and memory words of the program at issue, each completing its word or, for
HST, RECV, POST and an HLD through a peer's aperture, leaving it issued until its target answers; HALT, a kill and an illegal word end the program. HMOV, HADD, HSUB,
HCMP, HJMP, HBR, YIELD, HALT, CWAIT, HLD, HST, RECV, POST, ILLEGAL_WORD_TURN and TKILL_OF_THE_PROGRAM each answer a next state so.
The model's own choices in it: log entries 39, 66. -/
def Obligations.AgentWordsComplete : Prop :=
  ∀ (s : State) (g : Program) (d a v : HReg) (x : HSrc) (c : CReg) (k : Cond) (off : BitVec 32) (pa r prog : Nat) (w : PWord),
    s.wordErrors = [] →
    let p := s.chandler.cur
    let o := g.asIssued
    let done (res : Option (HReg × Word)) : Out := .next (s.completeAt p g.atWord res)
    let y := o.hreg a
    let z : Word := match x with
      | .reg h => o.hreg h
      | .imm i => i.signExtend 64
    let va := y + off.signExtend 64
    let issued (at' : Word) (u : State) : Prop := (u.prog p).map (fun q => q.words) = some (modWord g.atWord (fun w => { w with
      st := .issued
      arg := at'
      ops := if w.st == .issued then w.ops else ((w.instr.map hReads).getD []).map g.hreg }) g.words)
    let quiet (pa : Nat) : Prop := hasMeta pa = true ∧ isKick pa = false ∧ pa % 8 = 0 ∧ s.waitersAt pa = [] ∧
      (s.wordMeta pa).hold = none ∧ (s.wordMeta pa).holdRec = none
    (s.prog prog ≠ none → ∃ u, exec (.tkillOfTheProgram prog) s = .next u ∧ u.prog prog = none) ∧
    (s.prog p = some g →
      exec (.hmov d x) s = done (some (d, z)) ∧ exec (.hadd d a x) s = done (some (d, y + z)) ∧
      exec (.hsub d a x) s = done (some (d, y - z)) ∧
      (k ≠ .un → exec (.hcmp k d a x) s = done (some (d, if (match k with
        | .eq => y.toInt == z.toInt
        | .ne => y.toInt != z.toInt
        | .lt => decide (y.toInt < z.toInt)
        | .le => decide (y.toInt ≤ z.toInt)
        | .gt => decide (y.toInt > z.toInt)
        | .ge => decide (y.toInt ≥ z.toInt)
        | .un => false) then 1 else 0))) ∧
      exec (.hjmp off) s = done none ∧ exec .yield s = done none ∧
      (g.fetchStop = false → exec (.hbr a off) s = done none) ∧
      (g.fetchStop = true → g.words.getLast?.map (fun w => w.addr) = some g.atWord →
        (g.words.filter (fun w => w.addr == g.atWord)).length = 1 → exec (.hbr a off) s =
        .next ((s.modProg p (fun q => { q with
          pc := if y = 0 then g.atWord + 8 else g.atWord + off.signExtend 64 * 8, fetchStop := false })).completeAt p g.atWord none)) ∧
      (∃ u, exec .halt s = .next u ∧ u.prog p = none) ∧
      (s.firstIssue g [] g.words = some w → w.fault = none → (∃ e, decodeF w.bits.toNat = .error e) →
        ∃ u, exec .illegalWordTurn s = .next u ∧ u.prog p = none) ∧
      (s.ctxRecord g c = some r → exec (.cwait c) s = done none) ∧
      (s.ctxRecord g c = none → ∃ u, exec (.cwait c) s = .next u ∧ u.prog p = none) ∧
      (va.toNat % 8 = 0 → s.agAddr .load va = .ok pa → quiet pa → s.agStoring pa = false → (s.wordMeta pa).poison = false →
        exec (.hld d a off) s = done (some (d, s.readWord pa))) ∧
      (∀ port, va.toNat % 8 = 0 → s.agAddr .load va = .ok pa → regionOf pa = .peer port → ∃ u, exec (.hld d a off) s = .next u ∧
        issued va u) ∧
      (va.toNat % 8 = 0 → s.agAddr .store va = .ok pa → quiet pa → ∃ u, exec (.hst v a off) s = .next u ∧
        u.mem = Memory.writeN s.mem pa 8 (o.hreg v).toNat ∧ issued va u) ∧
      (y.toNat % 8 = 0 → s.agAddr .store y = .ok pa → quiet pa →
        ((s.wordMeta pa).full = true → ∃ u, exec (.recv d a) s = .next u ∧ (u.wordMeta pa).full = false ∧ u.mem = s.mem ∧
          issued y u) ∧
        ((s.wordMeta pa).full = false → s.ctxRecord g c = some r → ∃ u, exec (.post a c) s = .next u ∧
          (u.wordMeta pa).full = true ∧ u.mem = Memory.writeN s.mem pa 8 (s.rget r rTlen) ∧ issued y u)))

/-- R351 to R356, R303, R326: the words that make, bind, fork, free, set, read and cut records, for a record in no open step, with
room for what they need and every count word that they change available. CNEW, CBIND, CFORK, CFREE, CSET, CGET and TRUNC each
answer a next state so.
The model's own choices in it: log entries 13, 14, 66. -/
def Obligations.AgentRecordsChange : Prop :=
  ∀ (s : State) (g : Program) (c e : CReg) (h : HReg) (f : BitVec 8) (x : RField) (ok : Nat → Bool) (r n : Nat) (u : State),
    s.memoryCanonical → s.wordErrors = [] → (∀ q ∈ s.marks, ∀ act, q.2.hold ≠ some (.chandler act)) →
    (∀ q ∈ s.waiters, ∀ z ∈ q.2, ∀ act, z.acc.who ≠ .chandler act) → s.prog s.chandler.cur = some g →
    let p := s.chandler.cur
    let o := g.asIssued
    let v := o.hreg h
    let unbound (c : CReg) : Prop := (g.c.toList.getD c.val none).isSome = false
    let free (l : List Nat) : Prop := ∀ i ∈ l, s.countAvail (countWho (actWord r)) i = true
    let gone := ((s.places (s.rootOf r)).filter (fun q => decide (v.toNat / 64 ≤ q.2))).map (fun q => s.entry (s.rootOf r) q.1 q.2)
    (unbound c → s.freshRecord o c.val = some (r, u) → exec (.cnew c) s = .next ((u.bindCtx c r).wordDone none)) ∧
    (s.recCount > fld v 43 26 → fld v 55 44 = s.rget (fld v 43 26) rGen →
      s.rget (fld v 43 26) rState = 1 ∨ s.rget (fld v 43 26) rState = 5 → s.isHeld (fld v 43 26) = false → unbound c → p < 2 ^ 16 →
      ∃ t, exec (.cbind c h) s = .next t ∧ t.rget (fld v 43 26) rProg = p ∧ t.rget (fld v 43 26) rCreg = c.val ∧
        (t.prog p).bind (fun q => q.c[c.val]) = some ⟨fld v 43 26, BitVec.ofNat 12 (fld v 55 44)⟩) ∧
    (s.ctxRecord g e = some r → unbound c → s.rget r rState = 1 → s.demoted (s.rootOf r) = none → free (s.countsOf (s.rootOf r)) →
      s.forkRecord r p c.val g.pclass.toNat g.eclass.toNat = some (n, u) →
      exec (.cfork c e) s = .next (((u.bindCtx c n).wordDone none).releaseCounts (countWho (actWord r)))) ∧
    (s.ctxRecord g c = some r → s.inOpenStep r = false →
      (s.rget r rState = 1 ∨ s.rget r rState = 5 → free (s.countsOf (s.rootOf r)) → ∃ t, exec (.cfree c) s = .next t ∧
        t.rget r rState = 0 ∧ (t.prog p).bind (fun q => q.c[c.val]) = none) ∧
      (csetField f.toNat = some (x, ok) →
        (ok v.toNat = true → exec (.cset c h f) s = .next ((s.rset r x v.toNat).completeAt p g.atWord none)) ∧
        exec (.cget h c f) s = .next (s.completeAt p g.atWord (some (h, BitVec.ofNat 64 (s.rget r x))))) ∧
      (64 ≤ f.toNat → f.toNat < 96 →
        exec (.cget h c f) s = .next (s.completeAt p g.atWord (some (h, s.rword r (f.toNat - 64))))) ∧
      (v.toNat ≤ s.rget r rTlen → free ((gone.filter (fun e => entTier e != 0)).map entRci) →
        ∃ t, exec (.trunc c h) s = .next t ∧ t.rget r rTlen = v.toNat ∧
          t.rget r rPos = min (s.rget r rPos) (64 * (v.toNat / 64))))

/-- R357 to R365: a step-taking word whose record is in STATE 1 or 5 and whose operands keep their limits writes its record, which
is then in STATE 2 with the word's OP, PROGA and PROGN and DONE 0, and stays issued until a commit completes it; one of 0
tokens completes at once. CHOOSE and BEAM write so the record of each candidate or beam, with its index in PROGX. APPEND, GEN,
SCORE, CHOOSE, BEAM and SPEC each answer a next state so. Strings lie apart from records, and the table or area that CHOOSE or
BEAM stores to lies in host memory, as do the page tables that lead there.
The model's own choices in it: log entry 66. -/
def Obligations.AgentStepWordsIssue : Prop :=
  ∀ (s : State) (g : Program) (c : CReg) (a n d : HReg) (r : Nat) (l hidden : List Nat) (toks : List (List Nat)) (u : State),
    s.memoryCanonical → s.wordErrors = [] → s.prog s.chandler.cur = some g → s.ctxRecord g c = some r →
    s.rget r rState = 1 ∨ s.rget r rState = 5 →
    let p := s.chandler.cur
    let o := g.asIssued
    let count := (o.hreg n).toNat
    let y := o.hreg a
    let len := s.rget r rTlen
    let pos := if s.rget r rPos = len then len - 1 else s.rget r rPos
    let stays (t : State) : Prop := (t.prog p).map (fun q => q.words) = some (modWord g.atWord (fun w => { w with
      st := .issued
      arg := 0
      ops := if w.st == .issued then w.ops else ((w.instr.map hReads).getD []).map g.hreg }) g.words)
    let begun (t : State) (r op proga progn : Nat) : Prop := t.rget r rState = 2 ∧ t.rget r rOp = op ∧ t.rget r rProga = proga ∧
      t.rget r rProgn = progn ∧ t.rget r rDone = 0 ∧ t.rget r rProgs = 0
    let starts (t : State) (op proga : Nat) : Prop := begun t r op proga count
    let below (u : State) (x : Nat) : Prop := u.recordAddr x + 256 ≤ hostBase
    let inHost (va : Word) : Prop := ∀ t : State, t.chandler.config = s.chandler.config → t.snuffs = s.snuffs → t.ports = s.ports →
      (∀ q, regionOf q = .host → Memory.read t.mem q = Memory.read s.mem q ∧ t.wordMeta q = s.wordMeta q) →
      ∃ q, t.agAddr .store va = .ok q ∧ regionOf q = .host
    let ends (t : State) (res : Option (HReg × Word)) : Prop := t.rget r rState = 1 ∧ t.rget r rOp = 0 ∧ t.rget r rMark = 0 ∧
      t.prog p = (s.completeAt p g.atWord res).prog p
    let apart : Prop := s.stringAt r + 4 * (len + count) ≤ s.recordAddr r ∨ s.recordAddr r + 256 ≤ s.stringAt r
    (count = 0 → (∃ t, exec (.append c a n) s = .next t ∧ ends t none) ∧
      (∃ t, exec (.gen c n) s = .next t ∧ ends t (some (n, 0))) ∧ ∃ t, exec (.score c a n d) s = .next t ∧ ends t (some (d, 0))) ∧
    (0 < count → s.readTokens r y count = (.ok l, s) → apart → l.length = count →
      (∃ t, exec (.append c a n) s = .next t ∧ stays t ∧ starts t 0x20 len ∧ t.rget r rTlen = (len + count) % 2 ^ 32) ∧
      (0 < len → ∃ t, exec (.score c a n d) s = .next t ∧ stays t ∧ starts t 0x22 len ∧
        t.rget r rTlen = (len + count) % 2 ^ 32)) ∧
    (0 < count → s.rget r rMaxpos ≠ 0 → s.rget r rMaxpos ≤ len → ∃ t, exec (.gen c n) s = .next t ∧ ends t (some (n, genValue 3 0))) ∧
    (0 < count → 0 < len → s.rget r rMaxpos = 0 ∨ len < s.rget r rMaxpos → ∃ t, exec (.gen c n) s = .next t ∧ stays t ∧
      starts t 0x21 len ∧ t.rget r rPos = pos) ∧
    (0 < count → count ≤ 16 → y.toNat % 16 = 0 → 0 < len → s.chooseTokens r y count = (.ok toks, s) →
      o.tokensRead = none →
      count = 1 ∨ (s.demoted (s.rootOf r) = none ∧ ∀ i ∈ s.countsOf (s.rootOf r), s.countAvail (countWho (actWord r)) i = true) →
      (s.backUp r).forks o r c.val (count - 1) = some (hidden, u) →
      ∃ t, exec (.choose c a n d) s = .next t ∧ stays t ∧ mget t.chandler.groups r = some (r :: hidden) ∧
        ((r :: hidden).Nodup → (∀ x ∈ r :: hidden, below u x) → (∀ i, i < count → inHost (y + BitVec.ofNat 64 (16 * i + 8))) →
          (∀ x ∈ r :: hidden, ∀ z ∈ r :: hidden, ∀ l ∈ toks, u.stringAt x + 4 * (u.rget x rTlen + l.length) ≤ hostBase ∧
            (u.stringAt x + 4 * (u.rget x rTlen + l.length) ≤ u.recordAddr z ∨ u.recordAddr z + 256 ≤ u.stringAt x)) →
          ∀ i x l, (r :: hidden)[i]? = some x → toks[i]? = some l → begun t x 0x23 len l.length ∧ t.rget x rProgx = i ∧
            t.rget x rProgm = count)) ∧
    (let k := fld y 4 0
      let area : Word := BitVec.ofNat 64 (fld y 55 6 * 64)
      0 < k → k ≤ 16 → bit y 5 = false → y.toNat < 2 ^ 56 → 0 < count → 0 < len → len + count ≤ s.capacity r →
      (∀ j, j < k → ∃ q, s.agAddr .store (area + BitVec.ofNat 64 (8 * (32 + j))) = .ok q) →
      s.emptyRecords o r c.val (k - 1) = some (hidden, u) →
      ∃ t, exec (.beam c a n) s = .next t ∧ stays t ∧ mget t.chandler.groups r = some (r :: hidden) ∧
        ((r :: hidden).Nodup → (∀ x ∈ r :: hidden, below u x) → (∀ j, j < k → inHost (area + BitVec.ofNat 64 (8 * (32 + j)))) →
          ∀ i x, (r :: hidden)[i]? = some x → begun t x 0x24 area.toNat count ∧ t.rget x rProgx = i)) ∧
    (0 < count → count ≤ 63 → y.toNat % 16 = 0 → 0 < len → len + count + 1 ≤ s.capacity r → s.agLoad y 8 = (.ok count, s) →
      s.draftBad y 1 count = (none, s) → ∃ t, exec (.spec c a n) s = .next t ∧ stays t ∧ starts t 0x25 y.toNat ∧
        t.rget r rPos = pos)

/-- R298, R299, R307 to R309, R316, R408: the Chandler admits the program a full admission word names, with its pc and h0 from its
descriptor; forms a step of its ready requests, commits one whose ends have come, STEPSEQ rising, and runs one again after a
flare with the same STEPSEQ. The steps AGENT_ADMISSION, STEP_FORMATION, STEP_COMMIT and FLARE_REEXECUTION each answer a next
state so, with the count words that a commit changes available.
The model's own choices in it: log entries 53, 66. -/
def Obligations.ChandlerSteps : Prop :=
  ∀ (s : State) (b i v q : Nat) (x : Bind) (e : BindEntry) (l : List Nat) (s2 : State),
    (s.chandler.config.isSome = true → s.chandler.paused = false → s.chandler.programs.length < 65536 →
      s.admissionWord = some i →
      let va := s.admBase + BitVec.ofNat 64 (8 * i)
      let s0 := (s.agAccess 65536 .ldc va 8 0 false false).2
      let s1 := modCh (fun c => { c with rotation := (i + 1) % s0.admCount }) s0
      let desc := BitVec.ofNat 64 v
      (s.agLoad va 8).1 = .ok v → v ≠ 0 → v % 64 = 0 → v < 2 ^ 56 → s1.agLoads desc 8 8 = (.ok l, s2) →
      s2.descBad (l.map (fun n => BitVec.ofNat 64 n)) = false → q < 65536 → s2.prog q = none → (∀ n, n < q → s2.prog n ≠ none) →
      ∃ t g, exec .agentAdmission s = .next t ∧ t.prog q = some g ∧ g.desc = desc ∧ g.pc = BitVec.ofNat 64 (l.getD 0 0) ∧ g.h[0] = desc ∧
        g.result = BitVec.ofNat 64 (l.getD 2 0) ∧ t.mem = s2.mem) ∧
    (s.bind b = some x → s.bindEntry b = some e →
      let free (rows : List Row) : Prop := ∀ i ∈ s.commitCounts rows, s.countAvail (countWho (actCommit b)) i = true
      (x.isOpen = false → (s.queue 0).length < 256 → s.krecWaits e = false → s.chandler.lateFaults = [] → s.chandler.abandon = [] →
        s.records.filter (s.genFull b) = [] →
        let ready := s.records.filter (s.isReady b)
        let u := modCh (fun c => { c with shares := c.shares ++ s.newShares ready [] }) s
        u.records.filter (u.isReady b) ≠ [] →
        ∃ t y, exec (.stepFormation b) s = .next t ∧ t.bind b = some y ∧ y.isOpen = true ∧ y.stepseq = x.stepseq ∧ y.reex = false ∧
          y.ends = 0 ∧ (y.st = .refused ∨ (t.queue 0).length = (s.queue 0).length + 1)) ∧
      (s.commitDue b x = true → s.flaredRows x = [] ∨ x.reex = true ∨ x.st = .refused → free (x.rows ++ x.kept) →
        ∃ t y, exec (.stepCommit b) s = .next t ∧ t.bind b = some y ∧ y.isOpen = false ∧ y.stepseq = x.stepseq + 1 ∧ y.rows = []) ∧
      (s.commitDue b x = true → s.flaredRows x ≠ [] → x.reex = false → x.st ≠ .refused → (s.queue 0).length < 256 → s.krecWaits e = false →
        free (x.rows.filter (fun y => !(s.flaredRows x ++ s.keptRows x).any (fun z => z.slot == y.slot))) →
        ∃ t y, exec (.flareReexecution b) s = .next t ∧ t.bind b = some y ∧ y.isOpen = true ∧ y.reex = true ∧
          y.stepseq = x.stepseq))

/-- R318, R326 to R328, R331, R332, R334: key-value pages. A block moves between tiers with its content; a suspended request whose
blocks are resident is ready again; expired holds end; an eviction takes eligible requests, each before every other that it does
not take, and one of them frees memory; the port takes a good or a bad kick, fetches or stores its block, and completes. The
steps PAGE_MOVE, PROMOTION_COMPLETE, EVICTION, RESIDENCY_HOLD_EXPIRY, KV_FETCH, KV_STORE and KV_COMMAND_COMPLETE each answer a
next state so, with the count words that they change available, and no word held for the port or the page engine.
The model's own choices in it: log entries 14, 39, 66, 84, 87. -/
def Obligations.KeyValuePages : Prop :=
  ∀ (s : State) (r blk b d a n : Nat) (kick : Word) (run : KvRun), s.memoryCanonical → s.wordErrors = [] →
    (∀ q ∈ s.marks, q.2.hold ≠ some (portWho d) ∧ ∀ i, q.2.hold ≠ some (.pager i)) →
    (∀ q ∈ s.waiters, ∀ z ∈ q.2, z.acc.who ≠ portWho d ∧ ∀ i, z.acc.who ≠ .pager i) →
    let root := s.rootOf r
    let nblk := dirNblk (s.dir root)
    let e := s.entry root (blk / nblk) (blk % nblk)
    let place := s.entryAddr root (blk / nblk) (blk % nblk)
    let movable : Prop := r < s.recCount ∧ s.rget r rState ≠ 0 ∧ blk / nblk < dirLayers (s.dir root) ∧
      s.pinned (entLoc e) (rawSize (s.dir root)) = false ∧ s.inOpenStep r = false ∧ s.count (entRci e) = 1 ∧
      s.countAvail (promoteWho (entRci e)) (entRci e) = true
    let lands (lpddr : Bool) (tier : Nat) : Prop := ∃ t, exec (.pageMove r blk lpddr) s = .next t ∧
      entTier (t.readWord place) = tier ∧ entRci (t.readWord place) = entRci e ∧
      t.raw (entLoc (t.readWord place)) = s.raw (entLoc e)
    (movable → s.lpddrRoom = some a → entTier e = 1 → (∀ h ∈ s.chandler.holds, h.rci ≠ entRci e) → lands true 2) ∧
    (movable → s.anyHbm = some a → entTier e = 2 → lands false 1) ∧
    (r < s.recCount → s.rget r rState = 4 → s.demoted root = none → ∃ t, exec (.promotionComplete r) s = .next t ∧
      t.rget r rState = 2) ∧
    (s.chandler.holds.any (fun h => h.bind == b && h.left == 0) = true → exec (.residencyHoldExpiry b) s =
      .next { s with chandler := { s.chandler with holds := s.chandler.holds.filter (fun h => !(h.bind == b && h.left == 0)) } }) ∧
    (s.taken ≠ [] → s.roomNeeded = true →
      (∀ x ∈ s.taken, ∀ i ∈ s.unshared (s.rootOf x), s.countAvail evictWho i = true) →
      exec .eviction s = .next ((s.taken.foldl State.evict s).releaseCounts evictWho) ∧
      (∃ x ∈ s.taken, s.unshared (s.rootOf x) ≠ []) ∧
      ∀ x ∈ s.taken, s.evictable x = true ∧
        ∀ y ∈ s.records, s.evictable y = true → y ∉ s.taken → s.victimBefore y x = false) ∧
    (d < 128 →
      let slot (t : State) := (t.district d).kv.map (fun k => (k.kick, k.status, k.moved))
      (s.waitingKick d = some kick → (s.district d).kvMarked = false → s.waitersAt (kickAddr d) = [] →
        (s.wordMeta (kickAddr d)).hold = none → (s.wordMeta (kickAddr d)).holdRec = none →
        let w := s.kvRecord d kick
        let old := s.entry (kvRoot w) (kvLayer w) (kvBlk w)
        let takes (i : Instr) (st moved : Nat) : Prop := ∃ t, exec i s = .next t ∧ slot t = some (kick, some st, moved) ∧
          (t.wordMeta (kickAddr d)).full = false
        (s.kvBad w = true → takes (.kvFetch d) 3 0) ∧
        (s.kvBad w = false → kvOp w = 0 →
          (entTier old = 2 → takes (.kvFetch d) 1 0) ∧ (entTier old = 0 → takes (.kvFetch d) 2 0) ∧
          (entTier old = 1 → s.waiters = [] → s.countAvail (portWho d) (entRci old) = true →
            takes (.kvFetch d) 0 (rawSize (s.dir (kvRoot w))))) ∧
        (s.kvBad w = false → kvOp w = 1 →
          (entTier old = 2 → takes (.kvStore d) 1 0) ∧
          (entTier old = 1 → s.waiters = [] → s.countAvail (portWho d) (entRci old) = true → s.kvFresh old = false →
            takes (.kvStore d) 0 (rawSize (s.dir (kvRoot w)))))) ∧
      ((s.district d).kv = some run → run.status = none → run.parked = false → (s.district d).kvMarked = false →
        s.kvBad run.record = false → s.waiters = [] →
        let w := run.record
        let old := s.entry (kvRoot w) (kvLayer w) (kvBlk w)
        let bytes := rawSize (s.dir (kvRoot w))
        let ends (st moved : Nat) (t : State) : Prop := slot t = some (run.kick, some st, moved)
        (kvOp w = 0 →
          (entTier old = 2 → ∃ t, exec (.kvFetch d) s = .next t ∧ ends 1 0 t ∧ t.mem = s.mem) ∧
          (entTier old = 0 → ∃ t, exec (.kvFetch d) s = .next t ∧ ends 2 0 t ∧ t.mem = s.mem) ∧
          (entTier old = 1 → s.countAvail (portWho d) (entRci old) = true → ∃ t, exec (.kvFetch d) s = .next t ∧ ends 0 bytes t ∧
            ∀ i, i < bytes / 8 → t.readWord (kvData d w + 8 * i) =
              BitVec.ofNat 64 (natOfBytes (((s.raw (entLoc old)).1.drop (8 * i)).take 8)))) ∧
        (kvOp w = 1 →
          (entTier old = 2 → ∃ t, exec (.kvStore d) s = .next t ∧ ends 1 0 t ∧ t.mem = s.mem) ∧
          (entTier old = 1 → s.countAvail (portWho d) (entRci old) = true → s.kvFresh old = false →
            ∃ t, exec (.kvStore d) s = .next t ∧ ends 0 bytes t ∧ t.raw (entLoc old) = s.kvSource d w) ∧
          (∀ c, entTier old = 0 → s.newCount (portWho d) = some c → s.hbmRoom (d / 16) = some a →
            ∃ t, exec (.kvStore d) s = .next t ∧ ends 0 bytes t))) ∧
      ((s.district d).kv = some run → run.status = some n → n < 256 → run.parked = false →
        (bit (wordAt run.record 3) 63 = false → n = 0 → exec (.kvCommandComplete d) s =
          .next (s.setDistrict d { s.district d with kv := none })) ∧
        (∀ pa, pa = sramBaseOf d + fld (wordAt run.record 3) 21 3 * 8 → bit (wordAt run.record 3) 63 = true →
          s.waitersAt pa = [] → (s.wordMeta pa).full = false → (s.wordMeta pa).hold = none → (s.wordMeta pa).holdRec = none →
          run.moved < 2 ^ 56 → ∃ t, exec (.kvCommandComplete d) s = .next t ∧ (t.district d).kv = none ∧
            t.mem = Memory.writeN s.mem pa 8 (n * 2 ^ 56 + run.moved) ∧ (t.wordMeta pa).full = true)))
/-! ## The host, the links and the management side (chapters 19, 20, 22 and 23) -/

/-- R378 to R381, R376: the port handles the first word of its oldest request in its row: plain and fill reads answer the word's
bytes and poison, a plain write stores bytes, a fill write fills an empty word, the state view reads F, X, whether a HOLD stands and whether waiters
do, and sets F as FEST, and a write of no effect changes no word; a snoop is answered with a miss. HOST_PLAIN_READ, HOST_PLAIN_WRITE,
HOST_FILL_READ, HOST_FILL_WRITE, HOST_STATE_READ, HOST_STATE_WRITE_EMPTY, HOST_STATE_WRITE_FULL, HOST_STATE_WRITE_NONE and
HOST_SNOOP each answer a next state so.
The model's own choices in it: log entry 67. -/
def Obligations.HostRequests : Prop :=
  ∀ (s : State) (req : HostReq) (rest : List HostReq) (off size val : Nat),
    s.memoryCanonical → s.wordErrors = [] → s.postedBy (.host 0) (fun _ => true) = false → s.host.requests = req :: rest → s.host.trained = true → s.power = .glow ∨ s.power = .dim →
    req.parts = (off, size, val) → size ≠ 0 → bits off 41 2 ≠ 3 → bit (s.host.hwseg.toList.getD (bits off 36 5) 0) 0 = true →
    let pa := s.hostPa off
    let w := wordOfAddr pa
    let m := s.wordMeta w
    let n := min size (8 - off % 8)
    let v := val % 2 ^ (8 * n)
    hasMeta pa = true → isKick w = false → pa % 8 = off % 8 →
    let left := if size ≤ n then rest else req.after n :: rest
    let s0 : State := { s with host := { s.host with requests := left } }
    let read (v : Word) (x : Bool) : Out := .next { s with host := if size ≤ n
      then { s.host with requests := left, answer := s.host.part ++ [(v, x)], part := [] }
      else { s.host with requests := left, part := s.host.part ++ [(v, x)] } }
    let bytes := BitVec.ofNat 64 (s.readN pa n)
    let sets (i : Instr) (full : Bool) : Prop := ∃ u, exec i s = .next u ∧ u.mem = s.mem ∧ u.host = s0.host ∧
      u.wordMeta w = ⟨full, m.poison, none, none, 0⟩ ∧ ∀ x, x ≠ w → u.wordMeta x = s.wordMeta x
    exec .hostSnoop s = .next s ∧
    (req.row = 4 → exec .hostStateRead s = read (BitVec.ofNat 64 (bits ((if m.full then 1 else 0) + (if m.poison then 2 else 0) +
      (if m.hold.isSome then 4 else 0) + (if s.waitersAt w = [] then 0 else 8)) (off % 8 * 8) (8 * n))) false) ∧
    (s.wayBlocked pa = none → s.waitersAt w = [] → m.holdRec = none → m.hold = none →
    (req.row = 0 → exec .hostPlainRead s = read bytes m.poison) ∧
    (req.row = 2 → exec .hostFillRead s = read bytes m.poison) ∧
    (req.row = 1 → ∃ u, exec .hostPlainWrite s = .next u ∧ u.mem = Memory.writeN s.mem pa n v ∧ u.host = s0.host ∧
      u.wordMeta w = (if n = 8 then { m with poison := false } else m)) ∧
    (n = 8 →
      (req.row = 3 → m.full = false → ∃ u, exec .hostFillWrite s = .next u ∧ u.mem = Memory.writeN s.mem pa 8 v ∧
        u.wordMeta w = ⟨true, false, none, none, 0⟩ ∧ u.host = s0.host) ∧
      (req.row = 5 → sets .hostStateWriteEmpty false) ∧ (req.row = 6 → sets .hostStateWriteFull true) ∧
      (req.row = 7 → v = 0 → exec .hostStateWriteNone s = .next s0)))

/-- R210, R384 to R387: links train and fall; a remote access that its window admits performs as its view says for the peer (a load
as LD, LDW, LDC or LRW, a store as ST, STF, STE or SCH), and one it does not admit is answered with its reason and changes no word; a receiver's refusal, whether the access is on its way or
waits at the peer, is answered with cause 0x36, or reported for a posted store. HOST_LINK_TRAINED, HOST_PORT_LINK_DOWN,
BEACON_LINK_TRAINED, LINK_DOWN, PEER_ACCESS_ARRIVAL and PEER_ACCESS_REFUSED each answer a next state so.
The model's own choices in it: log entries 5, 68. -/
def Obligations.LinksAndPeers : Prop :=
  ∀ (s : State) (p : Fin 8) (q : Port) (id : Nat) (a : Access) (reason : Fin 8) (cause : BitVec 8) (sender o pa port : Nat) (v : Word),
    (s.power ≠ .dark → s.host.trained = false → exec .hostLinkTrained s = .next { s with host := { s.host with trained := true } }) ∧
    (s.host.trained = true → exec .hostPortLinkDown s = .next { s with host := { s.host with trained := false } }) ∧
    (s.power ≠ .dark → s.portUp p.val = false → ∃ t, exec (.beaconLinkTrained p) s = .next t ∧ t.portUp p.val = true ∧
      ∀ i : Fin 8, i ≠ p → t.ports[i] = s.ports[i]) ∧
    (s.portUp p.val = true → ∃ t, exec (.linkDown p) s = .next t ∧ t.portUp p.val = false ∧ t.holders = s.holders.filter (fun h => h.port != p.val)) ∧
    (s.msg? id = some (.access a) → regionOf a.pa = .peer port → reason ≠ 0 →
      let code : Word := if reason = 6 then BitVec.ofNat 64 cause.toNat else 0
      (a.posted = false → exec (.peerAccessRefused id reason cause) s =
        .next ((s.take id).answer a (.fault 0x36 reason.val a.va (BitVec.ofNat 64 a.pa) code))) ∧
      (∀ t, a.posted = true → a.who = .thread t → exec (.peerAccessRefused id reason cause) s =
        .next ((s.take id).send (replyPath a.pa 0) (.refusedStore t a.launch a.pc 0x36 reason.val a.va a.pa)))) ∧
    (∀ w, s.msg? id = none → s.waiters = [(w, [⟨a, id, none⟩])] → regionOf w = .peer port → reason ≠ 0 → a.posted = false →
      exec (.peerAccessRefused id reason cause) s = .next ((s.dropWaiters w (fun x => x.seq == id)).answer a
        (.fault 0x36 reason.val a.va (BitVec.ofNat 64 a.pa) (if reason = 6 then BitVec.ofNat 64 cause.toNat else 0)))) ∧
    (s.ports[p] = q → q.up = true → s.power = .glow ∨ s.power = .dim → o < 2 ^ 44 → s.wordErrors = [] →
      let va := q.pwbase + BitVec.ofNat 64 o
      let m := s.wordMeta pa
      let load (view : Nat) : PeerReq := .load sender (view * 2 ^ 44 + o) 8
      let store (view : Nat) : PeerReq := .store sender (view * 2 ^ 44 + o) 8 v false
      let refused (req : PeerReq) (reason cause pa : Nat) : Prop := ∃ t, exec (.peerAccessArrival p req) s = .next t ∧ t.mem = s.mem ∧
        t.marks = s.marks ∧
        (t.ports[p]).answer = some (sender, [.fault 0x36 reason va (BitVec.ofNat 64 pa) (BitVec.ofNat 64 cause)])
      let performs (req : PeerReq) (mem : List Host.Cell) (after : Meta) (r : Reply) : Prop := ∃ t, exec (.peerAccessArrival p req) s = .next t ∧
        t.mem = mem ∧ t.wordMeta pa = after ∧ (∀ x, x ≠ pa → t.wordMeta x = s.wordMeta x) ∧
        ∃ f n, f ∈ t.flight ∧ f.msg = .unitReply (.peer p.val n) r
      (bit q.pwctl 0 = false → refused (load 0) 1 0 0) ∧
      (bit q.pwctl 0 = true → fld q.pwlim 55 16 < va.toNat / 65536 → refused (load 0) 2 0 0) ∧
      (bit q.pwctl 0 = true → va.toNat / 65536 ≤ fld q.pwlim 55 16 →
        (bit q.pwctl 1 = false → refused (store 0) 3 0 0) ∧
        (bit q.pwctl 2 = false → refused (load 1) 3 0 0 ∧ refused (load 2) 3 0 0) ∧
        (bit q.pwctl 3 = false → refused (load 3) 3 0 0) ∧
        (∀ c, s.windowAddr q .load va = .error c → refused (load 0) 6 c 0) ∧
        (s.windowAddr q .load va = .ok pa → va.toNat % 8 ≠ 0 → refused (load 0) 6 0x23 pa) ∧
        (va.toNat % 8 = 0 → hasMeta pa = true → isKick pa = false → pa % 8 = 0 → s.wayBlocked pa = none → s.waitersAt pa = [] →
          m.hold = none → m.holdRec = none →
          let value := Reply.value (s.readWord pa) m.poison
          let stored := Memory.writeN s.mem pa 8 v.toNat
          (s.windowAddr q .load va = .ok pa →
            performs (load 0) s.mem m value ∧
            (bit q.pwctl 2 = true → m.full = true → performs (load 1) s.mem m value)) ∧
          (s.windowAddr q .store va = .ok pa →
            (bit q.pwctl 1 = true → performs (store 0) stored { m with poison := false } .done ∧
              (bit q.pwctl 2 = true → m.full = false → performs (store 1) stored ⟨true, false, none, none, 0⟩ .done) ∧
              (bit q.pwctl 2 = true → m.full = true → performs (store 2) stored { m with poison := false } .done) ∧
              (bit q.pwctl 3 = true → s.holders = [] → refused (store 3) 5 0 pa)) ∧
            (bit q.pwctl 2 = true → m.full = true → performs (load 2) s.mem { m with full := false } value) ∧
            (bit q.pwctl 3 = true → m.full = true → s.roomAt pa true = .table → s.holders = [] →
              ∃ t n, exec (.peerAccessArrival p (load 3)) s = .next t ∧ t.mem = s.mem ∧ (t.wordMeta pa).full = false ∧
                (t.wordMeta pa).hold = some (.peer p.val n) ∧ t.holders = [⟨p.val, sender, pa, n⟩])))))

/-- R437, R440 to R443, R296, R410, R414: the management commands, each of which completes with its RC, clears BUSY and raises SEQ,
or waits for the refill boundary, or takes the module dark; a write to BAR 0; and module reset. POWER_GLOW, POWER_DIM,
POWER_EMBER, POWER_DARK, CHANDLER_CONFIG, CHANDLER_PAUSE_ADMISSION, CHANDLER_RESUME_ADMISSION, LOGREAD, REPAIRS, ATTEST,
FWSTAGE, IDENTITY, UNKNOWN_MGMT_OP, REGISTER_WRITE and MODULE_RESET each answer a next state so.
The model's own choices in it: log entries 17, 18, 47, 69, 85. -/
def Obligations.ManagementCommands : Prop :=
  ∀ (s : State) (off : Nat) (v : Word), s.wordErrors = [] →
    let m := s.mgmt
    let op := fld m.cmd 15 0
    let ended (rc : Nat) (t : State) : Prop := fld t.mgmt.sts 55 48 = rc ∧ bit t.mgmt.sts 63 = false ∧ bit t.mgmt.cmd 63 = false ∧
      fld t.mgmt.sts 31 0 = (fld m.sts 31 0 + 1) % 2 ^ 32
    let ends (rc : Nat) (i : Instr) : Prop := ∃ t, exec i s = .next t ∧ ended rc t ∧ t.mem = s.mem ∧ t.threads = s.threads
    let basic : Prop := bit m.cmd 62 = false
    (m.busy = true → m.recovery = false → fld m.cmd 47 32 ≤ 1024 →
      (op = 1 → m.idlePower = true → m.word 0 = 3 → s.power = .ember → ∃ t, exec .powerDark s = .next t ∧ t.power = .dark ∧ t.threads = [] ∧ t.log = [] ∧
        t.repairs = s.repairs ∧ t.mgmt.flashA = m.flashA ∧ t.mgmt.flashB = m.flashB) ∧
      (op = 1 → m.word 0 = 3 → s.power ≠ .ember → basic → ends 3 .powerDark) ∧
      (op = 1 → m.idlePower = true → m.word 0 = 2 → s.power ≠ .ember → s.quietForEmber = true → ∃ t, exec .powerEmber s = .next t ∧ ended 0 t ∧ t.power = .ember ∧
        t.div = s.div) ∧
      (op = 1 → m.idlePower = true → m.word 0 = 2 → s.power ≠ .ember → s.quietForEmber = false → ends 3 .powerEmber) ∧
      (op = 1 → m.word 0 = 0 → basic → m.powering = none → s.power = .glow ∨ s.power = .dim → ∃ t, exec .powerGlow s = .next t ∧
        t.power = s.power ∧ t.mgmt.powering = some (.glow, 1) ∧ ∀ c, c < 16384 → (t.core c).newRefill = some 0x1000) ∧
      (op = 1 → m.word 0 = 1 → basic → m.powering = none → s.power = .glow ∨ s.power = .dim → ∃ t, exec .powerDim s = .next t ∧
        t.power = s.power ∧ t.mgmt.powering = some (.dim, 2) ∧ ∀ c, c < 16384 → (t.core c).newRefill = some 0x800) ∧
      (∀ q n, op = 1 → m.powering = some (q, n) → (∀ c, c < 16384 → (s.core c).newRefill = none) →
        (m.word 0 = 0 → ∃ t, exec .powerGlow s = .next t ∧ ended 0 t ∧ t.power = q ∧ t.div = n) ∧
        (m.word 0 = 1 → ∃ t, exec .powerDim s = .next t ∧ ended 0 t ∧ t.power = q ∧ t.div = n)) ∧
      (op = 2 → basic → (∀ u, s.configure (m.word 0).toNat = some u → ∃ t, exec .chandlerConfig s = .next t ∧ ended 0 t ∧
          t.chandler = u.chandler) ∧
        (s.configure (m.word 0).toNat = none → ends 2 .chandlerConfig)) ∧
      (op = 2 → bit m.cmd 62 = true → m.word 0 = 0 →
        (m.word 1 = 1 → ∃ t, exec .chandlerPauseAdmission s = .next t ∧ ended 0 t ∧ t.chandler = { s.chandler with paused := true }) ∧
        (m.word 1 = 2 → ∃ t, exec .chandlerResumeAdmission s = .next t ∧ ended 0 t ∧ t.chandler = { s.chandler with paused := false })) ∧
      (op = 3 → basic → ends 0 .logread) ∧
      (op = 4 → basic → ∃ t, exec .repairs s = .next t ∧ ended 0 t ∧
        t.mgmt.payload.take 2 = [BitVec.ofNat 64 s.repairs.length, BitVec.ofNat 64 s.withheldCount]) ∧
      (op = 5 → ∃ t, exec .attest s = .next t ∧ ended 0 t ∧ 498 ≤ fld t.mgmt.sts 47 32) ∧
      (op = 1 → bit m.cmd 62 = true → m.word 1 = 0 ∨ 8 < (m.word 1).toNat ∨ (m.word 2).toNat < 64 ∨ 0xFFFF < (m.word 2).toNat →
        (m.word 0 = 2 → ends 2 .powerEmber) ∧ (m.word 0 = 3 → ends 2 .powerDark)) ∧
      (op = 6 → basic → (m.word 0).toNat + (m.word 1).toNat ≤ 2 ^ 50 →
        let image := (List.range (m.word 1).toNat).map (fun i => Memory.read s.mem (hostBase + (m.word 0).toNat + i))
        (imagesOk image = true → ∃ t, exec .fwstage s = .next t ∧ ended 0 t ∧ t.mgmt.slotB = !m.slotB ∧
          (if m.slotB then t.mgmt.flashA = image ∧ t.mgmt.flashB = m.flashB else t.mgmt.flashB = image ∧ t.mgmt.flashA = m.flashA)) ∧
        (imagesOk image = false → ends 4 .fwstage)) ∧
      (op = 7 → ends 0 .identity)) ∧
    (m.busy = true → op = 0 ∨ 7 < op → ends 1 .unknownMgmtOp) ∧
    (s.host.trained = true → s.power ≠ .dark → off % 8 = 0 →
      (∀ i : Fin 32, off = 0x1000 + 8 * i.val → exec (.registerWrite off v) s = .next { s with host := { s.host with
        hwseg := s.host.hwseg.set i.val (v &&& 0x000FFFF000000001#64) } }) ∧
      (off = 0x3000 → m.busy = false → exec (.registerWrite off v) s = .next { s with mgmt := { m with
        cmd := v &&& 0xC000FFFF0000FFFF#64, sts := if bit v 63 then m.sts ||| 0x8000000000000000#64 else m.sts } })) ∧
    (∃ t, exec .moduleReset s = .next t ∧ t.threads = [] ∧ t.cores = [] ∧ t.flight = [] ∧ t.waiters = [] ∧ t.launches = [] ∧ t.cycle = 0 ∧
      t.power = .glow ∧ t.log = s.log ∧ t.repairs = s.repairs.map (fun p => (p.1, remap p.2)) ∧ t.mgmt.recovery = m.boots.isNone)

/-- R406, R407, R237, R413, R402, R400, R284: a hop's good verdict on a chunk changes nothing, a corrected one writes a transient
log entry, a mismatch poisons the chunk, but for a page move's, writes a lasting log entry and flares: a record of class 4 to
the service core of a launch without a fault mailbox, or the row named to the step's open binding; the residue tree's verdicts do the same for a K-block; an automatic fence
ends every thread inside its region; a record offered to a fault mailbox takes its place, or goes to the service core when CAP
is bad; firmware answers a fault in a growing stack whose page is mapped, or calls a fault in the guard page an overflow.
CHUNK_HOP_CHECK, AUTO_FENCE, FMBX_RECORD_OFFER and STACK_GROWTH each answer a next state so.
The model's own choices in it: log entries 20, 28, 59, 60, 62, 83. -/
def Obligations.FaultHandling : Prop :=
  ∀ (s : State) (hop chunk n cl : Nat) (locn : BitVec 32) (tr : Transfer) (r : Snuff) (f : FmbxRec) (rest : List FmbxRec)
      (x : Record) (l : Launch) (base : Int) (leaf : Leaf) (run : MatRun) (bd : Bind),
    let corrects (t : State) : Prop := ∃ e, t.log = mset s.log (s.logSeq % 4096) e ∧ t.mem = s.mem ∧ t.marks = s.marks ∧
      fld e[0] 62 61 = 1 ∧ fld e[0] 59 52 = 0x19
    (hop ≠ 5 → s.transferOf hop (4096 * chunk) = some tr →
      exec (.chunkHopCheck hop locn chunk .good) s = .next s ∧
      (∃ t, exec (.chunkHopCheck hop locn chunk .corrected) s = .next t ∧ corrects t) ∧
      (∃ t, exec (.chunkHopCheck hop locn chunk .mismatch) s = .next t ∧ t.mem = s.mem ∧
        (tr.eng ≠ 4224 → ∀ i, i < 512 → (t.wordMeta (tr.dst + 8 * i)).poison = true) ∧
        (∃ e, t.log = mset s.log (s.logSeq % 4096) e ∧ fld e[0] 62 61 = 2 ∧ fld e[0] 59 52 = 0x19) ∧
        (s.launchOf tr.launch = some l → hop < 2 ^ 16 →
          (l.step = none → l.fmbx = 0 → ∃ g r, g ∈ t.flight ∧ g.msg = .record (svcBase + districtOf tr.name.core) r ∧
            fld r[0] 63 60 = 4 ∧ fld r[0] 59 52 = 0x19 ∧ fld r[0] 51 36 = hop ∧ r[4] = tr.launch ∧ fld r[6] 31 0 = locn.toNat) ∧
          (∀ b q, l.step = some (b, q) → s.bind b = some bd → bd.isOpen = true → bd.stepseq.toNat = q → bd.reex = false →
            tr.rowp ≠ 0 → ∃ y, t.bind b = some y ∧ y.flared = bd.flared ++ [tr.rowp - 1])))) ∧
    (cl < 2048 → locn.toNat = 7 * 2 ^ 28 + cl → (s.cluster cl).mat.run = some run → run.cmd.fn = 0 → run.consumed = true →
      run.finished = false →
      exec (.chunkHopCheck 5 locn chunk .good) s = .next s ∧
      (∃ t, exec (.chunkHopCheck 5 locn chunk .corrected) s = .next t ∧ corrects t) ∧
      exec (.chunkHopCheck 5 locn chunk .mismatch) s = .next (s.residueFail cl run
        (((s.cluster cl).tile run.cmd.tile.val).activeRows.map (fun p => p.1)) (chunk / 64 % 64) (chunk % 64))) ∧
    (s.snuffs.toList[n]? = some r → r.en = true → r.auto = true → r.fenced = false →
      (∀ m ∈ s.flight, match m.msg with
        | .sys _ (.snuff k 2 _) _ _ => k ≠ n
        | _ => True) →
      ∃ t, exec (.autoFence n) s = .next t ∧
      ∀ k, k < 16384 → r.covers (k / 8) = true → ∀ slot, slot < 8 → t.thread (tid k slot) = none) ∧
    (s.fmbxQueue = f :: rest →
      let s0 : State := { s with fmbxQueue := rest }
      ∀ u1 u pc ph c head, s0.fmbxLoad f (f.addr + 8) = (.value pc c, u1) → u1.fmbxLoad f f.addr = (.value ph head, u) →
        let cap := c.toNat
        let place := f.addr + 64 + BitVec.ofNat 64 (64 * (head.toNat % cap))
        (cap = 0 ∨ 1024 < cap ∨ 1024 % cap ≠ 0 → exec .fmbxRecordOffer s =
          .next (u.sendRecord (svcBase + f.district) f.record)) ∧
        (∀ q u2, cap ≠ 0 → cap ≤ 1024 → 1024 % cap = 0 → u.fmbxWord f .load place = (some q, u2) → u2.wordErrors = [] → hasMeta q = true →
          ((u2.wordMeta (wordOfAddr q)).full = false → ∀ t, u2.fmbxStores f (fmbxOffer f place head 0 false) = (true, t) →
            exec .fmbxRecordOffer s = .next t) ∧
          ((u2.wordMeta (wordOfAddr q)).full = true → ∀ pl lost u3 t, u2.fmbxLoad f (f.addr + 16) = (.value pl lost, u3) →
            u3.fmbxStores f (fmbxOffer f place head lost true) = (true, t) → exec .fmbxRecordOffer s = .next t))) ∧
    ((s.core svcBase).mailbox = [x] → s.growRecord x = some (l, base) → s.wordErrors = [] → fld l.space 39 0 ≠ 0 →
      let s0 := s.setCore svcBase { s.core svcBase with mailbox := [] }
      (base + 0x10000 ≤ (x[2].toNat : Int) → s.walk l.space x[2].toNat = .ok leaf → exec .stackGrowth s = .next (s0.growRetry x)) ∧
      ((x[2].toNat : Int) < base + 0x10000 → exec .stackGrowth s = .next (s0.stackOverflow x)))

/-! ## A step, a turn and a bundle (chapters 2 and 5) -/

/-- R14, R15, R38, R84, R86: a turn of a thread that may issue runs the bundle at its program counter: when the bytes there decode to
a well-formed bundle, no repetition is in progress and the core's balance covers its charge, the step is `exec` of its two
slots, each reading the thread as it stood, followed by `commit`, which moves the thread past the bundle or to its target; the V
slot of a bundle with a MIG or a LAUNCH goes behind it; where the A slot stops the bundle, that stop is the one that happens.
The model's own choices in it: log entries 30, 63, 78, 80. -/
def Obligations.StepRunsTheBundle : Prop :=
  ∀ (s : State) (core slot : Nat) (rest : List Move) (th : Thread) (pa : Nat) (b : Bundle),
    s.power = .glow ∨ s.power = .dim → s.agenda = .turn core slot :: rest →
    let s0 : State := { s with agenda := rest }
    s.thread (tid core slot) = some th → th.woke ≠ s.cycle + 1 → th.run = .run → th.pend = [] → th.hold = false → th.stopq = false → th.ahead = [] →
    (s.core core).starved.getLsbD slot = false → th.rep.act = false → th.rep.cap = false → s.translate core slot th.space th.priv .fetch th.pc = .ok pa → s.wayBlocked pa = none → isPeer pa = false →
    mget s.wordErrors (wordOfAddr pa) = none → s.isPoisonAt pa = false →
    let w := s.busWord (wordOfAddr pa)
    decodeBundle (isSvc core) w = .ok b → repBad th.rep b.v = false →
    vCharge b.v th.vl.toNat ≤ (s.core core).balance.toNat →
    let s1 : State := { s0 with iss := ⟨true, core, slot, th.pc, w, .nopA 0, 0, false, th, th, th.pc + 8, false, false⟩ }
    let p : Plan := ⟨b.a, b.v, b.aw, b.vw, false, false, none, vCharge b.v th.vl.toNat⟩
    let inA (s : State) : State := { s with iss := { s.iss with instr := b.a, word := b.aw, vslot := false } }
    let inV (s : State) : State := { s with iss := { s.iss with instr := b.v, word := b.vw, vslot := true } }
    let stops (u : State) : Out := .next (u.endIssue { u.iss.live with skipDest := loadDest b.a })
    ∀ ua, exec b.a (inA s1) = .next ua →
      (ua.iss.stopped = true → step s = stops ua) ∧
      (ua.iss.stopped = false → ∀ uv, exec b.v (inV s1) = .next uv →
        (uv.iss.stopped = true → step s = stops uv) ∧
        (uv.iss.stopped = false → migrates ua.iss.live = true → (deferV p ua).iss.stopped = false →
          step s = (deferV p ua).commit exec p) ∧
        (uv.iss.stopped = false → migrates ua.iss.live = false → ∀ t, exec b.v (inV ua) = .next t →
          step s = if t.iss.stopped then stops t else t.commit exec p))

/-- R15, R107, R113, R38, R43, R44, R139: what `commit` does with a bundle that has taken effect and left its thread with nothing to
wait for: the thread stands where control went, the block signature has taken the bundle in, the charge is paid, and memory is as
it was. While replay runs, the V slot's word is the captured instruction at POS, its register fields moved on by the strides, and
after the last iteration ACT clears. REPLAY_ISSUE and REPLAY_COMPLETE each answer a next state so.
The model's own choices in it: log entries 22, 74, 75. -/
def Obligations.CommitAndReplay : Prop :=
  (∀ (s : State) (p : Plan), p.waits = false → p.replay = false → p.captured = none → s.iss.live.pend = [] → s.iss.live.exiting = false →
    s.iss.snap.prepaid = false → s.wordErrors = [] →
    ∃ t th, s.commit exec p = .next t ∧ t.thread (tid s.iss.core s.iss.slot) = some th ∧ th.pc = s.iss.next ∧ th.regs = s.iss.live.regs ∧
      th.present = s.iss.live.present ∧ th.poison = s.iss.live.poison ∧ th.pred = s.iss.live.pred ∧ th.flags = s.iss.live.flags ∧
      th.vregs = s.iss.live.vregs ∧ th.run = s.iss.live.run ∧ th.prepaid = false ∧
      (p.a.isSig = true → th.sig = s.iss.live.sig) ∧
      (p.a.isSig = false → th.sig.state = hashBundle s.iss.live.sig.state p.aw p.vw (s.iss.snap.predAt (oct p.aw.toNat 0)) s.iss.taken) ∧
      t.mem = s.mem ∧ t.marks = s.marks ∧ (t.core s.iss.core).balance = (s.core s.iss.core).balance - BitVec.ofNat 16 p.cost) ∧
  (∀ (s : State) (w : Lane) (i : Instr), s.iss.active = true →
    (s.iss.snap.rep.act = true → s.iss.snap.rep.code[s.iss.snap.rep.pos]? = some w → decodeV w.toNat = .ok i →
      let now := restrideInstr s.iss.snap.rep.iter.toNat s.iss.snap.rep.sd s.iss.snap.rep.sa s.iss.snap.rep.sb i
      exec .replayIssue s = .next { s with iss := { s.iss with instr := now, word := vWord now, vslot := true } }) ∧
    (s.iss.live.rep.act = true → s.iss.live.rep.pos + 1 = s.iss.live.rep.code.length →
      s.iss.live.rep.iter.toNat + 1 = s.iss.live.rep.count.toNat →
      exec .replayComplete s = .next (live (fun th => { th with rep := { th.rep with pos := 0, iter := 0, act := false } }) s)))

/-- A step of the module that is the next move of the cycle is `exec` of it, and one whose condition does not hold is passed
over; the word an agent program issues next is `exec` of the instruction its bits decode to; a message at its die bridge passes it.
The model's own choices in it: log entry 30. -/
def Obligations.StepRunsTheEvent : Prop :=
  ∀ (s : State) (rest : List Move), s.power = .glow ∨ s.power = .dim →
    let s0 : State := { s with agenda := rest }
    (∀ i t, s.agenda = .event i :: rest → exec i s0 = .next t → step s = .next t) ∧
    (∀ i, s.agenda = .event i :: rest → exec i s0 = .refused .notPending → step s = .next s0) ∧
    (∀ p w i u t, s.agenda = .program p :: rest → s0.programTurn p = (some w, u) → w.fault = none → decodeF w.bits.toNat = .ok i →
      exec i u = .next t → step s = .next t) ∧
    (∀ n, s.agenda = .bridge n :: rest → step s = .next (s0.passBridge n)) ∧
    (s.agenda = [] → step s = .next s.newCycle)

/-! ## Frames -/

/-- R91, R18, R23: an A-slot instruction under a false guard does nothing, SIG alone ignoring its guard; every A-slot instruction
that reads an absent register, its other sources present, leaves its bundle unissued and its thread detached until that register
is present. -/
def Obligations.GuardsAndPresence : Prop :=
  (∀ (s : State) (i : Instr) (w : BitVec 32) (x : Option (BitVec 27)), i.wf = true → encode i = some (.a w x) → i.isSig = false →
    s.iss.snap.predAt (oct w.toNat 0) = false → exec i s = .next s) ∧
  (∀ (s : State) (d a b r : Reg) (pd p g : PReg) (t : Ity) (f : Fty) (x y : Ty) (rm : Rm) (c : Cond) (cr : Creg) (o : MemOrd)
      (sc : Scope) (i12 : Imm 12) (i17 : Imm 17) (i8 : Imm 8) (i3 : Imm 3) (full : Bool) (m : CopyMode) (tag : Fin 64)
      (i : Instr) (srcs : List Reg), s.iss.snap.predAt g = true →
    r ∈ srcs → s.iss.snap.isPresent r = false → (∀ q ∈ srcs, q ≠ r → s.iss.snap.isPresent q = true) →
    (srcs = [a, b] ∧ i ∈ [.add d a b g, .sub d a b g, .mul d a b g, .mulh d a b g, .mulhn d a b g, .div d a b g, .divn d a b g,
        .rem d a b g, .remn d a b g, .and d a b g, .andn d a b g, .or d a b g, .xor d a b g, .shl d a b g, .shr d a b g,
        .shra d a b g, .rol d a b g, .min d a b g, .max d a b g, .minn d a b g, .maxn d a b g, .cmp pd a c t b g, .sel d a b p g,
        .fadd d a b rm f g, .fsub d a b rm f g, .fmul d a b rm f g, .fdiv d a b rm f g, .fmin d a b f g, .fmax d a b f g,
        .fcmp pd a c f b g, .put a d b g, .spawn a b g, .mig a b g, .nred sc a b g, .emitToken a b g, .emitLogp a b g,
        .emitFault a b g, .tstate d a b g, .tsetStop d a b g, .tsetRun d a b g, .tsetSetpc d a b g, .tresumeRetry d a b g,
        .tresumeSkip d a b g, .tresumeGo d a b g, .tresumeStop d a b g, .tkill d a b g, .tkillLaunch d a b g,
        .snuffDefine d a b g, .snuffFence d a b g, .snuffRelease d a b g, .snuffRead d a b g, .tlbfill a b g, .tlbinvPage a b g,
        .tlbinvAsn a b g, .tlbinvAll a b g, .preempt d a b g, .savectx d a b g, .enbud a b g] ∨
      srcs = [a] ∧ i ∈ [.mov d a g, .clz d a g, .ctz d a g, .popc d a g, .sextS8 d a g, .sextS16 d a g, .sextS32 d a g,
        .zextN8 d a g, .zextN16 d a g, .zextN32 d a g, .addi d a i12 g, .lea d a i12 g, .cmpi pd a c t i8 g, .fsqrt d a rm f g,
        .fclass d a f g, .fcvt d a x y rm g, .loop a i17 g, .jmpr a g, .callr a g, .crw cr a g, .crx d cr a g,
        .ld d a t o sc i3 g, .ldw d a t o sc i3 g, .ldc d a t o sc i3 g, .fest full a t o sc i3 g, .feq pd a t o sc i3 g,
        .lrw d a t o sc i3 g, .rcan a t o sc i3 g, .twall a g, .twany a g, .tfirst d a g, .tclr a g, .launch a g, .bar sc a g,
        .wlpush a g, .rrec d a g, .fltrd d a g, .errlog d a g, .mbxwait d a g, .restctx d a g] ∨
      srcs = [d, a] ∧ i ∈ [.st d a t o sc i3 g, .stf d a t o sc i3 g, .ste d a t o sc i3 g, .sch d a t o sc i3 g] ∨
      srcs = [d, a, b] ∧ i ∈ [.fma d a b rm f g, .cpy m d a b tag g, .cpys m d a b tag g, .cpyd m d a b tag g] ∨
      srcs = [d] ∧ i = .movhi d i17 g ∨ srcs = [28] ∧ i = .ret g) →
    exec i s = .next (stopWait 3 (BitVec.ofNat 64 r.val) s))

/-- R15, R173: an instruction of either slot, as it issues, changes no byte and no word's state, no waiter, no thread but through
the issue in progress, no launch, district, port or snuff region, no log entry but for SIG's mismatch, nor the Chandler, the host
port or the management side; what it asks of others leaves in messages or waits with its thread. No word is in error: MSEND
reads its record at issue. -/
def Obligations.SlotFrame : Prop :=
  ∀ (s t : State) (i : Instr) (e : Enc), i.wf = true → encode i = some e → (∀ w, e ≠ .f w) → s.wordErrors = [] →
    exec i s = .next t →
    t.mem = s.mem ∧ t.marks = s.marks ∧ t.waiters = s.waiters ∧ t.threads = s.threads ∧ t.districts = s.districts ∧
      t.launches = s.launches ∧ t.chandler = s.chandler ∧ t.host = s.host ∧ t.mgmt = s.mgmt ∧ t.ports = s.ports ∧ t.cycle = s.cycle ∧
      t.power = s.power ∧ t.snuffs = s.snuffs ∧ (i.isSig = false → t.log = s.log) ∧ t.iss.snap = s.iss.snap ∧ t.iss.pc = s.iss.pc ∧
      t.iss.core = s.iss.core ∧ t.iss.slot = s.iss.slot

/-- R15, R22, R27: an instruction of either slot writes no general register but its destination, and JMPR, BR, stores and the
other instructions without one write none; LOOP counts its own register, CALL and CALLR write g28. ARM makes its register absent,
and leaves its value and poison (R190). -/
def Obligations.RegisterFrame : Prop :=
  ∀ (s t : State) (i : Instr) (e : Enc) (r : Reg), i.wf = true → encode i = some e → (∀ w, e ≠ .f w) → s.iss.live = s.iss.snap →
    exec i s = .next t → i.gdest ≠ some r →
    t.iss.live.reg r = s.iss.live.reg r ∧ t.iss.live.isPoisoned r = s.iss.live.isPoisoned r ∧
      ((∀ g, i ≠ .arm r g) → t.iss.live.isPresent r = s.iss.live.isPresent r)

/-! ## Encodings -/

/-- Words written out from the encoding tables decode to the instructions they stand for. -/
def Obligations.WordsDecodeRight : Prop :=
  decodeA 0x03400440 none = .ok (.remn 20 0 1 0) ∧
  decodeA 0x020080C0 none = .ok (.mov 0 1 0) ∧
  decodeA 0xD0508000 none = .ok (.rrec 5 1 0) ∧
  decodeA 0xD4000000 none = .ok (.stepend 0) ∧
  decodeF 0x0100000000000000 = .ok .halt

/-- R70 to R90: decoding the words that encode a well-formed instruction gives the instruction back, with every operand, for every
instruction of the A slot, the V slot and the agent words: the canonical row of those that share its words.
The model's own choices in it: log entry 32. -/
def Obligations.DecodeOfEncode : Prop :=
  ∀ (i : Instr) (e : Enc), i.wf = true → encode i = some e → decodeEnc e = some i.canon

/-- R70 to R90: a word that decodes is the encoding of the instruction it decodes to: no bit of it is dropped or read twice. -/
def Obligations.EncodeOfDecode : Prop :=
  (∀ (w : BitVec 32) (x : Option (BitVec 27)) (i : Instr), decodeA w.toNat x = .ok i → x = none ∨ i.takesExt = true →
    i.wf = true ∧ encode i = some (.a w x)) ∧
  (∀ (w : BitVec 32) (i : Instr), decodeV w.toNat = .ok i → extOf w.toNat = none → i.wf = true ∧ encode i = some (.v w)) ∧
  (∀ (w : BitVec 64) (i : Instr), decodeF w.toNat = .ok i → i.wf = true ∧ encode i = some (.f w))

/-! ## Invariants and reset -/

/-- Every step keeps memory in its canonical form, from every state, reachable or not.
The model's own choices in it: log entry 4. -/
def Obligations.StepsKeepMemoryCanonical : Prop :=
  ∀ s t : State, s.memoryCanonical → step s = .next t → t.memoryCanonical

/-- R39, R40, R146, R147, R159, R224, R297, R394, R410, R440: what module reset leaves: memory canonical, every byte 0, every
word full, unpoisoned and free but the key-value kick words, which are empty; no thread, message, launch or waiter; GLOW at DIV 1;
each core's REFILL and BALANCE 0x1000 and GUARD0 open over TCM, the other guards 0.
The model's own choices in it: log entries 3, 4. -/
def Obligations.ResetState : Prop :=
  let s := State.reset
  s.memoryCanonical ∧ (∀ a, Memory.read s.mem a = 0) ∧
  (∀ w, (∀ d o, regionOf w ≠ .districtCtl d o) → s.wordMeta w = ⟨true, false, none, none, 0⟩) ∧
  (∀ d, d < 128 → (s.wordMeta (kickAddr d)).full = false) ∧
  s.threads = [] ∧ s.flight = [] ∧ s.launches = [] ∧ s.waiters = [] ∧ s.power = .glow ∧ s.div = 1 ∧ s.cycle = 0 ∧
  (∀ c, (s.core c).refill = 0x1000 ∧ (s.core c).balance = 0x1000 ∧ (s.core c).tags = 0 ∧ (s.core c).dpat = 0 ∧
    (s.core c).guards[0] = 0x7_8000_FFFF_0000#64 ∧ (∀ i : Fin 8, i.val ≠ 0 → (s.core c).guards[i] = 0) ∧ (s.core c).mailbox = []) ∧
  (∀ c, (s.cluster c).holder = none ∧ (s.cluster c).withheld = false ∧ (s.cluster c).mcstamp = 0 ∧ ∀ n, n < 16 → s.segWord c n = 0)
end

