-- ==== Sys2Proof/Laws/State.lean ====
section
/-! SUPPORT. What each update of the state leaves and changes, field by field: no later proof unfolds a record update. -/

namespace Sys2Proof.Machine

/-! ### `State.setCore`: a core put in its place -/

@[simp] theorem State.setCore_iss (s : State) (c k) : (s.setCore c k).iss = s.iss := rfl
@[simp] theorem State.setCore_agenda (s : State) (c k) : (s.setCore c k).agenda = s.agenda := rfl
@[simp] theorem State.setCore_inputs (s : State) (c k) : (s.setCore c k).inputs = s.inputs := rfl
@[simp] theorem State.setCore_fresh (s : State) (c k) : (s.setCore c k).fresh = s.fresh := rfl
@[simp] theorem State.setCore_nextId (s : State) (c k) : (s.setCore c k).nextId = s.nextId := rfl
@[simp] theorem State.setCore_cycle (s : State) (c k) : (s.setCore c k).cycle = s.cycle := rfl
@[simp] theorem State.setCore_div (s : State) (c k) : (s.setCore c k).div = s.div := rfl
@[simp] theorem State.setCore_power (s : State) (c k) : (s.setCore c k).power = s.power := rfl
@[simp] theorem State.setCore_threads (s : State) (c k) : (s.setCore c k).threads = s.threads := rfl
@[simp] theorem State.setCore_cores (s : State) (c k) : (s.setCore c k).cores = mset s.cores c k := rfl
@[simp] theorem State.setCore_clusters (s : State) (c k) : (s.setCore c k).clusters = s.clusters := rfl
@[simp] theorem State.setCore_districts (s : State) (c k) : (s.setCore c k).districts = s.districts := rfl
@[simp] theorem State.setCore_mem (s : State) (c k) : (s.setCore c k).mem = s.mem := rfl
@[simp] theorem State.setCore_marks (s : State) (c k) : (s.setCore c k).marks = s.marks := rfl
@[simp] theorem State.setCore_waiters (s : State) (c k) : (s.setCore c k).waiters = s.waiters := rfl
@[simp] theorem State.setCore_parkSeqs (s : State) (c k) : (s.setCore c k).parkSeqs = s.parkSeqs := rfl
@[simp] theorem State.setCore_wordErrors (s : State) (c k) : (s.setCore c k).wordErrors = s.wordErrors := rfl
@[simp] theorem State.setCore_flitErrors (s : State) (c k) : (s.setCore c k).flitErrors = s.flitErrors := rfl
@[simp] theorem State.setCore_sumWrites (s : State) (c k) : (s.setCore c k).sumWrites = s.sumWrites := rfl
@[simp] theorem State.setCore_flight (s : State) (c k) : (s.setCore c k).flight = s.flight := rfl
@[simp] theorem State.setCore_openReads (s : State) (c k) : (s.setCore c k).openReads = s.openReads := rfl
@[simp] theorem State.setCore_queues (s : State) (c k) : (s.setCore c k).queues = s.queues := rfl
@[simp] theorem State.setCore_cwords (s : State) (c k) : (s.setCore c k).cwords = s.cwords := rfl
@[simp] theorem State.setCore_turn (s : State) (c k) : (s.setCore c k).turn = s.turn := rfl
@[simp] theorem State.setCore_launches (s : State) (c k) : (s.setCore c k).launches = s.launches := rfl
@[simp] theorem State.setCore_groups (s : State) (c k) : (s.setCore c k).groups = s.groups := rfl
@[simp] theorem State.setCore_lgens (s : State) (c k) : (s.setCore c k).lgens = s.lgens := rfl
@[simp] theorem State.setCore_stamp (s : State) (c k) : (s.setCore c k).stamp = s.stamp := rfl
@[simp] theorem State.setCore_fmbxQueue (s : State) (c k) : (s.setCore c k).fmbxQueue = s.fmbxQueue := rfl
@[simp] theorem State.setCore_snuffs (s : State) (c k) : (s.setCore c k).snuffs = s.snuffs := rfl
@[simp] theorem State.setCore_log (s : State) (c k) : (s.setCore c k).log = s.log := rfl
@[simp] theorem State.setCore_logSeq (s : State) (c k) : (s.setCore c k).logSeq = s.logSeq := rfl
@[simp] theorem State.setCore_logLost (s : State) (c k) : (s.setCore c k).logLost = s.logLost := rfl
@[simp] theorem State.setCore_repairs (s : State) (c k) : (s.setCore c k).repairs = s.repairs := rfl
@[simp] theorem State.setCore_chandler (s : State) (c k) : (s.setCore c k).chandler = s.chandler := rfl
@[simp] theorem State.setCore_host (s : State) (c k) : (s.setCore c k).host = s.host := rfl
@[simp] theorem State.setCore_ports (s : State) (c k) : (s.setCore c k).ports = s.ports := rfl
@[simp] theorem State.setCore_holders (s : State) (c k) : (s.setCore c k).holders = s.holders := rfl
@[simp] theorem State.setCore_mgmt (s : State) (c k) : (s.setCore c k).mgmt = s.mgmt := rfl
@[simp] theorem State.setCore_capKey (s : State) (c k) : (s.setCore c k).capKey = s.capKey := rfl

/-! ### `State.setCluster`: a cluster put in its place -/

@[simp] theorem State.setCluster_iss (s : State) (c k) : (s.setCluster c k).iss = s.iss := rfl
@[simp] theorem State.setCluster_agenda (s : State) (c k) : (s.setCluster c k).agenda = s.agenda := rfl
@[simp] theorem State.setCluster_inputs (s : State) (c k) : (s.setCluster c k).inputs = s.inputs := rfl
@[simp] theorem State.setCluster_fresh (s : State) (c k) : (s.setCluster c k).fresh = s.fresh := rfl
@[simp] theorem State.setCluster_nextId (s : State) (c k) : (s.setCluster c k).nextId = s.nextId := rfl
@[simp] theorem State.setCluster_cycle (s : State) (c k) : (s.setCluster c k).cycle = s.cycle := rfl
@[simp] theorem State.setCluster_div (s : State) (c k) : (s.setCluster c k).div = s.div := rfl
@[simp] theorem State.setCluster_power (s : State) (c k) : (s.setCluster c k).power = s.power := rfl
@[simp] theorem State.setCluster_threads (s : State) (c k) : (s.setCluster c k).threads = s.threads := rfl
@[simp] theorem State.setCluster_cores (s : State) (c k) : (s.setCluster c k).cores = s.cores := rfl
@[simp] theorem State.setCluster_clusters (s : State) (c k) : (s.setCluster c k).clusters = mset s.clusters c k := rfl
@[simp] theorem State.setCluster_districts (s : State) (c k) : (s.setCluster c k).districts = s.districts := rfl
@[simp] theorem State.setCluster_mem (s : State) (c k) : (s.setCluster c k).mem = s.mem := rfl
@[simp] theorem State.setCluster_marks (s : State) (c k) : (s.setCluster c k).marks = s.marks := rfl
@[simp] theorem State.setCluster_waiters (s : State) (c k) : (s.setCluster c k).waiters = s.waiters := rfl
@[simp] theorem State.setCluster_parkSeqs (s : State) (c k) : (s.setCluster c k).parkSeqs = s.parkSeqs := rfl
@[simp] theorem State.setCluster_wordErrors (s : State) (c k) : (s.setCluster c k).wordErrors = s.wordErrors := rfl
@[simp] theorem State.setCluster_flitErrors (s : State) (c k) : (s.setCluster c k).flitErrors = s.flitErrors := rfl
@[simp] theorem State.setCluster_sumWrites (s : State) (c k) : (s.setCluster c k).sumWrites = s.sumWrites := rfl
@[simp] theorem State.setCluster_flight (s : State) (c k) : (s.setCluster c k).flight = s.flight := rfl
@[simp] theorem State.setCluster_openReads (s : State) (c k) : (s.setCluster c k).openReads = s.openReads := rfl
@[simp] theorem State.setCluster_queues (s : State) (c k) : (s.setCluster c k).queues = s.queues := rfl
@[simp] theorem State.setCluster_cwords (s : State) (c k) : (s.setCluster c k).cwords = s.cwords := rfl
@[simp] theorem State.setCluster_turn (s : State) (c k) : (s.setCluster c k).turn = s.turn := rfl
@[simp] theorem State.setCluster_launches (s : State) (c k) : (s.setCluster c k).launches = s.launches := rfl
@[simp] theorem State.setCluster_groups (s : State) (c k) : (s.setCluster c k).groups = s.groups := rfl
@[simp] theorem State.setCluster_lgens (s : State) (c k) : (s.setCluster c k).lgens = s.lgens := rfl
@[simp] theorem State.setCluster_stamp (s : State) (c k) : (s.setCluster c k).stamp = s.stamp := rfl
@[simp] theorem State.setCluster_fmbxQueue (s : State) (c k) : (s.setCluster c k).fmbxQueue = s.fmbxQueue := rfl
@[simp] theorem State.setCluster_snuffs (s : State) (c k) : (s.setCluster c k).snuffs = s.snuffs := rfl
@[simp] theorem State.setCluster_log (s : State) (c k) : (s.setCluster c k).log = s.log := rfl
@[simp] theorem State.setCluster_logSeq (s : State) (c k) : (s.setCluster c k).logSeq = s.logSeq := rfl
@[simp] theorem State.setCluster_logLost (s : State) (c k) : (s.setCluster c k).logLost = s.logLost := rfl
@[simp] theorem State.setCluster_repairs (s : State) (c k) : (s.setCluster c k).repairs = s.repairs := rfl
@[simp] theorem State.setCluster_chandler (s : State) (c k) : (s.setCluster c k).chandler = s.chandler := rfl
@[simp] theorem State.setCluster_host (s : State) (c k) : (s.setCluster c k).host = s.host := rfl
@[simp] theorem State.setCluster_ports (s : State) (c k) : (s.setCluster c k).ports = s.ports := rfl
@[simp] theorem State.setCluster_holders (s : State) (c k) : (s.setCluster c k).holders = s.holders := rfl
@[simp] theorem State.setCluster_mgmt (s : State) (c k) : (s.setCluster c k).mgmt = s.mgmt := rfl
@[simp] theorem State.setCluster_capKey (s : State) (c k) : (s.setCluster c k).capKey = s.capKey := rfl

/-! ### `State.setDistrict`: a district put in its place -/

@[simp] theorem State.setDistrict_iss (s : State) (d k) : (s.setDistrict d k).iss = s.iss := rfl
@[simp] theorem State.setDistrict_agenda (s : State) (d k) : (s.setDistrict d k).agenda = s.agenda := rfl
@[simp] theorem State.setDistrict_inputs (s : State) (d k) : (s.setDistrict d k).inputs = s.inputs := rfl
@[simp] theorem State.setDistrict_fresh (s : State) (d k) : (s.setDistrict d k).fresh = s.fresh := rfl
@[simp] theorem State.setDistrict_nextId (s : State) (d k) : (s.setDistrict d k).nextId = s.nextId := rfl
@[simp] theorem State.setDistrict_cycle (s : State) (d k) : (s.setDistrict d k).cycle = s.cycle := rfl
@[simp] theorem State.setDistrict_div (s : State) (d k) : (s.setDistrict d k).div = s.div := rfl
@[simp] theorem State.setDistrict_power (s : State) (d k) : (s.setDistrict d k).power = s.power := rfl
@[simp] theorem State.setDistrict_threads (s : State) (d k) : (s.setDistrict d k).threads = s.threads := rfl
@[simp] theorem State.setDistrict_cores (s : State) (d k) : (s.setDistrict d k).cores = s.cores := rfl
@[simp] theorem State.setDistrict_clusters (s : State) (d k) : (s.setDistrict d k).clusters = s.clusters := rfl
@[simp] theorem State.setDistrict_districts (s : State) (d k) : (s.setDistrict d k).districts = mset s.districts d k := rfl
@[simp] theorem State.setDistrict_mem (s : State) (d k) : (s.setDistrict d k).mem = s.mem := rfl
@[simp] theorem State.setDistrict_marks (s : State) (d k) : (s.setDistrict d k).marks = s.marks := rfl
@[simp] theorem State.setDistrict_waiters (s : State) (d k) : (s.setDistrict d k).waiters = s.waiters := rfl
@[simp] theorem State.setDistrict_parkSeqs (s : State) (d k) : (s.setDistrict d k).parkSeqs = s.parkSeqs := rfl
@[simp] theorem State.setDistrict_wordErrors (s : State) (d k) : (s.setDistrict d k).wordErrors = s.wordErrors := rfl
@[simp] theorem State.setDistrict_flitErrors (s : State) (d k) : (s.setDistrict d k).flitErrors = s.flitErrors := rfl
@[simp] theorem State.setDistrict_sumWrites (s : State) (d k) : (s.setDistrict d k).sumWrites = s.sumWrites := rfl
@[simp] theorem State.setDistrict_flight (s : State) (d k) : (s.setDistrict d k).flight = s.flight := rfl
@[simp] theorem State.setDistrict_openReads (s : State) (d k) : (s.setDistrict d k).openReads = s.openReads := rfl
@[simp] theorem State.setDistrict_queues (s : State) (d k) : (s.setDistrict d k).queues = s.queues := rfl
@[simp] theorem State.setDistrict_cwords (s : State) (d k) : (s.setDistrict d k).cwords = s.cwords := rfl
@[simp] theorem State.setDistrict_turn (s : State) (d k) : (s.setDistrict d k).turn = s.turn := rfl
@[simp] theorem State.setDistrict_launches (s : State) (d k) : (s.setDistrict d k).launches = s.launches := rfl
@[simp] theorem State.setDistrict_groups (s : State) (d k) : (s.setDistrict d k).groups = s.groups := rfl
@[simp] theorem State.setDistrict_lgens (s : State) (d k) : (s.setDistrict d k).lgens = s.lgens := rfl
@[simp] theorem State.setDistrict_stamp (s : State) (d k) : (s.setDistrict d k).stamp = s.stamp := rfl
@[simp] theorem State.setDistrict_fmbxQueue (s : State) (d k) : (s.setDistrict d k).fmbxQueue = s.fmbxQueue := rfl
@[simp] theorem State.setDistrict_snuffs (s : State) (d k) : (s.setDistrict d k).snuffs = s.snuffs := rfl
@[simp] theorem State.setDistrict_log (s : State) (d k) : (s.setDistrict d k).log = s.log := rfl
@[simp] theorem State.setDistrict_logSeq (s : State) (d k) : (s.setDistrict d k).logSeq = s.logSeq := rfl
@[simp] theorem State.setDistrict_logLost (s : State) (d k) : (s.setDistrict d k).logLost = s.logLost := rfl
@[simp] theorem State.setDistrict_repairs (s : State) (d k) : (s.setDistrict d k).repairs = s.repairs := rfl
@[simp] theorem State.setDistrict_chandler (s : State) (d k) : (s.setDistrict d k).chandler = s.chandler := rfl
@[simp] theorem State.setDistrict_host (s : State) (d k) : (s.setDistrict d k).host = s.host := rfl
@[simp] theorem State.setDistrict_ports (s : State) (d k) : (s.setDistrict d k).ports = s.ports := rfl
@[simp] theorem State.setDistrict_holders (s : State) (d k) : (s.setDistrict d k).holders = s.holders := rfl
@[simp] theorem State.setDistrict_mgmt (s : State) (d k) : (s.setDistrict d k).mgmt = s.mgmt := rfl
@[simp] theorem State.setDistrict_capKey (s : State) (d k) : (s.setDistrict d k).capKey = s.capKey := rfl

/-! ### `State.setThread`: a thread put in its place -/

@[simp] theorem State.setThread_iss (s : State) (t th) : (s.setThread t th).iss = s.iss := rfl
@[simp] theorem State.setThread_agenda (s : State) (t th) : (s.setThread t th).agenda = s.agenda := rfl
@[simp] theorem State.setThread_inputs (s : State) (t th) : (s.setThread t th).inputs = s.inputs := rfl
@[simp] theorem State.setThread_fresh (s : State) (t th) : (s.setThread t th).fresh = s.fresh := rfl
@[simp] theorem State.setThread_nextId (s : State) (t th) : (s.setThread t th).nextId = s.nextId := rfl
@[simp] theorem State.setThread_cycle (s : State) (t th) : (s.setThread t th).cycle = s.cycle := rfl
@[simp] theorem State.setThread_div (s : State) (t th) : (s.setThread t th).div = s.div := rfl
@[simp] theorem State.setThread_power (s : State) (t th) : (s.setThread t th).power = s.power := rfl
@[simp] theorem State.setThread_threads (s : State) (t th) : (s.setThread t th).threads = mset s.threads t th := rfl
@[simp] theorem State.setThread_cores (s : State) (t th) : (s.setThread t th).cores = s.cores := rfl
@[simp] theorem State.setThread_clusters (s : State) (t th) : (s.setThread t th).clusters = s.clusters := rfl
@[simp] theorem State.setThread_districts (s : State) (t th) : (s.setThread t th).districts = s.districts := rfl
@[simp] theorem State.setThread_mem (s : State) (t th) : (s.setThread t th).mem = s.mem := rfl
@[simp] theorem State.setThread_marks (s : State) (t th) : (s.setThread t th).marks = s.marks := rfl
@[simp] theorem State.setThread_waiters (s : State) (t th) : (s.setThread t th).waiters = s.waiters := rfl
@[simp] theorem State.setThread_parkSeqs (s : State) (t th) : (s.setThread t th).parkSeqs = s.parkSeqs := rfl
@[simp] theorem State.setThread_wordErrors (s : State) (t th) : (s.setThread t th).wordErrors = s.wordErrors := rfl
@[simp] theorem State.setThread_flitErrors (s : State) (t th) : (s.setThread t th).flitErrors = s.flitErrors := rfl
@[simp] theorem State.setThread_sumWrites (s : State) (t th) : (s.setThread t th).sumWrites = s.sumWrites := rfl
@[simp] theorem State.setThread_flight (s : State) (t th) : (s.setThread t th).flight = s.flight := rfl
@[simp] theorem State.setThread_openReads (s : State) (t th) : (s.setThread t th).openReads = s.openReads := rfl
@[simp] theorem State.setThread_queues (s : State) (t th) : (s.setThread t th).queues = s.queues := rfl
@[simp] theorem State.setThread_cwords (s : State) (t th) : (s.setThread t th).cwords = s.cwords := rfl
@[simp] theorem State.setThread_turn (s : State) (t th) : (s.setThread t th).turn = s.turn := rfl
@[simp] theorem State.setThread_launches (s : State) (t th) : (s.setThread t th).launches = s.launches := rfl
@[simp] theorem State.setThread_groups (s : State) (t th) : (s.setThread t th).groups = s.groups := rfl
@[simp] theorem State.setThread_lgens (s : State) (t th) : (s.setThread t th).lgens = s.lgens := rfl
@[simp] theorem State.setThread_stamp (s : State) (t th) : (s.setThread t th).stamp = s.stamp := rfl
@[simp] theorem State.setThread_fmbxQueue (s : State) (t th) : (s.setThread t th).fmbxQueue = s.fmbxQueue := rfl
@[simp] theorem State.setThread_snuffs (s : State) (t th) : (s.setThread t th).snuffs = s.snuffs := rfl
@[simp] theorem State.setThread_log (s : State) (t th) : (s.setThread t th).log = s.log := rfl
@[simp] theorem State.setThread_logSeq (s : State) (t th) : (s.setThread t th).logSeq = s.logSeq := rfl
@[simp] theorem State.setThread_logLost (s : State) (t th) : (s.setThread t th).logLost = s.logLost := rfl
@[simp] theorem State.setThread_repairs (s : State) (t th) : (s.setThread t th).repairs = s.repairs := rfl
@[simp] theorem State.setThread_chandler (s : State) (t th) : (s.setThread t th).chandler = s.chandler := rfl
@[simp] theorem State.setThread_host (s : State) (t th) : (s.setThread t th).host = s.host := rfl
@[simp] theorem State.setThread_ports (s : State) (t th) : (s.setThread t th).ports = s.ports := rfl
@[simp] theorem State.setThread_holders (s : State) (t th) : (s.setThread t th).holders = s.holders := rfl
@[simp] theorem State.setThread_mgmt (s : State) (t th) : (s.setThread t th).mgmt = s.mgmt := rfl
@[simp] theorem State.setThread_capKey (s : State) (t th) : (s.setThread t th).capKey = s.capKey := rfl

/-! ### `State.dropThread`: a thread gone -/

@[simp] theorem State.dropThread_iss (s : State) (t) : (s.dropThread t).iss = s.iss := rfl
@[simp] theorem State.dropThread_agenda (s : State) (t) : (s.dropThread t).agenda = s.agenda := rfl
@[simp] theorem State.dropThread_inputs (s : State) (t) : (s.dropThread t).inputs = s.inputs := rfl
@[simp] theorem State.dropThread_fresh (s : State) (t) : (s.dropThread t).fresh = s.fresh := rfl
@[simp] theorem State.dropThread_nextId (s : State) (t) : (s.dropThread t).nextId = s.nextId := rfl
@[simp] theorem State.dropThread_cycle (s : State) (t) : (s.dropThread t).cycle = s.cycle := rfl
@[simp] theorem State.dropThread_div (s : State) (t) : (s.dropThread t).div = s.div := rfl
@[simp] theorem State.dropThread_power (s : State) (t) : (s.dropThread t).power = s.power := rfl
@[simp] theorem State.dropThread_threads (s : State) (t) : (s.dropThread t).threads = mdel s.threads t := rfl
@[simp] theorem State.dropThread_cores (s : State) (t) : (s.dropThread t).cores = s.cores := rfl
@[simp] theorem State.dropThread_clusters (s : State) (t) : (s.dropThread t).clusters = s.clusters := rfl
@[simp] theorem State.dropThread_districts (s : State) (t) : (s.dropThread t).districts = s.districts := rfl
@[simp] theorem State.dropThread_mem (s : State) (t) : (s.dropThread t).mem = s.mem := rfl
@[simp] theorem State.dropThread_marks (s : State) (t) : (s.dropThread t).marks = s.marks := rfl
@[simp] theorem State.dropThread_waiters (s : State) (t) : (s.dropThread t).waiters = s.waiters := rfl
@[simp] theorem State.dropThread_parkSeqs (s : State) (t) : (s.dropThread t).parkSeqs = s.parkSeqs := rfl
@[simp] theorem State.dropThread_wordErrors (s : State) (t) : (s.dropThread t).wordErrors = s.wordErrors := rfl
@[simp] theorem State.dropThread_flitErrors (s : State) (t) : (s.dropThread t).flitErrors = s.flitErrors := rfl
@[simp] theorem State.dropThread_sumWrites (s : State) (t) : (s.dropThread t).sumWrites = s.sumWrites := rfl
@[simp] theorem State.dropThread_flight (s : State) (t) : (s.dropThread t).flight = s.flight := rfl
@[simp] theorem State.dropThread_openReads (s : State) (t) : (s.dropThread t).openReads = s.openReads := rfl
@[simp] theorem State.dropThread_queues (s : State) (t) : (s.dropThread t).queues = s.queues := rfl
@[simp] theorem State.dropThread_cwords (s : State) (t) : (s.dropThread t).cwords = s.cwords := rfl
@[simp] theorem State.dropThread_turn (s : State) (t) : (s.dropThread t).turn = s.turn := rfl
@[simp] theorem State.dropThread_launches (s : State) (t) : (s.dropThread t).launches = s.launches := rfl
@[simp] theorem State.dropThread_groups (s : State) (t) : (s.dropThread t).groups = s.groups := rfl
@[simp] theorem State.dropThread_lgens (s : State) (t) : (s.dropThread t).lgens = s.lgens := rfl
@[simp] theorem State.dropThread_stamp (s : State) (t) : (s.dropThread t).stamp = s.stamp := rfl
@[simp] theorem State.dropThread_fmbxQueue (s : State) (t) : (s.dropThread t).fmbxQueue = s.fmbxQueue := rfl
@[simp] theorem State.dropThread_snuffs (s : State) (t) : (s.dropThread t).snuffs = s.snuffs := rfl
@[simp] theorem State.dropThread_log (s : State) (t) : (s.dropThread t).log = s.log := rfl
@[simp] theorem State.dropThread_logSeq (s : State) (t) : (s.dropThread t).logSeq = s.logSeq := rfl
@[simp] theorem State.dropThread_logLost (s : State) (t) : (s.dropThread t).logLost = s.logLost := rfl
@[simp] theorem State.dropThread_repairs (s : State) (t) : (s.dropThread t).repairs = s.repairs := rfl
@[simp] theorem State.dropThread_chandler (s : State) (t) : (s.dropThread t).chandler = s.chandler := rfl
@[simp] theorem State.dropThread_host (s : State) (t) : (s.dropThread t).host = s.host := rfl
@[simp] theorem State.dropThread_ports (s : State) (t) : (s.dropThread t).ports = s.ports := rfl
@[simp] theorem State.dropThread_holders (s : State) (t) : (s.dropThread t).holders = s.holders := rfl
@[simp] theorem State.dropThread_mgmt (s : State) (t) : (s.dropThread t).mgmt = s.mgmt := rfl
@[simp] theorem State.dropThread_capKey (s : State) (t) : (s.dropThread t).capKey = s.capKey := rfl

/-! ### `State.writeN`: bytes written -/

@[simp] theorem State.writeN_iss (s : State) (a n v) : (s.writeN a n v).iss = s.iss := rfl
@[simp] theorem State.writeN_agenda (s : State) (a n v) : (s.writeN a n v).agenda = s.agenda := rfl
@[simp] theorem State.writeN_inputs (s : State) (a n v) : (s.writeN a n v).inputs = s.inputs := rfl
@[simp] theorem State.writeN_fresh (s : State) (a n v) : (s.writeN a n v).fresh = s.fresh := rfl
@[simp] theorem State.writeN_nextId (s : State) (a n v) : (s.writeN a n v).nextId = s.nextId := rfl
@[simp] theorem State.writeN_cycle (s : State) (a n v) : (s.writeN a n v).cycle = s.cycle := rfl
@[simp] theorem State.writeN_div (s : State) (a n v) : (s.writeN a n v).div = s.div := rfl
@[simp] theorem State.writeN_power (s : State) (a n v) : (s.writeN a n v).power = s.power := rfl
@[simp] theorem State.writeN_threads (s : State) (a n v) : (s.writeN a n v).threads = s.threads := rfl
@[simp] theorem State.writeN_cores (s : State) (a n v) : (s.writeN a n v).cores = s.cores := rfl
@[simp] theorem State.writeN_clusters (s : State) (a n v) : (s.writeN a n v).clusters = s.clusters := rfl
@[simp] theorem State.writeN_districts (s : State) (a n v) : (s.writeN a n v).districts = s.districts := rfl
@[simp] theorem State.writeN_mem (s : State) (a n v) : (s.writeN a n v).mem = Memory.writeN s.mem a n v := rfl
@[simp] theorem State.writeN_marks (s : State) (a n v) : (s.writeN a n v).marks = s.marks := rfl
@[simp] theorem State.writeN_waiters (s : State) (a n v) : (s.writeN a n v).waiters = s.waiters := rfl
@[simp] theorem State.writeN_parkSeqs (s : State) (a n v) : (s.writeN a n v).parkSeqs = s.parkSeqs := rfl
@[simp] theorem State.writeN_wordErrors (s : State) (a n v) : (s.writeN a n v).wordErrors = s.wordErrors := rfl
@[simp] theorem State.writeN_flitErrors (s : State) (a n v) : (s.writeN a n v).flitErrors = s.flitErrors := rfl
@[simp] theorem State.writeN_sumWrites (s : State) (a n v) : (s.writeN a n v).sumWrites = s.sumWrites := rfl
@[simp] theorem State.writeN_flight (s : State) (a n v) : (s.writeN a n v).flight = s.flight := rfl
@[simp] theorem State.writeN_openReads (s : State) (a n v) : (s.writeN a n v).openReads = s.openReads := rfl
@[simp] theorem State.writeN_queues (s : State) (a n v) : (s.writeN a n v).queues = s.queues := rfl
@[simp] theorem State.writeN_cwords (s : State) (a n v) : (s.writeN a n v).cwords = s.cwords := rfl
@[simp] theorem State.writeN_turn (s : State) (a n v) : (s.writeN a n v).turn = s.turn := rfl
@[simp] theorem State.writeN_launches (s : State) (a n v) : (s.writeN a n v).launches = s.launches := rfl
@[simp] theorem State.writeN_groups (s : State) (a n v) : (s.writeN a n v).groups = s.groups := rfl
@[simp] theorem State.writeN_lgens (s : State) (a n v) : (s.writeN a n v).lgens = s.lgens := rfl
@[simp] theorem State.writeN_stamp (s : State) (a n v) : (s.writeN a n v).stamp = s.stamp := rfl
@[simp] theorem State.writeN_fmbxQueue (s : State) (a n v) : (s.writeN a n v).fmbxQueue = s.fmbxQueue := rfl
@[simp] theorem State.writeN_snuffs (s : State) (a n v) : (s.writeN a n v).snuffs = s.snuffs := rfl
@[simp] theorem State.writeN_log (s : State) (a n v) : (s.writeN a n v).log = s.log := rfl
@[simp] theorem State.writeN_logSeq (s : State) (a n v) : (s.writeN a n v).logSeq = s.logSeq := rfl
@[simp] theorem State.writeN_logLost (s : State) (a n v) : (s.writeN a n v).logLost = s.logLost := rfl
@[simp] theorem State.writeN_repairs (s : State) (a n v) : (s.writeN a n v).repairs = s.repairs := rfl
@[simp] theorem State.writeN_chandler (s : State) (a n v) : (s.writeN a n v).chandler = s.chandler := rfl
@[simp] theorem State.writeN_host (s : State) (a n v) : (s.writeN a n v).host = s.host := rfl
@[simp] theorem State.writeN_ports (s : State) (a n v) : (s.writeN a n v).ports = s.ports := rfl
@[simp] theorem State.writeN_holders (s : State) (a n v) : (s.writeN a n v).holders = s.holders := rfl
@[simp] theorem State.writeN_mgmt (s : State) (a n v) : (s.writeN a n v).mgmt = s.mgmt := rfl
@[simp] theorem State.writeN_capKey (s : State) (a n v) : (s.writeN a n v).capKey = s.capKey := rfl

/-! ### `State.writeWord`: a word written -/

@[simp] theorem State.writeWord_iss (s : State) (a v) : (s.writeWord a v).iss = s.iss := rfl
@[simp] theorem State.writeWord_agenda (s : State) (a v) : (s.writeWord a v).agenda = s.agenda := rfl
@[simp] theorem State.writeWord_inputs (s : State) (a v) : (s.writeWord a v).inputs = s.inputs := rfl
@[simp] theorem State.writeWord_fresh (s : State) (a v) : (s.writeWord a v).fresh = s.fresh := rfl
@[simp] theorem State.writeWord_nextId (s : State) (a v) : (s.writeWord a v).nextId = s.nextId := rfl
@[simp] theorem State.writeWord_cycle (s : State) (a v) : (s.writeWord a v).cycle = s.cycle := rfl
@[simp] theorem State.writeWord_div (s : State) (a v) : (s.writeWord a v).div = s.div := rfl
@[simp] theorem State.writeWord_power (s : State) (a v) : (s.writeWord a v).power = s.power := rfl
@[simp] theorem State.writeWord_threads (s : State) (a v) : (s.writeWord a v).threads = s.threads := rfl
@[simp] theorem State.writeWord_cores (s : State) (a v) : (s.writeWord a v).cores = s.cores := rfl
@[simp] theorem State.writeWord_clusters (s : State) (a v) : (s.writeWord a v).clusters = s.clusters := rfl
@[simp] theorem State.writeWord_districts (s : State) (a v) : (s.writeWord a v).districts = s.districts := rfl
@[simp] theorem State.writeWord_mem (s : State) (a v) : (s.writeWord a v).mem = Memory.writeN s.mem a 8 v.toNat := rfl
@[simp] theorem State.writeWord_marks (s : State) (a v) : (s.writeWord a v).marks = s.marks := rfl
@[simp] theorem State.writeWord_waiters (s : State) (a v) : (s.writeWord a v).waiters = s.waiters := rfl
@[simp] theorem State.writeWord_parkSeqs (s : State) (a v) : (s.writeWord a v).parkSeqs = s.parkSeqs := rfl
@[simp] theorem State.writeWord_wordErrors (s : State) (a v) : (s.writeWord a v).wordErrors = s.wordErrors := rfl
@[simp] theorem State.writeWord_flitErrors (s : State) (a v) : (s.writeWord a v).flitErrors = s.flitErrors := rfl
@[simp] theorem State.writeWord_sumWrites (s : State) (a v) : (s.writeWord a v).sumWrites = s.sumWrites := rfl
@[simp] theorem State.writeWord_flight (s : State) (a v) : (s.writeWord a v).flight = s.flight := rfl
@[simp] theorem State.writeWord_openReads (s : State) (a v) : (s.writeWord a v).openReads = s.openReads := rfl
@[simp] theorem State.writeWord_queues (s : State) (a v) : (s.writeWord a v).queues = s.queues := rfl
@[simp] theorem State.writeWord_cwords (s : State) (a v) : (s.writeWord a v).cwords = s.cwords := rfl
@[simp] theorem State.writeWord_turn (s : State) (a v) : (s.writeWord a v).turn = s.turn := rfl
@[simp] theorem State.writeWord_launches (s : State) (a v) : (s.writeWord a v).launches = s.launches := rfl
@[simp] theorem State.writeWord_groups (s : State) (a v) : (s.writeWord a v).groups = s.groups := rfl
@[simp] theorem State.writeWord_lgens (s : State) (a v) : (s.writeWord a v).lgens = s.lgens := rfl
@[simp] theorem State.writeWord_stamp (s : State) (a v) : (s.writeWord a v).stamp = s.stamp := rfl
@[simp] theorem State.writeWord_fmbxQueue (s : State) (a v) : (s.writeWord a v).fmbxQueue = s.fmbxQueue := rfl
@[simp] theorem State.writeWord_snuffs (s : State) (a v) : (s.writeWord a v).snuffs = s.snuffs := rfl
@[simp] theorem State.writeWord_log (s : State) (a v) : (s.writeWord a v).log = s.log := rfl
@[simp] theorem State.writeWord_logSeq (s : State) (a v) : (s.writeWord a v).logSeq = s.logSeq := rfl
@[simp] theorem State.writeWord_logLost (s : State) (a v) : (s.writeWord a v).logLost = s.logLost := rfl
@[simp] theorem State.writeWord_repairs (s : State) (a v) : (s.writeWord a v).repairs = s.repairs := rfl
@[simp] theorem State.writeWord_chandler (s : State) (a v) : (s.writeWord a v).chandler = s.chandler := rfl
@[simp] theorem State.writeWord_host (s : State) (a v) : (s.writeWord a v).host = s.host := rfl
@[simp] theorem State.writeWord_ports (s : State) (a v) : (s.writeWord a v).ports = s.ports := rfl
@[simp] theorem State.writeWord_holders (s : State) (a v) : (s.writeWord a v).holders = s.holders := rfl
@[simp] theorem State.writeWord_mgmt (s : State) (a v) : (s.writeWord a v).mgmt = s.mgmt := rfl
@[simp] theorem State.writeWord_capKey (s : State) (a v) : (s.writeWord a v).capKey = s.capKey := rfl

/-! ### `State.setMeta`: a word's state written -/

@[simp] theorem State.setMeta_iss (s : State) (w m) : (s.setMeta w m).iss = s.iss := rfl
@[simp] theorem State.setMeta_agenda (s : State) (w m) : (s.setMeta w m).agenda = s.agenda := rfl
@[simp] theorem State.setMeta_inputs (s : State) (w m) : (s.setMeta w m).inputs = s.inputs := rfl
@[simp] theorem State.setMeta_fresh (s : State) (w m) : (s.setMeta w m).fresh = s.fresh := rfl
@[simp] theorem State.setMeta_nextId (s : State) (w m) : (s.setMeta w m).nextId = s.nextId := rfl
@[simp] theorem State.setMeta_cycle (s : State) (w m) : (s.setMeta w m).cycle = s.cycle := rfl
@[simp] theorem State.setMeta_div (s : State) (w m) : (s.setMeta w m).div = s.div := rfl
@[simp] theorem State.setMeta_power (s : State) (w m) : (s.setMeta w m).power = s.power := rfl
@[simp] theorem State.setMeta_threads (s : State) (w m) : (s.setMeta w m).threads = s.threads := rfl
@[simp] theorem State.setMeta_cores (s : State) (w m) : (s.setMeta w m).cores = s.cores := rfl
@[simp] theorem State.setMeta_clusters (s : State) (w m) : (s.setMeta w m).clusters = s.clusters := rfl
@[simp] theorem State.setMeta_districts (s : State) (w m) : (s.setMeta w m).districts = s.districts := rfl
@[simp] theorem State.setMeta_mem (s : State) (w m) : (s.setMeta w m).mem = s.mem := rfl
@[simp] theorem State.setMeta_marks (s : State) (w m) : (s.setMeta w m).marks = mput (metaDefault w) s.marks w m := rfl
@[simp] theorem State.setMeta_waiters (s : State) (w m) : (s.setMeta w m).waiters = s.waiters := rfl
@[simp] theorem State.setMeta_parkSeqs (s : State) (w m) : (s.setMeta w m).parkSeqs = s.parkSeqs := rfl
@[simp] theorem State.setMeta_wordErrors (s : State) (w m) : (s.setMeta w m).wordErrors = s.wordErrors := rfl
@[simp] theorem State.setMeta_flitErrors (s : State) (w m) : (s.setMeta w m).flitErrors = s.flitErrors := rfl
@[simp] theorem State.setMeta_sumWrites (s : State) (w m) : (s.setMeta w m).sumWrites = s.sumWrites := rfl
@[simp] theorem State.setMeta_flight (s : State) (w m) : (s.setMeta w m).flight = s.flight := rfl
@[simp] theorem State.setMeta_openReads (s : State) (w m) : (s.setMeta w m).openReads = s.openReads := rfl
@[simp] theorem State.setMeta_queues (s : State) (w m) : (s.setMeta w m).queues = s.queues := rfl
@[simp] theorem State.setMeta_cwords (s : State) (w m) : (s.setMeta w m).cwords = s.cwords := rfl
@[simp] theorem State.setMeta_turn (s : State) (w m) : (s.setMeta w m).turn = s.turn := rfl
@[simp] theorem State.setMeta_launches (s : State) (w m) : (s.setMeta w m).launches = s.launches := rfl
@[simp] theorem State.setMeta_groups (s : State) (w m) : (s.setMeta w m).groups = s.groups := rfl
@[simp] theorem State.setMeta_lgens (s : State) (w m) : (s.setMeta w m).lgens = s.lgens := rfl
@[simp] theorem State.setMeta_stamp (s : State) (w m) : (s.setMeta w m).stamp = s.stamp := rfl
@[simp] theorem State.setMeta_fmbxQueue (s : State) (w m) : (s.setMeta w m).fmbxQueue = s.fmbxQueue := rfl
@[simp] theorem State.setMeta_snuffs (s : State) (w m) : (s.setMeta w m).snuffs = s.snuffs := rfl
@[simp] theorem State.setMeta_log (s : State) (w m) : (s.setMeta w m).log = s.log := rfl
@[simp] theorem State.setMeta_logSeq (s : State) (w m) : (s.setMeta w m).logSeq = s.logSeq := rfl
@[simp] theorem State.setMeta_logLost (s : State) (w m) : (s.setMeta w m).logLost = s.logLost := rfl
@[simp] theorem State.setMeta_repairs (s : State) (w m) : (s.setMeta w m).repairs = s.repairs := rfl
@[simp] theorem State.setMeta_chandler (s : State) (w m) : (s.setMeta w m).chandler = s.chandler := rfl
@[simp] theorem State.setMeta_host (s : State) (w m) : (s.setMeta w m).host = s.host := rfl
@[simp] theorem State.setMeta_ports (s : State) (w m) : (s.setMeta w m).ports = s.ports := rfl
@[simp] theorem State.setMeta_holders (s : State) (w m) : (s.setMeta w m).holders = s.holders := rfl
@[simp] theorem State.setMeta_mgmt (s : State) (w m) : (s.setMeta w m).mgmt = s.mgmt := rfl
@[simp] theorem State.setMeta_capKey (s : State) (w m) : (s.setMeta w m).capKey = s.capKey := rfl

/-! ### `State.setWaiters`: a word's waiters written -/

@[simp] theorem State.setWaiters_iss (s : State) (w l) : (s.setWaiters w l).iss = s.iss := rfl
@[simp] theorem State.setWaiters_agenda (s : State) (w l) : (s.setWaiters w l).agenda = s.agenda := rfl
@[simp] theorem State.setWaiters_inputs (s : State) (w l) : (s.setWaiters w l).inputs = s.inputs := rfl
@[simp] theorem State.setWaiters_fresh (s : State) (w l) : (s.setWaiters w l).fresh = s.fresh := rfl
@[simp] theorem State.setWaiters_nextId (s : State) (w l) : (s.setWaiters w l).nextId = s.nextId := rfl
@[simp] theorem State.setWaiters_cycle (s : State) (w l) : (s.setWaiters w l).cycle = s.cycle := rfl
@[simp] theorem State.setWaiters_div (s : State) (w l) : (s.setWaiters w l).div = s.div := rfl
@[simp] theorem State.setWaiters_power (s : State) (w l) : (s.setWaiters w l).power = s.power := rfl
@[simp] theorem State.setWaiters_threads (s : State) (w l) : (s.setWaiters w l).threads = s.threads := rfl
@[simp] theorem State.setWaiters_cores (s : State) (w l) : (s.setWaiters w l).cores = s.cores := rfl
@[simp] theorem State.setWaiters_clusters (s : State) (w l) : (s.setWaiters w l).clusters = s.clusters := rfl
@[simp] theorem State.setWaiters_districts (s : State) (w l) : (s.setWaiters w l).districts = s.districts := rfl
@[simp] theorem State.setWaiters_mem (s : State) (w l) : (s.setWaiters w l).mem = s.mem := rfl
@[simp] theorem State.setWaiters_marks (s : State) (w l) : (s.setWaiters w l).marks = s.marks := rfl
@[simp] theorem State.setWaiters_waiters (s : State) (w l) : (s.setWaiters w l).waiters = mput [] s.waiters w l := rfl
@[simp] theorem State.setWaiters_parkSeqs (s : State) (w l) : (s.setWaiters w l).parkSeqs = s.parkSeqs := rfl
@[simp] theorem State.setWaiters_wordErrors (s : State) (w l) : (s.setWaiters w l).wordErrors = s.wordErrors := rfl
@[simp] theorem State.setWaiters_flitErrors (s : State) (w l) : (s.setWaiters w l).flitErrors = s.flitErrors := rfl
@[simp] theorem State.setWaiters_sumWrites (s : State) (w l) : (s.setWaiters w l).sumWrites = s.sumWrites := rfl
@[simp] theorem State.setWaiters_flight (s : State) (w l) : (s.setWaiters w l).flight = s.flight := rfl
@[simp] theorem State.setWaiters_openReads (s : State) (w l) : (s.setWaiters w l).openReads = s.openReads := rfl
@[simp] theorem State.setWaiters_queues (s : State) (w l) : (s.setWaiters w l).queues = s.queues := rfl
@[simp] theorem State.setWaiters_cwords (s : State) (w l) : (s.setWaiters w l).cwords = s.cwords := rfl
@[simp] theorem State.setWaiters_turn (s : State) (w l) : (s.setWaiters w l).turn = s.turn := rfl
@[simp] theorem State.setWaiters_launches (s : State) (w l) : (s.setWaiters w l).launches = s.launches := rfl
@[simp] theorem State.setWaiters_groups (s : State) (w l) : (s.setWaiters w l).groups = s.groups := rfl
@[simp] theorem State.setWaiters_lgens (s : State) (w l) : (s.setWaiters w l).lgens = s.lgens := rfl
@[simp] theorem State.setWaiters_stamp (s : State) (w l) : (s.setWaiters w l).stamp = s.stamp := rfl
@[simp] theorem State.setWaiters_fmbxQueue (s : State) (w l) : (s.setWaiters w l).fmbxQueue = s.fmbxQueue := rfl
@[simp] theorem State.setWaiters_snuffs (s : State) (w l) : (s.setWaiters w l).snuffs = s.snuffs := rfl
@[simp] theorem State.setWaiters_log (s : State) (w l) : (s.setWaiters w l).log = s.log := rfl
@[simp] theorem State.setWaiters_logSeq (s : State) (w l) : (s.setWaiters w l).logSeq = s.logSeq := rfl
@[simp] theorem State.setWaiters_logLost (s : State) (w l) : (s.setWaiters w l).logLost = s.logLost := rfl
@[simp] theorem State.setWaiters_repairs (s : State) (w l) : (s.setWaiters w l).repairs = s.repairs := rfl
@[simp] theorem State.setWaiters_chandler (s : State) (w l) : (s.setWaiters w l).chandler = s.chandler := rfl
@[simp] theorem State.setWaiters_host (s : State) (w l) : (s.setWaiters w l).host = s.host := rfl
@[simp] theorem State.setWaiters_ports (s : State) (w l) : (s.setWaiters w l).ports = s.ports := rfl
@[simp] theorem State.setWaiters_holders (s : State) (w l) : (s.setWaiters w l).holders = s.holders := rfl
@[simp] theorem State.setWaiters_mgmt (s : State) (w l) : (s.setWaiters w l).mgmt = s.mgmt := rfl
@[simp] theorem State.setWaiters_capKey (s : State) (w l) : (s.setWaiters w l).capKey = s.capKey := rfl

/-! ### `State.send`: a message sent -/

@[simp] theorem State.send_iss (s : State) (p m) : (s.send p m).iss = s.iss := rfl
@[simp] theorem State.send_agenda (s : State) (p m) : (s.send p m).agenda = s.agenda := rfl
@[simp] theorem State.send_inputs (s : State) (p m) : (s.send p m).inputs = s.inputs := rfl
@[simp] theorem State.send_fresh (s : State) (p m) : (s.send p m).fresh = s.fresh := rfl
@[simp] theorem State.send_nextId (s : State) (p m) : (s.send p m).nextId = s.nextId + 1 := rfl
@[simp] theorem State.send_cycle (s : State) (p m) : (s.send p m).cycle = s.cycle := rfl
@[simp] theorem State.send_div (s : State) (p m) : (s.send p m).div = s.div := rfl
@[simp] theorem State.send_power (s : State) (p m) : (s.send p m).power = s.power := rfl
@[simp] theorem State.send_threads (s : State) (p m) : (s.send p m).threads = s.threads := rfl
@[simp] theorem State.send_cores (s : State) (p m) : (s.send p m).cores = s.cores := rfl
@[simp] theorem State.send_clusters (s : State) (p m) : (s.send p m).clusters = s.clusters := rfl
@[simp] theorem State.send_districts (s : State) (p m) : (s.send p m).districts = s.districts := rfl
@[simp] theorem State.send_mem (s : State) (p m) : (s.send p m).mem = s.mem := rfl
@[simp] theorem State.send_marks (s : State) (p m) : (s.send p m).marks = s.marks := rfl
@[simp] theorem State.send_waiters (s : State) (p m) : (s.send p m).waiters = s.waiters := rfl
@[simp] theorem State.send_parkSeqs (s : State) (p m) : (s.send p m).parkSeqs = s.parkSeqs := rfl
@[simp] theorem State.send_wordErrors (s : State) (p m) : (s.send p m).wordErrors = s.wordErrors := rfl
@[simp] theorem State.send_flitErrors (s : State) (p m) : (s.send p m).flitErrors = s.flitErrors := rfl
@[simp] theorem State.send_sumWrites (s : State) (p m) : (s.send p m).sumWrites = s.sumWrites := rfl
@[simp] theorem State.send_openReads (s : State) (p m) : (s.send p m).openReads = s.openReads := rfl
@[simp] theorem State.send_queues (s : State) (p m) : (s.send p m).queues = s.queues := rfl
@[simp] theorem State.send_cwords (s : State) (p m) : (s.send p m).cwords = s.cwords := rfl
@[simp] theorem State.send_turn (s : State) (p m) : (s.send p m).turn = s.turn := rfl
@[simp] theorem State.send_launches (s : State) (p m) : (s.send p m).launches = s.launches := rfl
@[simp] theorem State.send_groups (s : State) (p m) : (s.send p m).groups = s.groups := rfl
@[simp] theorem State.send_lgens (s : State) (p m) : (s.send p m).lgens = s.lgens := rfl
@[simp] theorem State.send_stamp (s : State) (p m) : (s.send p m).stamp = s.stamp := rfl
@[simp] theorem State.send_fmbxQueue (s : State) (p m) : (s.send p m).fmbxQueue = s.fmbxQueue := rfl
@[simp] theorem State.send_snuffs (s : State) (p m) : (s.send p m).snuffs = s.snuffs := rfl
@[simp] theorem State.send_log (s : State) (p m) : (s.send p m).log = s.log := rfl
@[simp] theorem State.send_logSeq (s : State) (p m) : (s.send p m).logSeq = s.logSeq := rfl
@[simp] theorem State.send_logLost (s : State) (p m) : (s.send p m).logLost = s.logLost := rfl
@[simp] theorem State.send_repairs (s : State) (p m) : (s.send p m).repairs = s.repairs := rfl
@[simp] theorem State.send_chandler (s : State) (p m) : (s.send p m).chandler = s.chandler := rfl
@[simp] theorem State.send_host (s : State) (p m) : (s.send p m).host = s.host := rfl
@[simp] theorem State.send_ports (s : State) (p m) : (s.send p m).ports = s.ports := rfl
@[simp] theorem State.send_holders (s : State) (p m) : (s.send p m).holders = s.holders := rfl
@[simp] theorem State.send_mgmt (s : State) (p m) : (s.send p m).mgmt = s.mgmt := rfl
@[simp] theorem State.send_capKey (s : State) (p m) : (s.send p m).capKey = s.capKey := rfl

/-! ### `State.take`: a message taken -/

@[simp] theorem State.take_iss (s : State) (i) : (s.take i).iss = s.iss := rfl
@[simp] theorem State.take_agenda (s : State) (i) : (s.take i).agenda = s.agenda := rfl
@[simp] theorem State.take_inputs (s : State) (i) : (s.take i).inputs = s.inputs := rfl
@[simp] theorem State.take_fresh (s : State) (i) : (s.take i).fresh = s.fresh := rfl
@[simp] theorem State.take_nextId (s : State) (i) : (s.take i).nextId = s.nextId := rfl
@[simp] theorem State.take_cycle (s : State) (i) : (s.take i).cycle = s.cycle := rfl
@[simp] theorem State.take_div (s : State) (i) : (s.take i).div = s.div := rfl
@[simp] theorem State.take_power (s : State) (i) : (s.take i).power = s.power := rfl
@[simp] theorem State.take_threads (s : State) (i) : (s.take i).threads = s.threads := rfl
@[simp] theorem State.take_cores (s : State) (i) : (s.take i).cores = s.cores := rfl
@[simp] theorem State.take_clusters (s : State) (i) : (s.take i).clusters = s.clusters := rfl
@[simp] theorem State.take_districts (s : State) (i) : (s.take i).districts = s.districts := rfl
@[simp] theorem State.take_mem (s : State) (i) : (s.take i).mem = s.mem := rfl
@[simp] theorem State.take_marks (s : State) (i) : (s.take i).marks = s.marks := rfl
@[simp] theorem State.take_waiters (s : State) (i) : (s.take i).waiters = s.waiters := rfl
@[simp] theorem State.take_parkSeqs (s : State) (i) : (s.take i).parkSeqs = s.parkSeqs := rfl
@[simp] theorem State.take_wordErrors (s : State) (i) : (s.take i).wordErrors = s.wordErrors := rfl
@[simp] theorem State.take_flitErrors (s : State) (i) : (s.take i).flitErrors = s.flitErrors := rfl
@[simp] theorem State.take_sumWrites (s : State) (i) : (s.take i).sumWrites = s.sumWrites := rfl
@[simp] theorem State.take_flight (s : State) (i) : (s.take i).flight = s.flight.filter (fun f => f.id != i) := rfl
@[simp] theorem State.take_openReads (s : State) (i) : (s.take i).openReads = s.openReads := rfl
@[simp] theorem State.take_queues (s : State) (i) : (s.take i).queues = s.queues := rfl
@[simp] theorem State.take_cwords (s : State) (i) : (s.take i).cwords = s.cwords := rfl
@[simp] theorem State.take_turn (s : State) (i) : (s.take i).turn = s.turn := rfl
@[simp] theorem State.take_launches (s : State) (i) : (s.take i).launches = s.launches := rfl
@[simp] theorem State.take_groups (s : State) (i) : (s.take i).groups = s.groups := rfl
@[simp] theorem State.take_lgens (s : State) (i) : (s.take i).lgens = s.lgens := rfl
@[simp] theorem State.take_stamp (s : State) (i) : (s.take i).stamp = s.stamp := rfl
@[simp] theorem State.take_fmbxQueue (s : State) (i) : (s.take i).fmbxQueue = s.fmbxQueue := rfl
@[simp] theorem State.take_snuffs (s : State) (i) : (s.take i).snuffs = s.snuffs := rfl
@[simp] theorem State.take_log (s : State) (i) : (s.take i).log = s.log := rfl
@[simp] theorem State.take_logSeq (s : State) (i) : (s.take i).logSeq = s.logSeq := rfl
@[simp] theorem State.take_logLost (s : State) (i) : (s.take i).logLost = s.logLost := rfl
@[simp] theorem State.take_repairs (s : State) (i) : (s.take i).repairs = s.repairs := rfl
@[simp] theorem State.take_chandler (s : State) (i) : (s.take i).chandler = s.chandler := rfl
@[simp] theorem State.take_host (s : State) (i) : (s.take i).host = s.host := rfl
@[simp] theorem State.take_ports (s : State) (i) : (s.take i).ports = s.ports := rfl
@[simp] theorem State.take_holders (s : State) (i) : (s.take i).holders = s.holders := rfl
@[simp] theorem State.take_mgmt (s : State) (i) : (s.take i).mgmt = s.mgmt := rfl
@[simp] theorem State.take_capKey (s : State) (i) : (s.take i).capKey = s.capKey := rfl

/-! ### `State.bump`: a free value used -/

@[simp] theorem State.bump_iss (s : State) : (s.bump).iss = s.iss := rfl
@[simp] theorem State.bump_agenda (s : State) : (s.bump).agenda = s.agenda := rfl
@[simp] theorem State.bump_inputs (s : State) : (s.bump).inputs = s.inputs := rfl
@[simp] theorem State.bump_fresh (s : State) : (s.bump).fresh = s.fresh + 1 := rfl
@[simp] theorem State.bump_nextId (s : State) : (s.bump).nextId = s.nextId := rfl
@[simp] theorem State.bump_cycle (s : State) : (s.bump).cycle = s.cycle := rfl
@[simp] theorem State.bump_div (s : State) : (s.bump).div = s.div := rfl
@[simp] theorem State.bump_power (s : State) : (s.bump).power = s.power := rfl
@[simp] theorem State.bump_threads (s : State) : (s.bump).threads = s.threads := rfl
@[simp] theorem State.bump_cores (s : State) : (s.bump).cores = s.cores := rfl
@[simp] theorem State.bump_clusters (s : State) : (s.bump).clusters = s.clusters := rfl
@[simp] theorem State.bump_districts (s : State) : (s.bump).districts = s.districts := rfl
@[simp] theorem State.bump_mem (s : State) : (s.bump).mem = s.mem := rfl
@[simp] theorem State.bump_marks (s : State) : (s.bump).marks = s.marks := rfl
@[simp] theorem State.bump_waiters (s : State) : (s.bump).waiters = s.waiters := rfl
@[simp] theorem State.bump_parkSeqs (s : State) : (s.bump).parkSeqs = s.parkSeqs := rfl
@[simp] theorem State.bump_wordErrors (s : State) : (s.bump).wordErrors = s.wordErrors := rfl
@[simp] theorem State.bump_flitErrors (s : State) : (s.bump).flitErrors = s.flitErrors := rfl
@[simp] theorem State.bump_sumWrites (s : State) : (s.bump).sumWrites = s.sumWrites := rfl
@[simp] theorem State.bump_flight (s : State) : (s.bump).flight = s.flight := rfl
@[simp] theorem State.bump_openReads (s : State) : (s.bump).openReads = s.openReads := rfl
@[simp] theorem State.bump_queues (s : State) : (s.bump).queues = s.queues := rfl
@[simp] theorem State.bump_cwords (s : State) : (s.bump).cwords = s.cwords := rfl
@[simp] theorem State.bump_turn (s : State) : (s.bump).turn = s.turn := rfl
@[simp] theorem State.bump_launches (s : State) : (s.bump).launches = s.launches := rfl
@[simp] theorem State.bump_groups (s : State) : (s.bump).groups = s.groups := rfl
@[simp] theorem State.bump_lgens (s : State) : (s.bump).lgens = s.lgens := rfl
@[simp] theorem State.bump_stamp (s : State) : (s.bump).stamp = s.stamp := rfl
@[simp] theorem State.bump_fmbxQueue (s : State) : (s.bump).fmbxQueue = s.fmbxQueue := rfl
@[simp] theorem State.bump_snuffs (s : State) : (s.bump).snuffs = s.snuffs := rfl
@[simp] theorem State.bump_log (s : State) : (s.bump).log = s.log := rfl
@[simp] theorem State.bump_logSeq (s : State) : (s.bump).logSeq = s.logSeq := rfl
@[simp] theorem State.bump_logLost (s : State) : (s.bump).logLost = s.logLost := rfl
@[simp] theorem State.bump_repairs (s : State) : (s.bump).repairs = s.repairs := rfl
@[simp] theorem State.bump_chandler (s : State) : (s.bump).chandler = s.chandler := rfl
@[simp] theorem State.bump_host (s : State) : (s.bump).host = s.host := rfl
@[simp] theorem State.bump_ports (s : State) : (s.bump).ports = s.ports := rfl
@[simp] theorem State.bump_holders (s : State) : (s.bump).holders = s.holders := rfl
@[simp] theorem State.bump_mgmt (s : State) : (s.bump).mgmt = s.mgmt := rfl
@[simp] theorem State.bump_capKey (s : State) : (s.bump).capKey = s.capKey := rfl

/-! ### `State.soon`: a move next -/

@[simp] theorem State.soon_iss (s : State) (i) : (s.soon i).iss = s.iss := rfl
@[simp] theorem State.soon_agenda (s : State) (i) : (s.soon i).agenda = .event i :: s.agenda := rfl
@[simp] theorem State.soon_inputs (s : State) (i) : (s.soon i).inputs = s.inputs := rfl
@[simp] theorem State.soon_fresh (s : State) (i) : (s.soon i).fresh = s.fresh := rfl
@[simp] theorem State.soon_nextId (s : State) (i) : (s.soon i).nextId = s.nextId := rfl
@[simp] theorem State.soon_cycle (s : State) (i) : (s.soon i).cycle = s.cycle := rfl
@[simp] theorem State.soon_div (s : State) (i) : (s.soon i).div = s.div := rfl
@[simp] theorem State.soon_power (s : State) (i) : (s.soon i).power = s.power := rfl
@[simp] theorem State.soon_threads (s : State) (i) : (s.soon i).threads = s.threads := rfl
@[simp] theorem State.soon_cores (s : State) (i) : (s.soon i).cores = s.cores := rfl
@[simp] theorem State.soon_clusters (s : State) (i) : (s.soon i).clusters = s.clusters := rfl
@[simp] theorem State.soon_districts (s : State) (i) : (s.soon i).districts = s.districts := rfl
@[simp] theorem State.soon_mem (s : State) (i) : (s.soon i).mem = s.mem := rfl
@[simp] theorem State.soon_marks (s : State) (i) : (s.soon i).marks = s.marks := rfl
@[simp] theorem State.soon_waiters (s : State) (i) : (s.soon i).waiters = s.waiters := rfl
@[simp] theorem State.soon_parkSeqs (s : State) (i) : (s.soon i).parkSeqs = s.parkSeqs := rfl
@[simp] theorem State.soon_wordErrors (s : State) (i) : (s.soon i).wordErrors = s.wordErrors := rfl
@[simp] theorem State.soon_flitErrors (s : State) (i) : (s.soon i).flitErrors = s.flitErrors := rfl
@[simp] theorem State.soon_sumWrites (s : State) (i) : (s.soon i).sumWrites = s.sumWrites := rfl
@[simp] theorem State.soon_flight (s : State) (i) : (s.soon i).flight = s.flight := rfl
@[simp] theorem State.soon_openReads (s : State) (i) : (s.soon i).openReads = s.openReads := rfl
@[simp] theorem State.soon_queues (s : State) (i) : (s.soon i).queues = s.queues := rfl
@[simp] theorem State.soon_cwords (s : State) (i) : (s.soon i).cwords = s.cwords := rfl
@[simp] theorem State.soon_turn (s : State) (i) : (s.soon i).turn = s.turn := rfl
@[simp] theorem State.soon_launches (s : State) (i) : (s.soon i).launches = s.launches := rfl
@[simp] theorem State.soon_groups (s : State) (i) : (s.soon i).groups = s.groups := rfl
@[simp] theorem State.soon_lgens (s : State) (i) : (s.soon i).lgens = s.lgens := rfl
@[simp] theorem State.soon_stamp (s : State) (i) : (s.soon i).stamp = s.stamp := rfl
@[simp] theorem State.soon_fmbxQueue (s : State) (i) : (s.soon i).fmbxQueue = s.fmbxQueue := rfl
@[simp] theorem State.soon_snuffs (s : State) (i) : (s.soon i).snuffs = s.snuffs := rfl
@[simp] theorem State.soon_log (s : State) (i) : (s.soon i).log = s.log := rfl
@[simp] theorem State.soon_logSeq (s : State) (i) : (s.soon i).logSeq = s.logSeq := rfl
@[simp] theorem State.soon_logLost (s : State) (i) : (s.soon i).logLost = s.logLost := rfl
@[simp] theorem State.soon_repairs (s : State) (i) : (s.soon i).repairs = s.repairs := rfl
@[simp] theorem State.soon_chandler (s : State) (i) : (s.soon i).chandler = s.chandler := rfl
@[simp] theorem State.soon_host (s : State) (i) : (s.soon i).host = s.host := rfl
@[simp] theorem State.soon_ports (s : State) (i) : (s.soon i).ports = s.ports := rfl
@[simp] theorem State.soon_holders (s : State) (i) : (s.soon i).holders = s.holders := rfl
@[simp] theorem State.soon_mgmt (s : State) (i) : (s.soon i).mgmt = s.mgmt := rfl
@[simp] theorem State.soon_capKey (s : State) (i) : (s.soon i).capKey = s.capKey := rfl

/-! ### `State.later`: a move last -/

@[simp] theorem State.later_iss (s : State) (i) : (s.later i).iss = s.iss := rfl
@[simp] theorem State.later_agenda (s : State) (i) : (s.later i).agenda = s.agenda ++ [.event i] := rfl
@[simp] theorem State.later_inputs (s : State) (i) : (s.later i).inputs = s.inputs := rfl
@[simp] theorem State.later_fresh (s : State) (i) : (s.later i).fresh = s.fresh := rfl
@[simp] theorem State.later_nextId (s : State) (i) : (s.later i).nextId = s.nextId := rfl
@[simp] theorem State.later_cycle (s : State) (i) : (s.later i).cycle = s.cycle := rfl
@[simp] theorem State.later_div (s : State) (i) : (s.later i).div = s.div := rfl
@[simp] theorem State.later_power (s : State) (i) : (s.later i).power = s.power := rfl
@[simp] theorem State.later_threads (s : State) (i) : (s.later i).threads = s.threads := rfl
@[simp] theorem State.later_cores (s : State) (i) : (s.later i).cores = s.cores := rfl
@[simp] theorem State.later_clusters (s : State) (i) : (s.later i).clusters = s.clusters := rfl
@[simp] theorem State.later_districts (s : State) (i) : (s.later i).districts = s.districts := rfl
@[simp] theorem State.later_mem (s : State) (i) : (s.later i).mem = s.mem := rfl
@[simp] theorem State.later_marks (s : State) (i) : (s.later i).marks = s.marks := rfl
@[simp] theorem State.later_waiters (s : State) (i) : (s.later i).waiters = s.waiters := rfl
@[simp] theorem State.later_parkSeqs (s : State) (i) : (s.later i).parkSeqs = s.parkSeqs := rfl
@[simp] theorem State.later_wordErrors (s : State) (i) : (s.later i).wordErrors = s.wordErrors := rfl
@[simp] theorem State.later_flitErrors (s : State) (i) : (s.later i).flitErrors = s.flitErrors := rfl
@[simp] theorem State.later_sumWrites (s : State) (i) : (s.later i).sumWrites = s.sumWrites := rfl
@[simp] theorem State.later_flight (s : State) (i) : (s.later i).flight = s.flight := rfl
@[simp] theorem State.later_openReads (s : State) (i) : (s.later i).openReads = s.openReads := rfl
@[simp] theorem State.later_queues (s : State) (i) : (s.later i).queues = s.queues := rfl
@[simp] theorem State.later_cwords (s : State) (i) : (s.later i).cwords = s.cwords := rfl
@[simp] theorem State.later_turn (s : State) (i) : (s.later i).turn = s.turn := rfl
@[simp] theorem State.later_launches (s : State) (i) : (s.later i).launches = s.launches := rfl
@[simp] theorem State.later_groups (s : State) (i) : (s.later i).groups = s.groups := rfl
@[simp] theorem State.later_lgens (s : State) (i) : (s.later i).lgens = s.lgens := rfl
@[simp] theorem State.later_stamp (s : State) (i) : (s.later i).stamp = s.stamp := rfl
@[simp] theorem State.later_fmbxQueue (s : State) (i) : (s.later i).fmbxQueue = s.fmbxQueue := rfl
@[simp] theorem State.later_snuffs (s : State) (i) : (s.later i).snuffs = s.snuffs := rfl
@[simp] theorem State.later_log (s : State) (i) : (s.later i).log = s.log := rfl
@[simp] theorem State.later_logSeq (s : State) (i) : (s.later i).logSeq = s.logSeq := rfl
@[simp] theorem State.later_logLost (s : State) (i) : (s.later i).logLost = s.logLost := rfl
@[simp] theorem State.later_repairs (s : State) (i) : (s.later i).repairs = s.repairs := rfl
@[simp] theorem State.later_chandler (s : State) (i) : (s.later i).chandler = s.chandler := rfl
@[simp] theorem State.later_host (s : State) (i) : (s.later i).host = s.host := rfl
@[simp] theorem State.later_ports (s : State) (i) : (s.later i).ports = s.ports := rfl
@[simp] theorem State.later_holders (s : State) (i) : (s.later i).holders = s.holders := rfl
@[simp] theorem State.later_mgmt (s : State) (i) : (s.later i).mgmt = s.mgmt := rfl
@[simp] theorem State.later_capKey (s : State) (i) : (s.later i).capKey = s.capKey := rfl

/-! ### `State.logEntry`: an entry of the error log -/

@[simp] theorem State.logEntry_iss (s : State) (v r c l w x) : (s.logEntry v r c l w x).iss = s.iss := rfl
@[simp] theorem State.logEntry_agenda (s : State) (v r c l w x) : (s.logEntry v r c l w x).agenda = s.agenda := rfl
@[simp] theorem State.logEntry_inputs (s : State) (v r c l w x) : (s.logEntry v r c l w x).inputs = s.inputs := rfl
@[simp] theorem State.logEntry_fresh (s : State) (v r c l w x) : (s.logEntry v r c l w x).fresh = s.fresh := rfl
@[simp] theorem State.logEntry_nextId (s : State) (v r c l w x) : (s.logEntry v r c l w x).nextId = s.nextId := rfl
@[simp] theorem State.logEntry_cycle (s : State) (v r c l w x) : (s.logEntry v r c l w x).cycle = s.cycle := rfl
@[simp] theorem State.logEntry_div (s : State) (v r c l w x) : (s.logEntry v r c l w x).div = s.div := rfl
@[simp] theorem State.logEntry_power (s : State) (v r c l w x) : (s.logEntry v r c l w x).power = s.power := rfl
@[simp] theorem State.logEntry_threads (s : State) (v r c l w x) : (s.logEntry v r c l w x).threads = s.threads := rfl
@[simp] theorem State.logEntry_cores (s : State) (v r c l w x) : (s.logEntry v r c l w x).cores = s.cores := rfl
@[simp] theorem State.logEntry_clusters (s : State) (v r c l w x) : (s.logEntry v r c l w x).clusters = s.clusters := rfl
@[simp] theorem State.logEntry_districts (s : State) (v r c l w x) : (s.logEntry v r c l w x).districts = s.districts := rfl
@[simp] theorem State.logEntry_mem (s : State) (v r c l w x) : (s.logEntry v r c l w x).mem = s.mem := rfl
@[simp] theorem State.logEntry_marks (s : State) (v r c l w x) : (s.logEntry v r c l w x).marks = s.marks := rfl
@[simp] theorem State.logEntry_waiters (s : State) (v r c l w x) : (s.logEntry v r c l w x).waiters = s.waiters := rfl
@[simp] theorem State.logEntry_parkSeqs (s : State) (v r c l w x) : (s.logEntry v r c l w x).parkSeqs = s.parkSeqs := rfl
@[simp] theorem State.logEntry_wordErrors (s : State) (v r c l w x) : (s.logEntry v r c l w x).wordErrors = s.wordErrors := rfl
@[simp] theorem State.logEntry_flitErrors (s : State) (v r c l w x) : (s.logEntry v r c l w x).flitErrors = s.flitErrors := rfl
@[simp] theorem State.logEntry_sumWrites (s : State) (v r c l w x) : (s.logEntry v r c l w x).sumWrites = s.sumWrites := rfl
@[simp] theorem State.logEntry_flight (s : State) (v r c l w x) : (s.logEntry v r c l w x).flight = s.flight := rfl
@[simp] theorem State.logEntry_openReads (s : State) (v r c l w x) : (s.logEntry v r c l w x).openReads = s.openReads := rfl
@[simp] theorem State.logEntry_queues (s : State) (v r c l w x) : (s.logEntry v r c l w x).queues = s.queues := rfl
@[simp] theorem State.logEntry_cwords (s : State) (v r c l w x) : (s.logEntry v r c l w x).cwords = s.cwords := rfl
@[simp] theorem State.logEntry_turn (s : State) (v r c l w x) : (s.logEntry v r c l w x).turn = s.turn := rfl
@[simp] theorem State.logEntry_launches (s : State) (v r c l w x) : (s.logEntry v r c l w x).launches = s.launches := rfl
@[simp] theorem State.logEntry_groups (s : State) (v r c l w x) : (s.logEntry v r c l w x).groups = s.groups := rfl
@[simp] theorem State.logEntry_lgens (s : State) (v r c l w x) : (s.logEntry v r c l w x).lgens = s.lgens := rfl
@[simp] theorem State.logEntry_stamp (s : State) (v r c l w x) : (s.logEntry v r c l w x).stamp = s.stamp := rfl
@[simp] theorem State.logEntry_fmbxQueue (s : State) (v r c l w x) : (s.logEntry v r c l w x).fmbxQueue = s.fmbxQueue := rfl
@[simp] theorem State.logEntry_snuffs (s : State) (v r c l w x) : (s.logEntry v r c l w x).snuffs = s.snuffs := rfl
@[simp] theorem State.logEntry_logSeq (s : State) (v r c l w x) : (s.logEntry v r c l w x).logSeq = s.logSeq + 1 := rfl
@[simp] theorem State.logEntry_logLost (s : State) (v r c l w x) : (s.logEntry v r c l w x).logLost = s.logLost + (if s.logSeq < 4096 then 0 else 1) := rfl
@[simp] theorem State.logEntry_repairs (s : State) (v r c l w x) : (s.logEntry v r c l w x).repairs = s.repairs := rfl
@[simp] theorem State.logEntry_chandler (s : State) (v r c l w x) : (s.logEntry v r c l w x).chandler = s.chandler := rfl
@[simp] theorem State.logEntry_host (s : State) (v r c l w x) : (s.logEntry v r c l w x).host = s.host := rfl
@[simp] theorem State.logEntry_ports (s : State) (v r c l w x) : (s.logEntry v r c l w x).ports = s.ports := rfl
@[simp] theorem State.logEntry_holders (s : State) (v r c l w x) : (s.logEntry v r c l w x).holders = s.holders := rfl
@[simp] theorem State.logEntry_mgmt (s : State) (v r c l w x) : (s.logEntry v r c l w x).mgmt = s.mgmt := rfl
@[simp] theorem State.logEntry_capKey (s : State) (v r c l w x) : (s.logEntry v r c l w x).capKey = s.capKey := rfl

/-! ### `live`: the issuing thread changed -/

@[simp] theorem live_iss (s : State) (f) : (live f s).iss = { s.iss with live := f s.iss.live } := rfl
@[simp] theorem live_agenda (s : State) (f) : (live f s).agenda = s.agenda := rfl
@[simp] theorem live_inputs (s : State) (f) : (live f s).inputs = s.inputs := rfl
@[simp] theorem live_fresh (s : State) (f) : (live f s).fresh = s.fresh := rfl
@[simp] theorem live_nextId (s : State) (f) : (live f s).nextId = s.nextId := rfl
@[simp] theorem live_cycle (s : State) (f) : (live f s).cycle = s.cycle := rfl
@[simp] theorem live_div (s : State) (f) : (live f s).div = s.div := rfl
@[simp] theorem live_power (s : State) (f) : (live f s).power = s.power := rfl
@[simp] theorem live_threads (s : State) (f) : (live f s).threads = s.threads := rfl
@[simp] theorem live_cores (s : State) (f) : (live f s).cores = s.cores := rfl
@[simp] theorem live_clusters (s : State) (f) : (live f s).clusters = s.clusters := rfl
@[simp] theorem live_districts (s : State) (f) : (live f s).districts = s.districts := rfl
@[simp] theorem live_mem (s : State) (f) : (live f s).mem = s.mem := rfl
@[simp] theorem live_marks (s : State) (f) : (live f s).marks = s.marks := rfl
@[simp] theorem live_waiters (s : State) (f) : (live f s).waiters = s.waiters := rfl
@[simp] theorem live_parkSeqs (s : State) (f) : (live f s).parkSeqs = s.parkSeqs := rfl
@[simp] theorem live_wordErrors (s : State) (f) : (live f s).wordErrors = s.wordErrors := rfl
@[simp] theorem live_flitErrors (s : State) (f) : (live f s).flitErrors = s.flitErrors := rfl
@[simp] theorem live_sumWrites (s : State) (f) : (live f s).sumWrites = s.sumWrites := rfl
@[simp] theorem live_flight (s : State) (f) : (live f s).flight = s.flight := rfl
@[simp] theorem live_openReads (s : State) (f) : (live f s).openReads = s.openReads := rfl
@[simp] theorem live_queues (s : State) (f) : (live f s).queues = s.queues := rfl
@[simp] theorem live_cwords (s : State) (f) : (live f s).cwords = s.cwords := rfl
@[simp] theorem live_turn (s : State) (f) : (live f s).turn = s.turn := rfl
@[simp] theorem live_launches (s : State) (f) : (live f s).launches = s.launches := rfl
@[simp] theorem live_groups (s : State) (f) : (live f s).groups = s.groups := rfl
@[simp] theorem live_lgens (s : State) (f) : (live f s).lgens = s.lgens := rfl
@[simp] theorem live_stamp (s : State) (f) : (live f s).stamp = s.stamp := rfl
@[simp] theorem live_fmbxQueue (s : State) (f) : (live f s).fmbxQueue = s.fmbxQueue := rfl
@[simp] theorem live_snuffs (s : State) (f) : (live f s).snuffs = s.snuffs := rfl
@[simp] theorem live_log (s : State) (f) : (live f s).log = s.log := rfl
@[simp] theorem live_logSeq (s : State) (f) : (live f s).logSeq = s.logSeq := rfl
@[simp] theorem live_logLost (s : State) (f) : (live f s).logLost = s.logLost := rfl
@[simp] theorem live_repairs (s : State) (f) : (live f s).repairs = s.repairs := rfl
@[simp] theorem live_chandler (s : State) (f) : (live f s).chandler = s.chandler := rfl
@[simp] theorem live_host (s : State) (f) : (live f s).host = s.host := rfl
@[simp] theorem live_ports (s : State) (f) : (live f s).ports = s.ports := rfl
@[simp] theorem live_holders (s : State) (f) : (live f s).holders = s.holders := rfl
@[simp] theorem live_mgmt (s : State) (f) : (live f s).mgmt = s.mgmt := rfl
@[simp] theorem live_capKey (s : State) (f) : (live f s).capKey = s.capKey := rfl

/-! ### `transfer`: control transferred -/

@[simp] theorem transfer_iss (s : State) (a) : (transfer a s).iss = { s.iss with next := a, taken := true } := rfl
@[simp] theorem transfer_agenda (s : State) (a) : (transfer a s).agenda = s.agenda := rfl
@[simp] theorem transfer_inputs (s : State) (a) : (transfer a s).inputs = s.inputs := rfl
@[simp] theorem transfer_fresh (s : State) (a) : (transfer a s).fresh = s.fresh := rfl
@[simp] theorem transfer_nextId (s : State) (a) : (transfer a s).nextId = s.nextId := rfl
@[simp] theorem transfer_cycle (s : State) (a) : (transfer a s).cycle = s.cycle := rfl
@[simp] theorem transfer_div (s : State) (a) : (transfer a s).div = s.div := rfl
@[simp] theorem transfer_power (s : State) (a) : (transfer a s).power = s.power := rfl
@[simp] theorem transfer_threads (s : State) (a) : (transfer a s).threads = s.threads := rfl
@[simp] theorem transfer_cores (s : State) (a) : (transfer a s).cores = s.cores := rfl
@[simp] theorem transfer_clusters (s : State) (a) : (transfer a s).clusters = s.clusters := rfl
@[simp] theorem transfer_districts (s : State) (a) : (transfer a s).districts = s.districts := rfl
@[simp] theorem transfer_mem (s : State) (a) : (transfer a s).mem = s.mem := rfl
@[simp] theorem transfer_marks (s : State) (a) : (transfer a s).marks = s.marks := rfl
@[simp] theorem transfer_waiters (s : State) (a) : (transfer a s).waiters = s.waiters := rfl
@[simp] theorem transfer_parkSeqs (s : State) (a) : (transfer a s).parkSeqs = s.parkSeqs := rfl
@[simp] theorem transfer_wordErrors (s : State) (a) : (transfer a s).wordErrors = s.wordErrors := rfl
@[simp] theorem transfer_flitErrors (s : State) (a) : (transfer a s).flitErrors = s.flitErrors := rfl
@[simp] theorem transfer_sumWrites (s : State) (a) : (transfer a s).sumWrites = s.sumWrites := rfl
@[simp] theorem transfer_flight (s : State) (a) : (transfer a s).flight = s.flight := rfl
@[simp] theorem transfer_openReads (s : State) (a) : (transfer a s).openReads = s.openReads := rfl
@[simp] theorem transfer_queues (s : State) (a) : (transfer a s).queues = s.queues := rfl
@[simp] theorem transfer_cwords (s : State) (a) : (transfer a s).cwords = s.cwords := rfl
@[simp] theorem transfer_turn (s : State) (a) : (transfer a s).turn = s.turn := rfl
@[simp] theorem transfer_launches (s : State) (a) : (transfer a s).launches = s.launches := rfl
@[simp] theorem transfer_groups (s : State) (a) : (transfer a s).groups = s.groups := rfl
@[simp] theorem transfer_lgens (s : State) (a) : (transfer a s).lgens = s.lgens := rfl
@[simp] theorem transfer_stamp (s : State) (a) : (transfer a s).stamp = s.stamp := rfl
@[simp] theorem transfer_fmbxQueue (s : State) (a) : (transfer a s).fmbxQueue = s.fmbxQueue := rfl
@[simp] theorem transfer_snuffs (s : State) (a) : (transfer a s).snuffs = s.snuffs := rfl
@[simp] theorem transfer_log (s : State) (a) : (transfer a s).log = s.log := rfl
@[simp] theorem transfer_logSeq (s : State) (a) : (transfer a s).logSeq = s.logSeq := rfl
@[simp] theorem transfer_logLost (s : State) (a) : (transfer a s).logLost = s.logLost := rfl
@[simp] theorem transfer_repairs (s : State) (a) : (transfer a s).repairs = s.repairs := rfl
@[simp] theorem transfer_chandler (s : State) (a) : (transfer a s).chandler = s.chandler := rfl
@[simp] theorem transfer_host (s : State) (a) : (transfer a s).host = s.host := rfl
@[simp] theorem transfer_ports (s : State) (a) : (transfer a s).ports = s.ports := rfl
@[simp] theorem transfer_holders (s : State) (a) : (transfer a s).holders = s.holders := rfl
@[simp] theorem transfer_mgmt (s : State) (a) : (transfer a s).mgmt = s.mgmt := rfl
@[simp] theorem transfer_capKey (s : State) (a) : (transfer a s).capKey = s.capKey := rfl

/-! ### `stopWait`: the bundle not issued -/

@[simp] theorem stopWait_iss (s : State) (w o) : (stopWait w o s).iss = { s.iss with stopped := true, live := { s.iss.snap with run := .detached w o } } := rfl
@[simp] theorem stopWait_agenda (s : State) (w o) : (stopWait w o s).agenda = s.agenda := rfl
@[simp] theorem stopWait_inputs (s : State) (w o) : (stopWait w o s).inputs = s.inputs := rfl
@[simp] theorem stopWait_fresh (s : State) (w o) : (stopWait w o s).fresh = s.fresh := rfl
@[simp] theorem stopWait_nextId (s : State) (w o) : (stopWait w o s).nextId = s.nextId := rfl
@[simp] theorem stopWait_cycle (s : State) (w o) : (stopWait w o s).cycle = s.cycle := rfl
@[simp] theorem stopWait_div (s : State) (w o) : (stopWait w o s).div = s.div := rfl
@[simp] theorem stopWait_power (s : State) (w o) : (stopWait w o s).power = s.power := rfl
@[simp] theorem stopWait_threads (s : State) (w o) : (stopWait w o s).threads = s.threads := rfl
@[simp] theorem stopWait_cores (s : State) (w o) : (stopWait w o s).cores = s.cores := rfl
@[simp] theorem stopWait_clusters (s : State) (w o) : (stopWait w o s).clusters = s.clusters := rfl
@[simp] theorem stopWait_districts (s : State) (w o) : (stopWait w o s).districts = s.districts := rfl
@[simp] theorem stopWait_mem (s : State) (w o) : (stopWait w o s).mem = s.mem := rfl
@[simp] theorem stopWait_marks (s : State) (w o) : (stopWait w o s).marks = s.marks := rfl
@[simp] theorem stopWait_waiters (s : State) (w o) : (stopWait w o s).waiters = s.waiters := rfl
@[simp] theorem stopWait_parkSeqs (s : State) (w o) : (stopWait w o s).parkSeqs = s.parkSeqs := rfl
@[simp] theorem stopWait_wordErrors (s : State) (w o) : (stopWait w o s).wordErrors = s.wordErrors := rfl
@[simp] theorem stopWait_flitErrors (s : State) (w o) : (stopWait w o s).flitErrors = s.flitErrors := rfl
@[simp] theorem stopWait_sumWrites (s : State) (w o) : (stopWait w o s).sumWrites = s.sumWrites := rfl
@[simp] theorem stopWait_flight (s : State) (w o) : (stopWait w o s).flight = s.flight := rfl
@[simp] theorem stopWait_openReads (s : State) (w o) : (stopWait w o s).openReads = s.openReads := rfl
@[simp] theorem stopWait_queues (s : State) (w o) : (stopWait w o s).queues = s.queues := rfl
@[simp] theorem stopWait_cwords (s : State) (w o) : (stopWait w o s).cwords = s.cwords := rfl
@[simp] theorem stopWait_turn (s : State) (w o) : (stopWait w o s).turn = s.turn := rfl
@[simp] theorem stopWait_launches (s : State) (w o) : (stopWait w o s).launches = s.launches := rfl
@[simp] theorem stopWait_groups (s : State) (w o) : (stopWait w o s).groups = s.groups := rfl
@[simp] theorem stopWait_lgens (s : State) (w o) : (stopWait w o s).lgens = s.lgens := rfl
@[simp] theorem stopWait_stamp (s : State) (w o) : (stopWait w o s).stamp = s.stamp := rfl
@[simp] theorem stopWait_fmbxQueue (s : State) (w o) : (stopWait w o s).fmbxQueue = s.fmbxQueue := rfl
@[simp] theorem stopWait_snuffs (s : State) (w o) : (stopWait w o s).snuffs = s.snuffs := rfl
@[simp] theorem stopWait_log (s : State) (w o) : (stopWait w o s).log = s.log := rfl
@[simp] theorem stopWait_logSeq (s : State) (w o) : (stopWait w o s).logSeq = s.logSeq := rfl
@[simp] theorem stopWait_logLost (s : State) (w o) : (stopWait w o s).logLost = s.logLost := rfl
@[simp] theorem stopWait_repairs (s : State) (w o) : (stopWait w o s).repairs = s.repairs := rfl
@[simp] theorem stopWait_chandler (s : State) (w o) : (stopWait w o s).chandler = s.chandler := rfl
@[simp] theorem stopWait_host (s : State) (w o) : (stopWait w o s).host = s.host := rfl
@[simp] theorem stopWait_ports (s : State) (w o) : (stopWait w o s).ports = s.ports := rfl
@[simp] theorem stopWait_holders (s : State) (w o) : (stopWait w o s).holders = s.holders := rfl
@[simp] theorem stopWait_mgmt (s : State) (w o) : (stopWait w o s).mgmt = s.mgmt := rfl
@[simp] theorem stopWait_capKey (s : State) (w o) : (stopWait w o s).capKey = s.capKey := rfl

/-! ### The messages after a send, the log after an entry -/

theorem State.send_flight (s : State) (p m) : ∃ due, (s.send p m).flight = s.flight ++ [⟨s.nextId, due, p, m⟩] := ⟨_, rfl⟩
theorem State.logEntry_log (s : State) (v r c l w x) : ∃ e, (s.logEntry v r c l w x).log = mset s.log (s.logSeq % 4096) e := ⟨_, rfl⟩

end Sys2Proof.Machine
end

