-- ==== Sys2Proof/Laws/Memory.lean ====
section
/-! SUPPORT. Maps and memory: a read after a write, and the canonical form that every memory operation keeps. -/

namespace Sys2Proof.Machine

/-! ## Maps -/

theorem mget_mset {α : Type} (m : List (Nat × α)) (n k : Nat) (a : α) :
    mget (mset m n a) k = if n = k then some a else mget m k := by
  induction m with
  | nil => simp [mset, mget]
  | cons p r ih =>
    obtain ⟨j, v⟩ := p
    simp only [mset]
    split
    · simp [mget]
    · split
      · subst_vars; by_cases h : j = k <;> simp [mget, h]
      · rename_i h1 h2
        by_cases hj : j = k
        · subst hj; simp [mget, h2]
        · simp [mget, hj, ih]
@[simp] theorem mget_mset_self {α : Type} (m : List (Nat × α)) (n : Nat) (a : α) : mget (mset m n a) n = some a := by
  simp [mget_mset]
theorem mget_mdel {α : Type} (m : List (Nat × α)) (n k : Nat) :
    mget (mdel m n) k = if n = k then none else mget m k := by
  induction m with
  | nil => simp [mdel, mget]
  | cons p r ih =>
    obtain ⟨j, v⟩ := p
    by_cases hj : j = n
    · subst hj; by_cases hk : j = k
      · subst hk; simpa [mdel] using ih
      · simp [mdel, mget, ih, hk]
    · by_cases hk : j = k
      · subst hk; simp [mdel, mget, hj, Ne.symm hj]
      · simp [mdel, mget, hj, hk, ih]
theorem mget_mput {α : Type} [DecidableEq α] (d : α) (m : List (Nat × α)) (n k : Nat) (a : α) :
    (mget (mput d m n a) k).getD d = if n = k then a else (mget m k).getD d := by
  unfold mput
  split
  · subst_vars; rw [mget_mdel]; split <;> simp
  · rw [mget_mset]; split <;> simp

/-! ## Units -/

@[simp] theorem State.core_setCore (s : State) (c d : Nat) (k : Core) :
    (s.setCore c k).core d = if c = d then k else s.core d := by
  simp only [State.core, State.setCore, mget_mset]; split <;> rfl
@[simp] theorem State.cluster_setCluster (s : State) (c d : Nat) (k : Cluster) :
    (s.setCluster c k).cluster d = if c = d then k else s.cluster d := by
  simp only [State.cluster, State.setCluster, mget_mset]; split <;> rfl
@[simp] theorem State.district_setDistrict (s : State) (c d : Nat) (k : District) :
    (s.setDistrict c k).district d = if c = d then k else s.district d := by
  simp only [State.district, State.setDistrict, mget_mset]; split <;> rfl
@[simp] theorem State.thread_setThread (s : State) (t u : Nat) (th : Thread) :
    (s.setThread t th).thread u = if t = u then some th else s.thread u := by
  simp only [State.thread, State.setThread, mget_mset]
@[simp] theorem State.thread_dropThread (s : State) (t u : Nat) :
    (s.dropThread t).thread u = if t = u then none else s.thread u := by
  simp only [State.thread, State.dropThread, mget_mdel]
@[simp] theorem State.wordMeta_setMeta (s : State) (w x : Nat) (m : Meta) :
    (s.setMeta w m).wordMeta x = if w = x then m else s.wordMeta x := by
  by_cases h : w = x
  · subst h; simp [State.wordMeta, mget_mput]
  · simp only [State.wordMeta, State.setMeta, mput, h, ↓reduceIte]
    split
    · rw [mget_mdel, if_neg h]
    · rw [mget_mset, if_neg h]
@[simp] theorem State.waitersAt_setWaiters (s : State) (w x : Nat) (l : List Waiter) :
    (s.setWaiters w l).waitersAt x = if w = x then l else s.waitersAt x := by
  simp only [State.waitersAt, State.setWaiters]; exact mget_mput _ _ _ _ _

/-! ## Memory -/

theorem Memory.wfFrom_mono (m : List Host.Cell) (lo hi : Nat) (h : lo ≤ hi) (w : Memory.wfFrom hi m = true) :
    Memory.wfFrom lo m = true := by
  cases m with
  | nil => rfl
  | cons p r => simp only [Memory.wfFrom, Bool.and_eq_true, decide_eq_true_eq] at *; exact ⟨⟨by omega, w.1.2⟩, w.2⟩
theorem Memory.wfFrom_write (m : List Host.Cell) (lo a : Nat) (b : Byte) (h : lo ≤ a) (w : Memory.wfFrom lo m = true) :
    Memory.wfFrom lo (Memory.write m a b) = true := by
  induction m generalizing lo with
  | nil => simp only [Memory.write]; split <;> simp_all [Memory.wfFrom]
  | cons p r ih =>
    obtain ⟨k, v⟩ := p
    simp only [Memory.wfFrom, Bool.and_eq_true, decide_eq_true_eq] at w
    obtain ⟨⟨hk, hv⟩, hr⟩ := w
    simp only [Memory.write]
    split
    · split
      · simp_all [Memory.wfFrom]
      · simp_all [Memory.wfFrom]
    · split
      · split
        · exact Memory.wfFrom_mono r _ _ (by omega) hr
        · simp_all [Memory.wfFrom]
      · have := ih (k + 1) (by omega) hr
        simp_all [Memory.wfFrom]
/-- Writing a byte keeps the canonical form. -/
theorem Memory.wf_write (m : List Host.Cell) (a : Nat) (b : Byte) (w : Memory.wf m = true) :
    Memory.wf (Memory.write m a b) = true := Memory.wfFrom_write m 0 a b (Nat.zero_le _) w
/-- Writing bytes keeps the canonical form. -/
theorem Memory.wf_writeN (m : List Host.Cell) (a n v : Nat) (w : Memory.wf m = true) :
    Memory.wf (Memory.writeN m a n v) = true := by
  induction n generalizing m a v with
  | zero => exact w
  | succ n ih => exact ih _ _ _ (Memory.wf_write m a _ w)
theorem Memory.wfFrom_filter (m : List Host.Cell) (p : Host.Cell → Bool) (lo : Nat) (w : Memory.wfFrom lo m = true) :
    Memory.wfFrom lo (m.filter p) = true := by
  induction m generalizing lo with
  | nil => rfl
  | cons c r ih =>
    simp only [Memory.wfFrom, Bool.and_eq_true, decide_eq_true_eq] at w
    obtain ⟨⟨hk, hv⟩, hr⟩ := w
    simp only [List.filter_cons]
    split
    · have := ih _ hr; simp_all [Memory.wfFrom]
    · exact ih _ (Memory.wfFrom_mono r _ _ (by omega) hr)
/-- Clearing bytes keeps the canonical form. -/
theorem Memory.wf_filter (m : List Host.Cell) (p : Host.Cell → Bool) (w : Memory.wf m = true) :
    Memory.wf (m.filter p) = true := Memory.wfFrom_filter m p 0 w
/-- The memory of reset is canonical. -/
theorem Memory.wf_reset : Memory.wf State.reset.mem = true := rfl

theorem Memory.get_above (m : List Host.Cell) (lo a : Nat) (h : a < lo) (w : Memory.wfFrom lo m = true) : mget m a = none := by
  induction m generalizing lo with
  | nil => rfl
  | cons p r ih =>
    obtain ⟨k, v⟩ := p
    simp only [Memory.wfFrom, Bool.and_eq_true, decide_eq_true_eq] at w
    rw [mget, if_neg (by omega)]
    exact ih (k + 1) (by omega) w.2
/-- A byte read after a byte written: the byte written at that address, what stood there at any other. -/
theorem Memory.read_write (m : List Host.Cell) (lo a x : Nat) (b : Byte) (w : Memory.wfFrom lo m = true) :
    Memory.read (Memory.write m a b) x = if x = a then b else Memory.read m x := by
  induction m generalizing lo with
  | nil =>
    by_cases hb : b = Memory.unlisted
    · subst hb; simp [Memory.write, Memory.read, mget]
    · simp only [Memory.write, hb, ↓reduceIte, Memory.read, mget]
      by_cases h : x = a
      · subst h; simp
      · simp [h, Ne.symm h]
  | cons p r ih =>
    obtain ⟨k, v⟩ := p
    simp only [Memory.wfFrom, Bool.and_eq_true, decide_eq_true_eq] at w
    have hr := w.2
    have get := fun (j : Nat) (h : j < k + 1) => Memory.get_above r (k + 1) j h hr
    simp only [Memory.write]
    split
    · rename_i hak
      split
      · subst_vars
        by_cases h : x = a
        · subst h; simp [Memory.read, mget, get x (by omega), show k ≠ x by omega]
        · simp [h]
      · by_cases h : x = a
        · subst h; simp [Memory.read, mget]
        · simp [Memory.read, mget, h, Ne.symm h]
    · split
      · rename_i _ hak
        subst hak
        split
        · subst_vars
          by_cases h : x = a
          · subst h; simp [Memory.read, get x (by omega)]
          · simp [Memory.read, mget, h, Ne.symm h]
        · by_cases h : x = a
          · subst h; simp [Memory.read, mget]
          · simp [Memory.read, mget, h, Ne.symm h]
      · rename_i h1 h2
        have := ih (k + 1) hr
        simp only [Memory.read, mget] at this ⊢
        by_cases h : k = x
        · subst h; simp [Ne.symm h2]
        · simp [h, this]
/-- A byte read after `n` bytes written. -/
theorem Memory.read_writeN (m : List Host.Cell) (a n v x : Nat) (w : Memory.wf m = true) :
    Memory.read (Memory.writeN m a n v) x =
      if a ≤ x ∧ x < a + n then BitVec.ofNat 8 (v / 256 ^ (x - a)) else Memory.read m x := by
  induction n generalizing m a v with
  | zero => simp [Memory.writeN]
  | succ n ih =>
    rw [Memory.writeN, ih _ _ _ (Memory.wf_write m a _ w), Memory.read_write m 0 a x _ w]
    by_cases h : x = a
    · subst h; simp
    · by_cases h2 : a + 1 ≤ x ∧ x < a + 1 + n
      · rw [if_pos h2, if_pos (by omega), show x - a = (x - (a + 1)) + 1 by omega, Nat.pow_succ, Nat.mul_comm,
          Nat.div_div_eq_div_mul]
      · rw [if_neg h2, if_neg h, if_neg (by omega)]

end Sys2Proof.Machine
end

