-- ==== Sys2Proof/Laws/Bank.lean ====
section
/-! SUPPORT. What each operation of a home bank can do: it keeps memory in its canonical form, and touches nothing but words,
their waiters and the vigil areas, the budgets of the issuers it parks, and the messages it sends. -/

namespace Sys2Proof.Machine

/-- The second state differs from the first in what a bank's operation may change, and keeps the canonical form. -/
structure AtBank (s t : State) : Prop where
  wf : Memory.wf s.mem = true → Memory.wf t.mem = true
  iss : t.iss = s.iss
  agenda : ∃ l, t.agenda = l ++ s.agenda
  inputs : t.inputs = s.inputs
  fresh : t.fresh = s.fresh
  cycle : t.cycle = s.cycle
  div : t.div = s.div
  power : t.power = s.power
  cores : t.cores = s.cores
  queues : t.queues = s.queues
  launches : t.launches = s.launches
  groups : t.groups = s.groups
  lgens : t.lgens = s.lgens
  stamp : t.stamp = s.stamp
  turn : t.turn = s.turn
  fmbxQueue : t.fmbxQueue = s.fmbxQueue
  snuffs : t.snuffs = s.snuffs
  log : t.log = s.log
  logSeq : t.logSeq = s.logSeq
  logLost : t.logLost = s.logLost
  repairs : t.repairs = s.repairs
  wordErrors : t.wordErrors = s.wordErrors
  flitErrors : t.flitErrors = s.flitErrors
  openReads : t.openReads = s.openReads
  holders : t.holders = s.holders
  chandler : { t.chandler with pagerCmds := s.chandler.pagerCmds } = s.chandler
  mgmt : t.mgmt = s.mgmt
  capKey : t.capKey = s.capKey

/-- Only what a bank's operation may change differs. -/
theorem AtBank.same {s t : State} (wf : Memory.wf s.mem = true → Memory.wf t.mem = true)
    (h : { t with
      agenda := s.agenda
      nextId := s.nextId
      threads := s.threads
      clusters := s.clusters
      districts := s.districts
      mem := s.mem
      marks := s.marks
      waiters := s.waiters
      parkSeqs := s.parkSeqs
      sumWrites := s.sumWrites
      flight := s.flight
      cwords := s.cwords
      chandler := { t.chandler with pagerCmds := s.chandler.pagerCmds }
      host := s.host
      ports := s.ports } = s) (k : ∃ l, t.agenda = l ++ s.agenda) : AtBank s t where
  wf := wf
  agenda := k
  iss := (congrArg State.iss h :)
  inputs := (congrArg State.inputs h :)
  fresh := (congrArg State.fresh h :)
  cycle := (congrArg State.cycle h :)
  div := (congrArg State.div h :)
  power := (congrArg State.power h :)
  cores := (congrArg State.cores h :)
  queues := (congrArg State.queues h :)
  launches := (congrArg State.launches h :)
  groups := (congrArg State.groups h :)
  lgens := (congrArg State.lgens h :)
  stamp := (congrArg State.stamp h :)
  turn := (congrArg State.turn h :)
  fmbxQueue := (congrArg State.fmbxQueue h :)
  snuffs := (congrArg State.snuffs h :)
  log := (congrArg State.log h :)
  logSeq := (congrArg State.logSeq h :)
  logLost := (congrArg State.logLost h :)
  repairs := (congrArg State.repairs h :)
  wordErrors := (congrArg State.wordErrors h :)
  flitErrors := (congrArg State.flitErrors h :)
  openReads := (congrArg State.openReads h :)
  holders := (congrArg State.holders h :)
  chandler := (congrArg State.chandler h :)
  mgmt := (congrArg State.mgmt h :)
  capKey := (congrArg State.capKey h :)
theorem AtBank.rfl {s : State} : AtBank s s := .same id (by rfl) ⟨[], by rfl⟩
theorem AtBank.trans {s t u : State} (h : AtBank s t) (k : AtBank t u) : AtBank s u := by
  constructor
  case wf => exact fun w => k.wf (h.wf w)
  case agenda =>
    obtain ⟨l, e⟩ := h.agenda
    obtain ⟨m, f⟩ := k.agenda
    exact ⟨m ++ l, by rw [f, e, List.append_assoc]⟩
  case chandler => rw [← h.chandler, ← k.chandler]
  all_goals simp only [k.iss, k.inputs, k.fresh, k.cycle, k.div, k.power, k.cores, k.queues, k.launches, k.groups, k.lgens, k.stamp, k.turn,
    k.fmbxQueue, k.snuffs, k.log, k.logSeq, k.logLost, k.repairs, k.wordErrors, k.flitErrors, k.openReads, k.holders, k.mgmt,
    k.capKey, h.iss, h.inputs, h.fresh, h.cycle, h.div, h.power, h.cores, h.queues, h.launches, h.groups, h.lgens, h.stamp, h.turn,
    h.fmbxQueue, h.snuffs, h.log, h.logSeq, h.logLost, h.repairs, h.wordErrors, h.flitErrors, h.openReads, h.holders, h.mgmt,
    h.capKey]
/-- The firmware's memory is taken as it was. -/
theorem AtBank.heap {s t : State} (h : AtBank s t) : t.chandler.heap = s.chandler.heap := (congrArg Chandler.heap h.chandler :)
/-- A bank's operation may end in either of two. -/
theorem AtBank.ite {s t u : State} {p : Prop} [Decidable p] (h : AtBank s t) (k : AtBank s u) : AtBank s (if p then t else u) := by
  split
  · exact h
  · exact k

/-! ## Words -/

theorem atBank_writeN (s : State) (a n v : Nat) : AtBank s (s.writeN a n v) := .same (Memory.wf_writeN _ _ _ _) (by rfl) ⟨[], by rfl⟩
theorem atBank_writeWord (s : State) (a : Nat) (v : Word) : AtBank s (s.writeWord a v) := atBank_writeN s a 8 v.toNat
theorem atBank_setMeta (s : State) (w : Nat) (m : Meta) : AtBank s (s.setMeta w m) := .same id (by rfl) ⟨[], by rfl⟩
theorem atBank_countWrite (s : State) (w : Nat) : AtBank s (s.countWrite w) := .ite (.same id (by rfl) ⟨[], by rfl⟩) .rfl
theorem atBank_storeWord (s : State) (w : Nat) (v : Word) : AtBank s (s.storeWord w v) :=
  (atBank_countWrite s w).trans ((atBank_writeWord _ _ _).trans (atBank_setMeta _ _ _))
theorem atBank_busWrite (s : State) (a n v : Nat) : AtBank s (s.busWrite a n v) :=
  (atBank_countWrite s _).trans (.ite (atBank_writeWord _ _ _) (.ite (atBank_writeN _ _ _ _) .rfl))
theorem atBank_setWaiters (s : State) (w : Nat) (l : List Waiter) : AtBank s (s.setWaiters w l) := .same id (by rfl) ⟨[], by rfl⟩
theorem atBank_modDistrict (s : State) (d : Nat) (f : District → District) : AtBank s (s.modDistrict d f) :=
  .same id (by rfl) ⟨[], by rfl⟩
theorem atBank_noteKick (s : State) (a : Access) : AtBank s (s.noteKick a) := by
  unfold State.noteKick
  split
  · exact .ite (atBank_modDistrict _ _ _) .rfl
  · exact .rfl
theorem atBank_takeSeq (s : State) (w : Nat) : AtBank s (s.takeSeq w).2 := by
  unfold State.takeSeq
  split <;> exact .same id (by rfl) ⟨[], by rfl⟩
/-- A form's effect on its word (R148). -/
theorem atBank_apply (s : State) (a : Access) : AtBank s (s.apply a).1 := by
  have store (n : Nat) (m : Meta) : AtBank s (((s.noteKick a).busWrite a.pa n a.data.toNat).setMeta (wordOfAddr a.pa) m) :=
    (atBank_noteKick s a).trans ((atBank_busWrite _ _ _ _).trans (atBank_setMeta _ _ _))
  unfold State.apply
  dsimp only
  cases a.form <;> dsimp only
  case st | stf | ste => exact store _ _
  case copy =>
    exact (atBank_noteKick s a).trans ((atBank_busWrite _ _ _ _).trans (.ite (atBank_setMeta _ _ _) .rfl))
  case ldc | fest => exact atBank_setMeta _ _ _
  case lrw => exact (atBank_takeSeq _ _).trans (atBank_setMeta _ _ _)
  case sch =>
    split
    · exact (atBank_busWrite _ _ _ _).trans (atBank_setMeta _ _ _)
    · exact .rfl
  case rcan => exact .ite (atBank_setMeta _ _ _) .rfl
  all_goals exact .rfl

/-! ## Answers -/

theorem atBank_send (s : State) (p : Nat) (m : Msg) : AtBank s (s.send p m) := .same id (by rfl) ⟨[], by rfl⟩
theorem atBank_answer (s : State) (a : Access) (r : Reply) : AtBank s (s.answer a r) := by
  unfold State.answer
  refine .ite .rfl ?_
  split
  · exact .ite (atBank_send _ _ _) (atBank_send _ _ _)
  · exact .same id (by rfl) ⟨[.event (.replyArrival s.nextId)], by rfl⟩
  · exact atBank_send _ _ _
theorem atBank_refuse (s : State) (a : Access) (c d : Nat) (va vb vc : Word) : AtBank s (s.refuse a c d va vb vc) := by
  unfold State.refuse
  refine .ite ?_ (atBank_answer _ _ _)
  dsimp only
  split <;> exact atBank_send _ _ _

/-! ## The vigil areas and parking -/

theorem atBank_writeWords (s : State) (a : Nat) (l : List Word) : AtBank s (s.writeWords a l) := by
  induction l generalizing s a with
  | nil => exact .rfl
  | cons v r ih => exact (atBank_storeWord s a v).trans (ih _ _)
theorem atBank_writeChain (s : State) (d : District) (w : Nat) (l : List (Nat × Nat × Nat × Who × Word)) : AtBank s (s.writeChain d w l) := by
  induction l generalizing s with
  | nil => exact .rfl
  | cons v r ih =>
    obtain ⟨i, form, seq, who, data⟩ := v
    simp only [State.writeChain]
    exact (atBank_writeWords _ _ _).trans (ih _)
theorem atBank_syncChain (s : State) (w : Nat) : AtBank s (s.syncChain w) := atBank_writeChain _ _ _ _
theorem atBank_takeRecord (s : State) (w i : Nat) : AtBank s (s.takeRecord w i) := atBank_modDistrict _ _ _
theorem atBank_freeRecord (s : State) (w i : Nat) : AtBank s (s.freeRecord w i) := by
  unfold State.freeRecord
  exact (atBank_storeWord _ _ _).trans (atBank_modDistrict _ _ _)
theorem atBank_modNamed (s : State) (n : TName) (f : Thread → Thread) : AtBank s (s.modNamed n f) := by
  unfold State.modNamed
  split
  · exact .same id (by rfl) ⟨[], by rfl⟩
  · exact .rfl
theorem atBank_spendBudget (s : State) (w : Who) : AtBank s (s.spendBudget w) := by
  unfold State.spendBudget
  split
  · exact atBank_modNamed _ _ _
  · refine .ite ?_ (.ite (atBank_modDistrict _ _ _) (.ite .rfl (.same id (by rfl) ⟨[], by rfl⟩)))
    split
    · exact .same id (by rfl) ⟨[], by rfl⟩
    · exact .rfl
  · split
    · exact .same id (by rfl) ⟨[], by rfl⟩
    · exact .rfl
  · exact .same id (by rfl) ⟨[], by rfl⟩
  · exact .same id (by rfl) ⟨[], by rfl⟩
  · exact .rfl
  · exact .rfl
/-- Parking an access (R150, R153, R156). -/
theorem atBank_park (s : State) (a : Access) : AtBank s (s.park a) := by
  unfold State.park
  dsimp only
  refine .ite (atBank_refuse _ _ _ _ _ _ _) (.ite (atBank_refuse _ _ _ _ _ _ _) ?_)
  have spent : AtBank s (if a.repark then s.spendBudget a.who else s) := .ite (atBank_spendBudget _ _) .rfl
  refine spent.trans ((atBank_takeSeq _ (wordOfAddr a.pa)).trans ?_)
  generalize ((if a.repark then s.spendBudget a.who else s).takeSeq (wordOfAddr a.pa)).2 = u
  generalize ((if a.repark then s.spendBudget a.who else s).takeSeq (wordOfAddr a.pa)).1 = n
  have waits (sp : Option Nat) : AtBank u (u.setWaiters (wordOfAddr a.pa) (u.waitersAt (wordOfAddr a.pa) ++ [⟨a, n, sp⟩])) :=
    atBank_setWaiters _ _ _
  split
  · refine AtBank.trans ?_ (.ite .rfl (atBank_modNamed _ _ _))
    split
    · exact (waits _).trans ((atBank_takeRecord _ _ _).trans (atBank_syncChain _ _))
    · exact waits _
  · split
    · exact (waits _).trans ((atBank_takeRecord _ _ _).trans (atBank_syncChain _ _))
    · exact waits _

/-! ## Serving (R151) -/

theorem atBank_afterHold (s : State) (w : Nat) (m : Meta) : AtBank s (s.afterHold w m) := by
  unfold State.afterHold
  split
  · exact .ite .rfl ((atBank_freeRecord _ _ _).trans (atBank_syncChain _ _))
  · exact .rfl
theorem atBank_placeHold (s : State) (w : Nat) : AtBank s (s.placeHold w) := by
  unfold State.placeHold
  dsimp only
  refine .ite ?_ .rfl
  split
  · exact (atBank_setMeta _ _ _).trans ((atBank_takeRecord _ _ _).trans (atBank_syncChain _ _))
  · exact .rfl
theorem atBank_effect (s : State) (a : Access) : AtBank s (s.effect a).1 :=
  (atBank_apply s a).trans ((atBank_afterHold _ _ _).trans (.ite (atBank_placeHold _ _) .rfl))
theorem atBank_performOnce (s : State) (a : Access) : AtBank s (s.performOnce a) :=
  (atBank_effect s a).trans (atBank_answer _ _ _)
theorem atBank_servePass (w : Nat) (l : List Waiter) (s : State) (b : Bool) : AtBank s (servePass w l s b).1 := by
  induction l generalizing s b with
  | nil => exact .rfl
  | cons e r ih =>
    unfold servePass
    split
    · exact (atBank_setWaiters _ _ _).trans ((atBank_performOnce _ _).trans (ih _ _))
    · exact ih _ _
theorem atBank_serveLoop (w n : Nat) (s : State) : AtBank s (serveLoop w n s) := by
  induction n generalizing s with
  | zero => exact .rfl
  | succ n ih =>
    unfold serveLoop
    dsimp only
    split
    · exact (atBank_servePass _ _ _ _).trans (ih _)
    · exact atBank_servePass _ _ _ _
theorem atBank_wakeSpilled (w : Nat) (l : List Waiter) (s : State) : AtBank s (wakeSpilled w l s) := by
  induction l generalizing s with
  | nil => exact .rfl
  | cons e r ih =>
    unfold wakeSpilled
    split
    · split
      · exact (atBank_setWaiters _ _ _).trans ((atBank_freeRecord _ _ _).trans ((atBank_syncChain _ _).trans
          ((atBank_answer _ _ _).trans (ih _))))
      · exact ih _
    · exact ih _
/-- Serving a word's waiters. -/
theorem atBank_feserve (s : State) (w : Nat) : AtBank s (s.feserve w) :=
  (atBank_serveLoop _ _ _).trans (atBank_wakeSpilled _ _ _)
/-- An access at its home bank: everything it can do (R141, R148, R150, R151). -/
theorem atBank_perform (s : State) (a : Access) : AtBank s (s.perform a) := by
  unfold State.perform
  dsimp only
  split
  · exact atBank_refuse _ _ _ _ _ _ _
  · exact .ite (atBank_park _ _) (.ite (atBank_refuse _ _ _ _ _ _ _)
      ((atBank_performOnce _ _).trans (.ite (atBank_feserve _ _) .rfl)))
/-- Waiters removed from their word (R158). -/
theorem atBank_dropWaiters (s : State) (w : Nat) (p : Waiter → Bool) : AtBank s (s.dropWaiters w p) := by
  unfold State.dropWaiters
  dsimp only
  refine .ite .rfl ?_
  refine (atBank_setWaiters s w ((s.waitersAt w).filter (fun x => !p x))).trans (AtBank.trans ?_ (atBank_syncChain _ _))
  generalize s.setWaiters w ((s.waitersAt w).filter (fun x => !p x)) = u
  induction (s.waitersAt w).filter p generalizing u with
  | nil => exact .rfl
  | cons x r ih =>
    refine AtBank.trans ?_ (ih _)
    dsimp only
    split
    · exact atBank_freeRecord _ _ _
    · exact .rfl

end Sys2Proof.Machine
end

