-- ==== Sys2Proof/Laws/Issue.lean ====
section
/-! SUPPORT. The shared operations of an issuing instruction: what each does when its guard reads true, its registers are
present and its operands are clean, and what it does otherwise. -/

namespace Sys2Proof.Machine

/-! ## When an instruction has its own effect -/

theorem State.ready.mono {s : State} {g : PReg} {rs l : List Reg} (h : s.ready g rs) (k : ∀ r ∈ l, r ∈ rs) : s.ready g l :=
  ⟨h.1, fun r hr => h.2 r (k r hr)⟩
theorem State.readyClean.mono {s : State} {g : PReg} {rs l : List Reg} (h : s.readyClean g rs) (k : ∀ r ∈ l, r ∈ rs) :
    s.readyClean g l := ⟨h.1.mono k, fun r hr => h.2 r (k r hr)⟩

/-! ## Guard, presence, poison -/

/-- A false guard: nothing happens (R91). -/
theorem guarded_false {s : State} {g : PReg} {f : State → State} (h : s.iss.snap.predAt g = false) : guarded g f s = s := by
  simp [guarded, guardOn, h]
theorem guarded_true {s : State} {g : PReg} {f : State → State} (h : s.iss.snap.predAt g = true) : guarded g f s = f s := by
  simp [guarded, guardOn, h]
theorem guarded_ready {s : State} {g : PReg} {rs : List Reg} {f : State → State} (h : s.ready g rs) : guarded g f s = f s :=
  guarded_true h.1
theorem absentOf_none {s : State} {rs : List Reg} (h : ∀ r ∈ rs, s.iss.snap.isPresent r = true) :
    absentOf s.iss.snap rs = none := by
  simpa [absentOf] using h
/-- Every register present: the body runs (R18). -/
theorem needs_present {s : State} {rs : List Reg} {f : State → State} (h : ∀ r ∈ rs, s.iss.snap.isPresent r = true) :
    needs rs f s = f s := by simp [needs, absentOf_none h]
theorem needs_ready {s : State} {g : PReg} {rs : List Reg} {f : State → State} (h : s.ready g rs) : needs rs f s = f s :=
  needs_present h.2
/-- The first register absent: the bundle stops and its thread waits for that register (R18). -/
theorem needs_absent {s : State} {r : Reg} {rs : List Reg} {f : State → State} (h : s.iss.snap.isPresent r = false) :
    needs (r :: rs) f s = stopWait 3 (BitVec.ofNat 64 r.val) s := by simp [needs, absentOf, h]
/-- No operand poisoned: the body runs (R401). -/
theorem clean_clean {s : State} {rs : List (Reg × Nat)} {f : State → State}
    (h : ∀ p ∈ rs, s.iss.snap.isPoisoned p.1 = false) : clean rs f s = f s := by
  have : poisonOf s.iss.snap rs = none := by
    simp only [poisonOf, List.find?_eq_none]; intro p hp; simp [h p hp]
  simp [clean, this]

/-! ## Instruction shapes -/

/-- An A-slot instruction that reads registers and writes one (R91, R23). -/
theorem alu_ready {s : State} {d : Reg} {rs : List Reg} {g : PReg} {f : Thread → Word × FlagBits} (h : s.ready g rs) :
    alu d rs g f s =
      raiseFlags (f s.iss.snap).2 (writeReg d (f s.iss.snap).1 (anyPoison s.iss.snap rs) s) := by
  simp [alu, guarded_ready h, needs_ready h]
/-- A comparison that writes a predicate (R97, R98). -/
theorem compare_ready {s : State} {p : PReg} {rs : List Reg} {g : PReg} {f : Thread → Bool × FlagBits} (h : s.ready g rs) :
    Machine.compare p rs g f s =
      match poisonOf s.iss.snap (rs.map fun r => (r, 1)) with
      | some q => trapTook (poisonTrap q.1 q.2)
          (raiseFlags (f s.iss.snap).2 (live (fun th => th.setPred p (f s.iss.snap).1) s))
      | none => raiseFlags (f s.iss.snap).2 (live (fun th => th.setPred p (f s.iss.snap).1) s) := by
  simp only [Machine.compare, guarded_ready h, needs_ready h]
  rfl
@[simp] theorem raiseFlags_zero (s : State) : raiseFlags 0 s = s := by simp [raiseFlags, live, Thread.raise]
/-- A supervisor thread may issue what only supervisors may (R393). -/
theorem supervisor_priv {s : State} {n : Nat} {f : State → State} (h : s.iss.snap.priv = true) : supervisor n f s = f s := by
  simp [supervisor, isSup, h]
/-- A user thread takes the privilege exception (R396, R417). -/
theorem supervisor_user {s : State} {n : Nat} {f : State → State} (h : s.iss.snap.priv = false) :
    supervisor n f s = trap { cause := 0x12, detail := n } s := by simp [supervisor, isSup, h]

/-! ## Registers -/

@[simp] theorem Thread.reg_setReg (th : Thread) (d r : Reg) (v : Word) (p : Bool) :
    (th.setReg d v p).reg r = if d = r then v else th.reg r := by
  simp only [Thread.reg, Thread.setReg, Vector.getElem_set, Fin.ext_iff]
theorem setBit_get {n : Nat} (m : BitVec n) (i j : Nat) (b : Bool) :
    (setBit m i b).getLsbD j = if j < n ∧ i = j then b else m.getLsbD j := by
  unfold setBit
  by_cases h : i = j
  · subst h
    by_cases hj : i < n
    · cases b <;> simp [hj]
    · cases b <;> simp [hj, BitVec.getLsbD_of_ge m i (by omega)]
  · have e : (BitVec.twoPow n i).getLsbD j = false := by simp [BitVec.getLsbD_twoPow, h]
    cases b
    · simp only [Bool.false_eq_true, ↓reduceIte, BitVec.getLsbD_and, BitVec.getLsbD_not, e, h, and_false]
      by_cases hj : j < n
      · simp [hj]
      · simp [BitVec.getLsbD_of_ge m j (by omega)]
    · simp [e, h]
@[simp] theorem Thread.isPresent_setReg (th : Thread) (d r : Reg) (v : Word) (p : Bool) :
    (th.setReg d v p).isPresent r = if d = r then true else th.isPresent r := by
  simp only [Thread.isPresent, Thread.setReg, setBit_get, Fin.ext_iff, r.isLt, true_and]
@[simp] theorem Thread.isPoisoned_setReg (th : Thread) (d r : Reg) (v : Word) (p : Bool) :
    (th.setReg d v p).isPoisoned r = if d = r then p else th.isPoisoned r := by
  simp only [Thread.isPoisoned, Thread.setReg, setBit_get, Fin.ext_iff, r.isLt, true_and]

/-! ## Taking an exception -/

/-- A trap at issue leaves the thread TRAPPED with its cause at its bundle, and everything else but the message, and the move
that an automatic fence adds, as it was (R92, R398). -/
theorem trap_frame (t : Trap) (s : State) :
    (trap t s).iss = { s.iss with stopped := true, live := s.iss.snap.toTrap t.cause false } ∧
      (trap t s).mem = s.mem ∧ (trap t s).marks = s.marks ∧ (trap t s).threads = s.threads ∧
      (trap t s).cores = s.cores ∧ (trap t s).clusters = s.clusters ∧ (trap t s).waiters = s.waiters := by
  simp only [trap, State.sendTrap]
  split <;> simp [State.sendRecord]
/-- The message of a trap whose region is not fenced with it is one record to the district's service core (R398). -/
theorem trap_flight (t : Trap) (s : State) : ∃ due r, (trap t s).flight =
    s.flight ++ [⟨s.nextId, due, path 1 (svcBase + districtOf s.iss.core) 0, .record (svcBase + districtOf s.iss.core) r⟩] := by
  simp only [trap, State.sendTrap]
  split <;> exact ⟨_, _, rfl⟩

end Sys2Proof.Machine
end

