-- ==== Sys2Proof/Laws/Kv.lean ====
section
/-! SUPPORT. The lowest number that satisfies a test; what the operations on count words and directories can do; and when the
Chandler's firmware has room for a request (log entry 14). -/

namespace Sys2Proof.Machine

/-! ## The lowest number below a bound -/

theorem lowestFrom_some {n k j : Nat} {p : Nat → Bool} (h : lowestFrom n k p = some j) :
    k ≤ j ∧ j < k + n ∧ p j = true ∧ ∀ i, k ≤ i → i < j → p i = false := by
  induction n generalizing k with
  | zero => simp [lowestFrom] at h
  | succ n ih =>
    rw [lowestFrom] at h
    split at h
    · rename_i hk
      obtain rfl := Option.some.inj h
      exact ⟨le_refl _, by omega, hk, fun i h1 h2 => by omega⟩
    · rename_i hk
      obtain ⟨h1, h2, h3, h4⟩ := ih h
      refine ⟨by omega, by omega, h3, fun i hi hj => ?_⟩
      by_cases e : i = k
      · subst e; simpa using hk
      · exact h4 i (by omega) hj
theorem lowestFrom_none {n k : Nat} {p : Nat → Bool} : lowestFrom n k p = none ↔ ∀ i, k ≤ i → i < k + n → p i = false := by
  induction n generalizing k with
  | zero => simp only [lowestFrom, true_iff]; intro i _ _; omega
  | succ n ih =>
    rw [lowestFrom]
    split
    · rename_i hk
      simp only [reduceCtorEq, false_iff, not_forall]
      exact ⟨k, by omega, by omega, by simp [hk]⟩
    · rename_i hk
      rw [ih]
      refine ⟨fun h i h1 h2 => ?_, fun h i h1 h2 => h i (by omega) (by omega)⟩
      by_cases e : i = k
      · subst e; simpa using hk
      · exact h i (by omega) (by omega)
/-- The answer satisfies the test, and no lower number does. -/
theorem lowest_some {n j : Nat} {p : Nat → Bool} (h : lowest n p = some j) : j < n ∧ p j = true ∧ ∀ i, i < j → p i = false := by
  obtain ⟨_, h2, h3, h4⟩ := lowestFrom_some h
  exact ⟨by omega, h3, fun i hi => h4 i (by omega) hi⟩
/-- There is no answer when every number below the bound fails the test. -/
theorem lowest_none {n : Nat} {p : Nat → Bool} : lowest n p = none ↔ ∀ i, i < n → p i = false := by
  rw [lowest, lowestFrom_none]
  exact ⟨fun h i hi => h i (by omega) (by omega), fun h i _ hi => h i (by omega)⟩

/-! ## Entries and count words -/

theorem atBank_setEntry (s : State) (root l b : Nat) (e : Word) : AtBank s (s.setEntry root l b e) := atBank_storeWord _ _ _
theorem atBank_setCount (s : State) (i n : Nat) : AtBank s (s.setCount i n) := atBank_storeWord _ _ _
theorem atBank_raiseEntry (s : State) (e : Word) : AtBank s (s.raiseEntry e) := .ite .rfl (atBank_setCount _ _ _)
/-- A fold of bank operations is one. -/
theorem atBank_foldl {α : Type} (f : State → α → State) (h : ∀ s x, AtBank s (f s x)) (l : List α) (s : State) : AtBank s (l.foldl f s) := by
  induction l generalizing s with
  | nil => exact .rfl
  | cons x r ih => exact (h s x).trans (ih _)

/-! ## Room (log entry 14) -/

/-- Where the last piece of the firmware's memory ends. -/
def heapEnd (a : Nat) (l : List (Nat × Nat)) : Nat := l.foldl (fun _ p => p.1 + p.2) a
theorem gapFrom_isSome (n a : Nat) (l : List (Nat × Nat)) (h : heapEnd a l + n ≤ heapLimit) : (gapFrom n a l).isSome = true := by
  induction l generalizing a with
  | nil => simp_all [gapFrom, heapEnd]
  | cons p r ih =>
    obtain ⟨o, m⟩ := p
    unfold gapFrom
    split
    · rfl
    · exact ih (o + m) h
/-- A piece is found when the limit lies beyond the last one. -/
theorem takeHeap_some (s : State) (n : Nat) (h : heapEnd 0 s.chandler.heap + (n + 255) / 256 * 256 ≤ heapLimit) :
    ∃ o, s.takeHeap n = some (o, modCh (fun c => { c with heap := mset c.heap o ((n + 255) / 256 * 256) }) s) := by
  obtain ⟨o, e⟩ := Option.isSome_iff_exists.mp (gapFrom_isSome _ 0 _ h)
  exact ⟨o, by simp [State.takeHeap, e]⟩
/-- The first piece of all lies at offset 0. -/
theorem takeHeap_first (s : State) (n : Nat) (e : s.chandler.heap = []) (h : (n + 255) / 256 * 256 ≤ heapLimit) :
    s.takeHeap n = some (0, modCh (fun c => { c with heap := [(0, (n + 255) / 256 * 256)] }) s) := by
  simp [State.takeHeap, gapFrom, modCh, e, h, mset]
theorem fld_lt (w : Word) (hi lo : Nat) : fld w hi lo < 2 ^ (hi + 1 - lo) := Nat.mod_lt _ (Nat.two_pow_pos _)
/-- The directory of the largest image, and the string of a request of it, fit (R322). -/
theorem dirBytes_le (w : Word) : (dirBytes w + 255) / 256 * 256 + 2 ^ 21 ≤ heapLimit := by
  have layers : dirLayers w ≤ 1023 := by have := fld_lt w 41 32; unfold dirLayers; omega
  have blocks : dirNblk w ≤ 8191 := by have := fld_lt w 12 0; unfold dirNblk; omega
  have table : dirBytes.tableBytes w ≤ 65536 := by unfold dirBytes.tableBytes; omega
  have tables := Nat.mul_le_mul layers table
  unfold dirBytes heapLimit
  omega
theorem string_le (w : Word) : (4 * 64 * dirNblk w + 255) / 256 * 256 ≤ 2 ^ 21 := by
  have blocks : dirNblk w ≤ 8191 := by have := fld_lt w 12 0; unfold dirNblk; omega
  omega
/-- A directory is built when nothing is taken, and takes its own bytes. -/
theorem newDir_first (s : State) (w : Word) (e : s.chandler.heap = []) :
    ∃ u, s.newDir w = some (0, u) ∧ u.chandler.heap = [(0, (dirBytes w + 255) / 256 * 256)] := by
  rw [State.newDir, takeHeap_first s _ e (Nat.le_trans (Nat.le_add_right _ _) (dirBytes_le w))]
  refine ⟨_, rfl, ?_⟩
  rw [(atBank_foldl _ (fun s _ => atBank_storeWord s _ _) _ _).heap, (atBank_storeWord _ _ _).heap,
    (atBank_foldl _ (fun s _ => atBank_storeWord s _ _) _ _).heap]
  rfl
/-- A record is built beside the first directory. -/
theorem buildRecord_first (s : State) (w : Word) (r prog creg bind image pclass eclass off : Nat)
    (e : s.chandler.heap = [(0, (dirBytes w + 255) / 256 * 256)]) : ∃ u, s.buildRecord r prog creg bind image pclass eclass off = some u := by
  obtain ⟨o, h⟩ := takeHeap_some s (4 * 64 * dirNblk (s.dir (heapAt off))) (by
    have room := dirBytes_le w
    have string := string_le (s.dir (heapAt off))
    simp only [e, heapEnd, List.foldl]
    omega)
  exact ⟨_, by rw [State.buildRecord, h]; rfl⟩
/-- CNEW has room when nothing is taken. -/
theorem freshRecord_first (s : State) (g : Program) (creg r : Nat) (x : BindEntry) (hr : s.newRecord = some r)
    (hx : s.bindEntry g.bind = some x) (e : s.chandler.heap = []) : ∃ u, s.freshRecord g creg = some (r, u) := by
  obtain ⟨t, ht, heap⟩ := newDir_first s (imageWord x.image) e
  obtain ⟨u, hu⟩ := buildRecord_first t _ r s.chandler.cur creg g.bind x.image g.pclass.toNat g.eclass.toNat 0 heap
  exact ⟨u, by simp only [State.freshRecord, hr, hx, ht, Option.bind_some, hu, Option.map_some]⟩
/-- CFORK has room when nothing is taken. -/
theorem forkRecord_first (s : State) (src prog creg pclass eclass r : Nat) (hr : s.newRecord = some r) (e : s.chandler.heap = []) :
    ∃ u, s.forkRecord src prog creg pclass eclass = some (r, u) := by
  obtain ⟨t, ht, heap⟩ := newDir_first s (s.dir (s.rootOf src)) e
  have fork : ∃ t', s.forkDir (s.rootOf src) = some (0, t') ∧ t'.chandler.heap = t.chandler.heap := by
    refine ⟨_, by rw [State.forkDir, ht]; rfl, ?_⟩
    exact (atBank_foldl _ (fun u q => (atBank_raiseEntry u _).trans (atBank_setEntry _ _ _ _ _)) _ _).heap
  obtain ⟨t', ht', same⟩ := fork
  obtain ⟨u, hu⟩ := buildRecord_first t' _ r prog creg (t'.rget src rBind) (t'.rget src rImage) pclass eclass 0
    (same.trans heap)
  simp only [State.forkRecord, hr, ht', hu, Option.map_some]
  exact ⟨_, rfl⟩
/-- A die's first block has room when no block is placed. -/
theorem hbmRoom_first (s : State) (die : Nat) (e : s.chandler.kvRaw = []) : s.hbmRoom die = some (hbmPlace die 0) := by
  simp [State.hbmRoom, lowest, lowestFrom, State.locUsed, e, mget]

end Sys2Proof.Machine
end

