-- ==== Sys2Proof/Tests/Slice0.lean ====
section
/-! SUPPORT. Tests: a word of every encoding, written from the spec's encoding tables, and what it decodes to; an ill-formed term
for each check of well-formedness; rows of the manual's tables of results; and, for the statements of Certificates, states and
operands that meet their hypotheses. -/

namespace Sys2Proof.Tests
open Sys2Proof.Machine

-- The tests are elaborated one after another: many at once, each waiting for the kernel, take a stack each and run out of memory.
set_option Elab.async false

/-! ## Words (R70 to R90) -/

/-- A-slot words: integer group. -/
def integerWords : List (Nat × Instr) := [
  (0x00000003, .nopA 3), (0x0354C803, .add 21 9 18 3), (0x0354C80B, .sub 21 9 18 3), (0x0354C813, .mul 21 9 18 3),
  (0x0354C81B, .mulh 21 9 18 3), (0x0354C823, .mulhn 21 9 18 3), (0x0354C82B, .div 21 9 18 3), (0x0354C833, .divn 21 9 18 3),
  (0x0354C83B, .rem 21 9 18 3), (0x0354C843, .remn 21 9 18 3), (0x0354C84B, .and 21 9 18 3), (0x0354C853, .andn 21 9 18 3),
  (0x0354C85B, .or 21 9 18 3), (0x0354C863, .xor 21 9 18 3), (0x0354C86B, .shl 21 9 18 3), (0x0354C873, .shr 21 9 18 3),
  (0x0354C87B, .shra 21 9 18 3), (0x0354C883, .rol 21 9 18 3), (0x0354C88B, .min 21 9 18 3), (0x0354C893, .max 21 9 18 3),
  (0x0354C89B, .minn 21 9 18 3), (0x0354C8A3, .maxn 21 9 18 3), (0x035480C3, .mov 21 9 3), (0x035480CB, .clz 21 9 3),
  (0x035480D3, .ctz 21 9 3), (0x035480DB, .popc 21 9 3), (0x035480E3, .sextS8 21 9 3), (0x035480EB, .sextS16 21 9 3),
  (0x035480F3, .sextS32 21 9 3), (0x03548103, .zextN8 21 9 3), (0x0354810B, .zextN16 21 9 3), (0x03548113, .zextN32 21 9 3)]

/-- A-slot words: immediates, comparisons and predicates. -/
def immediateWords : List (Nat × Instr) := [
  (0x0554FFEB, .addi 21 9 ⟨none, 4093⟩ 3), (0x0754FFEB, .lea 21 9 ⟨none, 4093⟩ 3), (0x095FFFEB, .movi 21 ⟨none, 131069⟩ 3),
  (0x0B5FFFEB, .movhi 21 ⟨none, 131069⟩ 3), (0x0D5FFFEB, .addpc 21 ⟨none, 131069⟩ 3), (0x0F532C83, .cmp 5 9 .gt .s16 18 3),
  (0x11532FEB, .cmpi 5 9 .gt .s16 ⟨none, 253⟩ 3), (0x1354CA03, .sel 21 9 18 4 3), (0x15720003, .pand 5 6 2 3),
  (0x15724003, .por 5 6 2 3), (0x15728003, .pxor 5 6 2 3), (0x1570C003, .pnot 5 6 3)]

/-- A-slot words: scalar floats. -/
def floatWords : List (Nat × Instr) := [
  (0x2154C9A3, .fadd 21 9 18 .rup .h16 3), (0x2354C9A3, .fsub 21 9 18 .rup .h16 3), (0x2554C9A3, .fmul 21 9 18 .rup .h16 3),
  (0x2754C9A3, .fma 21 9 18 .rup .h16 3), (0x2954C9A3, .fdiv 21 9 18 .rup .h16 3), (0x2B5481A3, .fsqrt 21 9 .rup .h16 3),
  (0x2D54C823, .fmin 21 9 18 .h16 3), (0x2F54C823, .fmax 21 9 18 .h16 3), (0x31548023, .fclass 21 9 .h16 3),
  (0x33531483, .fcmp 5 9 .gt .h16 18 3), (0x3554AC33, .fcvt 21 9 .s16 .b16 .rup 3)]

/-- A-slot words: control transfers and control registers. -/
def controlWords : List (Nat × Instr) := [
  (0x41FFFFEB, .br ⟨none, 4194301⟩ 3), (0x43FFFFEB, .jmp ⟨none, 4194301⟩ 3), (0x45FFFFEB, .call ⟨none, 4194301⟩ 3),
  (0x469FFFEB, .loop 9 ⟨none, 131069⟩ 3), (0x4955E6F3, .sig 0x2ABCDE 3), (0x4A048003, .jmpr 9 3), (0x4A04800B, .callr 9 3),
  (0x4A000013, .ret 3), (0x4A00001B, .exit 3), (0x4D500D83, .crr 21 (.guard 3) 3), (0x4C0489A3, .crw .nrctl 9 3),
  (0x4D5489C3, .crx 21 .nrctl 9 3)]

/-- A-slot words: memory. -/
def memoryWords : List (Nat × Instr) := [
  (0x6154D96B, .ld 21 9 .s16 .acq .device ⟨none, 5⟩ 3), (0x6354DD6B, .st 21 9 .s16 .rel .device ⟨none, 5⟩ 3),
  (0x6554F96B, .ldw 21 9 .s64 .acq .device ⟨none, 5⟩ 3), (0x6754F96B, .ldc 21 9 .s64 .acq .device ⟨none, 5⟩ 3),
  (0x6954FD6B, .stf 21 9 .s64 .rel .device ⟨none, 5⟩ 3), (0x6B54FD6B, .ste 21 9 .s64 .rel .device ⟨none, 5⟩ 3),
  (0x6C14FD6B, .fest true 9 .s64 .rel .device ⟨none, 5⟩ 3), (0x6E54F96B, .feq 5 9 .s64 .acq .device ⟨none, 5⟩ 3),
  (0x7154F96B, .lrw 21 9 .s64 .acq .device ⟨none, 5⟩ 3), (0x7354FD6B, .sch 21 9 .s64 .rel .device ⟨none, 5⟩ 3),
  (0x7404F16B, .rcan 9 .s64 .sc .device ⟨none, 5⟩ 3), (0x76000143, .fence .device 3), (0x79B4C803, .put 9 27 18 3),
  (0x7B500003, .arm 21 3)]

/-- A-slot words: copies and tags. -/
def copyWords : List (Nat × Instr) := [
  (0x8754CA53, .cpy .fk 21 9 18 37 3), (0x9754CA53, .cpys .fk 21 9 18 37 3), (0xA754CA53, .cpyd .fk 21 9 18 37 3),
  (0xB0048003, .twall 9 3), (0xB004800B, .twany 9 3), (0xB1548013, .tfirst 21 9 3), (0xB004801B, .tclr 9 3)]

/-- A-slot words: launches and steps. -/
def threadWords : List (Nat × Instr) := [
  (0xC004C803, .spawn 9 18 3), (0xC204C803, .mig 9 18 3), (0xC4048003, .launch 9 3), (0xC6048143, .bar .device 9 3),
  (0xC8048003, .wlpush 9 3), (0xCB500003, .wlpop 21 3), (0xCC04C943, .nred .device 9 18 3), (0xD1548003, .rrec 21 9 3),
  (0xD204C803, .emitToken 9 18 3), (0xD4000003, .stepend 3)]

/-- A-slot words: system group. -/
def systemWords : List (Nat × Instr) := [
  (0xE154C803, .tstate 21 9 18 3), (0xE154C80B, .tsetStop 21 9 18 3), (0xE154C813, .tresumeRetry 21 9 18 3),
  (0xE154C81B, .tkill 21 9 18 3), (0xE1548023, .fltrd 21 9 3), (0xE154C82B, .snuffDefine 21 9 18 3),
  (0xE1548033, .errlog 21 9 3), (0xE004C83B, .tlbfill 9 18 3), (0xE004C843, .tlbinvPage 9 18 3), (0xE154804B, .mbxwait 21 9 3),
  (0xE154C853, .preempt 21 9 18 3), (0xE154C85B, .savectx 21 9 18 3), (0xE1548063, .restctx 21 9 3),
  (0xE004C86B, .enbud 9 18 3)]

/-- V-slot words: vector arithmetic. -/
def vectorWords : List (Nat × Instr) := [
  (0x00000000, .nopV), (0x0D532A60, .vadd 21 9 18 .f32 .rup), (0x0D532A61, .vsub 21 9 18 .f32 .rup),
  (0x0D532A62, .vmul 21 9 18 .f32 .rup), (0x0D532A03, .vmin 21 9 18 .f32), (0x0D532A04, .vmax 21 9 18 .f32),
  (0x0D520A05, .vabs 21 9 .f32), (0x0D520A06, .vneg 21 9 .f32), (0x0D532A67, .vfma3 21 9 18 .f32 .rup),
  (0x0D532A68, .vdiv 21 9 18 .f32 .rup), (0x0D520A69, .vsqrt 21 9 .f32 .rup), (0x0D520A6A, .vrcp 21 9 .f32 .rup),
  (0x0D520A6B, .vrsq 21 9 .f32 .rup), (0x0D520A6C, .vexp2 21 9 .f32 .rup), (0x0D520A6D, .vlog2 21 9 .f32 .rup),
  (0x0D520A6E, .vtanh 21 9 .f32 .rup), (0x0D532210, .vand 21 9 18 .n32), (0x0D532211, .vor 21 9 18 .n32),
  (0x0D532212, .vxor 21 9 18 .n32), (0x0D532213, .vshl 21 9 18 .n32), (0x0D532214, .vshr 21 9 18 .n32),
  (0x0D532215, .vshra 21 9 18 .n32), (0x0D532A16, .vperm 21 9 18 .f32), (0x0D520A78, .vredadd 21 9 .f32 .rup),
  (0x0D520A19, .vredmax 21 9 .f32), (0x0D520A1A, .vargmax 21 9 .f32), (0x15532A04, .vcmp 21 9 18 .f32 .gt),
  (0x1D532DD3, .vfma4 21 9 18 27 .f32 .rup), (0x25532DD0, .vsel 21 9 18 27 .f32), (0x2D520586, .vcvt 21 9 .s16 .b16 .rup)]

/-- V-slot words: vector moves, memory and repetition. -/
def vectorMemoryWords : List (Nat × Instr) := [
  (0x35AA0A00, .vbcast 22 21 .f32), (0x3DAA0AA5, .vext 21 22 .f32 0xA5), (0x45AA0AA5, .vld 22 21 .f32 0xA5),
  (0x4DAA0AA5, .vst 22 21 .f32 0xA5), (0x55AADAA5, .vgather 22 21 13 .f32 0xA5), (0x5DAADAA5, .vscatter 22 21 13 .f32 0xA5),
  (0x65600000, .vclaim 21 64), (0x68000000, .vyield), (0x82AF2BC0, .rep 0xABC 5 3 6), (0x88000000, .repgo),
  (0x88000001, .repend)]

/-- V-slot words: matrix group. -/
def matrixWords : List (Nat × Instr) := [
  (0xC265B818, .mma 2 9 18 27 .ln8ln6), (0xC2400840, .mmaz 2 9), (0xC0000880, .mclr 2), (0xC26408E8, .mrd 2 9 18 .f32),
  (0xC2640928, .mst 2 9 18 .f32), (0xC2400940, .mfmt 2 9), (0xC2640980, .mscale 2 9 18), (0xC265B1C0, .mcap 9 18 27),
  (0xC2640200, .msend 9 18), (0xC2400240, .mwait 9), (0xC2400A80, .rmap 2 9)]

/-- Agent words (R88, R89). -/
def agentWords : List (Nat × Instr) := [
  (0x0100000000000000, .halt), (0x0200000000000000, .yield), (0x1050000000000000, .cnew 5), (0x1157000000000000, .cbind 5 7),
  (0x125B000000000000, .cfork 5 11), (0x1350000000000000, .cfree 5), (0x1457000000000009, .cset 5 7 9),
  (0x157500000000005F, .cget 7 5 95), (0x1650000000000000, .cwait 5), (0x1757000000000000, .trunc 5 7),
  (0x2057900000000000, .append 5 7 9), (0x2157000000000000, .gen 5 7), (0x2257930000000000, .score 5 7 9 3),
  (0x2357930000000000, .choose 5 7 9 3), (0x2457900000000000, .beam 5 7 9), (0x2557900000000000, .spec 5 7 9),
  (0x3075000000000000, .post 7 5), (0x3173000000000000, .recv 7 3), (0x4073000000000000, .hmov 7 (.reg 3)),
  (0x40700001FFFFFFFE, .hmov 7 (.imm 0xFFFFFFFE)), (0x4173900000000000, .hadd 7 3 (.reg 9)),
  (0x4273000100000006, .hsub 7 3 (.imm 6)), (0x4373900800000000, .hcmp .gt 7 3 (.reg 9)),
  (0x44700000FFFFFFFD, .hbr 7 0xFFFFFFFD), (0x450000000000000C, .hjmp 12), (0x4673000000000010, .hld 7 3 16),
  (0x479300000000FFF8, .hst 9 3 0xFFF8)]

/-- Words that the manual itself writes out. -/
def manualWords : List (Nat × Instr) := [
  (0x03400440, .remn 20 0 1 0), (0x04520010, .addi 5 4 ⟨none, 2⟩ 0), (0x104B3800, .cmpi 1 5 .gt .s64 ⟨none, 0⟩ 0),
  (0x41FFFFE9, .br ⟨none, 0x3FFFFD⟩ 1), (0x44000018, .call ⟨none, 3⟩ 0), (0x4A000011, .ret 1), (0x020080C0, .mov 0 1 0),
  (0x785A5400, .put 20 5 21 0), (0x7A500000, .arm 5 0), (0xD0508000, .rrec 5 1 0), (0xD2010800, .emitToken 2 2 0),
  (0xD4000000, .stepend 0)]
def manualVWords : List (Nat × Instr) := [
  (0x08801A00, .vadd 2 0 1 .f32 .rne), (0x61840000, .vclaim 6 8), (0x40020A00, .vld 0 1 .f32 0), (0x384E0A00, .vext 7 1 .f32 0),
  (0x09480A18, .vredadd 5 4 .f32 .rne), (0x49020A02, .vst 4 1 .f32 2), (0x80010900, .rep 4 1 1 0), (0x88000001, .repend),
  (0xC1400140, .mfmt 0 5), (0xC1800040, .mmaz 0 6), (0xC0C87008, .mma 0 3 4 7 .ln8), (0xC28000E8, .mrd 0 10 0 .f32),
  (0xC2C000D8, .mrd 0 11 0 .b16)]

/-- What the A slot, the V slot and the Chandler read. -/
def readsA (l : List (Nat × Instr)) : Bool := l.all (fun p => (decodeA p.1 none).toOption == some p.2)
def readsV (l : List (Nat × Instr)) : Bool := l.all (fun p => (decodeV p.1).toOption == some p.2)
def readsF (l : List (Nat × Instr)) : Bool := l.all (fun p => (decodeF p.1).toOption == some p.2)

theorem test_decode_integer : readsA integerWords = true := by decide
theorem test_decode_immediate : readsA immediateWords = true := by decide
theorem test_decode_float : readsA floatWords = true := by decide
theorem test_decode_control : readsA controlWords = true := by decide
theorem test_decode_memory : readsA memoryWords = true := by decide
theorem test_decode_copy : readsA copyWords = true := by decide
theorem test_decode_thread : readsA threadWords = true := by decide
theorem test_decode_system : readsA systemWords = true := by decide
theorem test_decode_vector : readsV vectorWords = true := by decide
theorem test_decode_vector_memory : readsV vectorMemoryWords = true := by decide
theorem test_decode_matrix : readsV matrixWords = true := by decide
theorem test_decode_agent : readsF agentWords = true := by decide
theorem test_decode_manual : readsA manualWords = true := by decide
theorem test_decode_manual_v : readsV manualVWords = true := by decide

/-- An immediate extension gives the upper bits (R76, R87). -/
theorem test_decode_extension : (decodeBundle false 0xF80000180494B500).toOption.map (fun b => b.a) =
    some (.addi 9 9 ⟨some 24, 0x6A0⟩ 0) := by decide


/-! ## Well-formedness -/

/-- One term for each check, which the check refuses. -/
def illFormed : List Instr := [
  .cmp 1 2 .un .s64 3 0, .cmpi 1 2 .un .s64 ⟨none, 0⟩ 0, .hcmp .un 1 2 (.reg 3), .ld 1 2 .s64 .rel .system ⟨none, 0⟩ 0,
  .st 1 2 .s64 .acq .system ⟨none, 0⟩ 0, .ldw 1 2 .s32 .sc .system ⟨none, 0⟩ 0, .ldw 1 2 .s64 .rel .system ⟨none, 0⟩ 0,
  .ldc 1 2 .n64 .rx .system ⟨none, 0⟩ 0, .lrw 1 2 .n8 .sc .system ⟨none, 0⟩ 0, .feq 1 2 .s64 .rel .system ⟨none, 0⟩ 0,
  .stf 1 2 .s64 .acq .system ⟨none, 0⟩ 0, .stf 1 2 .s32 .sc .system ⟨none, 0⟩ 0, .ste 1 2 .s64 .rx .system ⟨none, 0⟩ 0,
  .sch 1 2 .n16 .sc .system ⟨none, 0⟩ 0, .fest true 2 .s64 .acq .system ⟨none, 0⟩ 0, .rcan 2 .s64 .acq .system ⟨none, 0⟩ 0,
  .rcan 2 .s32 .sc .system ⟨none, 0⟩ 0, .vadd 1 2 3 .ln6 .rne, .vadd 1 2 3 .s32 .rtz, .vsub 1 2 3 .ln8 .rne, .vmul 1 2 3 .n32 .rup,
  .vredadd 1 2 .ln6 .rne, .vredadd 1 2 .s32 .rtz, .vfma3 1 2 3 .s32 .rne, .vdiv 1 2 3 .n8 .rne, .vfma4 1 2 3 4 .s64 .rne,
  .vsqrt 1 2 .s32 .rne, .vrcp 1 2 .n32 .rne, .vrsq 1 2 .ln8 .rne, .vexp2 1 2 .f64 .rne, .vlog2 1 2 .s32 .rne, .vtanh 1 2 .ln6 .rne,
  .vshl 1 2 3 .f32, .vshr 1 2 3 .ln6, .vshra 1 2 3 .f64, .vcmp 1 2 3 .s32 .un, .vgather 1 2 3 .n16 0, .vscatter 1 2 3 .b16 0,
  .vclaim 1 65, .rep 4097 0 0 0]
theorem test_wf_refuses : illFormed.all (fun i => i.wf == false) = true := by decide
theorem test_wf_accepts : (integerWords ++ immediateWords ++ floatWords ++ controlWords ++ memoryWords ++ copyWords ++ threadWords ++
    systemWords ++ vectorWords ++ vectorMemoryWords ++ matrixWords ++ agentWords).all (fun p => p.2.wf) = true := by decide
/-- A word with a code that its instruction does not accept is refused, and an illegal bundle names its slot and cause (R85). -/
theorem test_decode_refuses : [0x0E018000, 0x60000C00, 0x64006000, 0x68007800, 0xFE000000, 0x020004C0, 0x20000280, 0x60000280].all
    (fun w => (decodeA w none).toOption.isNone) = true := by decide
theorem test_illegal_bundle : (match decodeBundle false 0x00000000FE000000 with
    | .error e => (e.slot, e.cause.code)
    | .ok _ => (9, 0)) = (0, 1) := by decide
/-- ADDI g5 beside VEXT g5 (R85). -/
theorem test_two_destinations : (match decodeBundle false 0x380A060104520010 with
    | .error e => (e.slot, e.cause.code)
    | .ok _ => (9, 0)) = (2, 0x0C) := by decide

/-! ## States -/

/-- A supervisor's thread with a lane grant of 8, and one with registers set. -/
def thread : Thread := { Thread.init with priv := true, grant := 8, vl := 8 }
def regs (l : List (Reg × Word)) (th : Thread) : Thread := l.foldl (fun th p => th.setReg p.1 p.2 false) th
/-- A thread in the middle of an issue at address 0 of core 0. -/
def issuing (th : Thread) : State :=
  { State.reset with iss := { Issue.idle with active := true, snap := th, live := th, next := 8 } }
def at' (l : List (Reg × Word)) : State := issuing (regs l thread)
def user (l : List (Reg × Word)) : State := issuing (regs l { thread with priv := false })
/-- What an instruction leaves in a register, in FLAGS, and of the thread. -/
def after (o : Out) : State :=
  match o with
  | .next t => t
  | _ => State.reset
def result (i : Instr) (l : List (Reg × Word)) : Word × FlagBits :=
  ((after (exec i (at' l))).iss.live.reg 5, (after (exec i (at' l))).iss.live.flags)
def trapped (o : Out) : Option Nat :=
  match (after o).iss.live.run with
  | .trapped c _ => some c
  | _ => none

/-! ## Rows of the manual's tables of results (file 05) -/

theorem test_div : result (.div 5 1 2 0) [(1, -7), (2, 2)] = (-3, 0) ∧ result (.rem 5 1 2 0) [(1, -7), (2, 2)] = (-1, 0) := by decide
theorem test_div_overflow : result (.div 5 1 2 0) [(1, 0x8000000000000000), (2, -1)] = (0x7FFFFFFFFFFFFFFF, satFlag) := by decide
theorem test_divn_zero : result (.divn 5 1 2 0) [(1, 7), (2, 0)] = (0, dzFlag) ∧ result (.remn 5 1 2 0) [(1, 7), (2, 0)] = (7, dzFlag) := by
  decide
theorem test_shl : result (.shl 5 1 2 0) [(1, 1), (2, 65)] = (2, 0) := by decide
theorem test_shra : result (.shra 5 1 2 0) [(1, 0x8000000000000000), (2, 4)] = (0xF800000000000000, 0) := by decide
theorem test_mulhn : result (.mulhn 5 1 2 0) [(1, -1), (2, -1)] = (0xFFFFFFFFFFFFFFFE, 0) := by decide
theorem test_clz : result (.clz 5 1 0) [(1, 0)] = (64, 0) := by decide
theorem test_fadd : result (.fadd 5 1 2 .rne .b16 0) [(1, 0x3F80), (2, 0x3B80)] = (0x3F80, nxFlag) := by decide
theorem test_fmin : result (.fmin 5 1 2 .f32 0) [(1, 0), (2, 0x80000000)] = (0x80000000, 0) := by decide
theorem test_fcvt : result (.fcvt 5 1 .s8 .f32 .rne 0) [(1, 0x43488000)] = (127, satFlag ||| nxFlag) := by decide
theorem test_fcvt_ln : result (.fcvt 5 1 .ln6 .f32 .rne 0) [(1, 0x3F800000)] = (0x14, 0) := by decide
/-- The source is the destination, and a guard that reads false leaves it alone (R91). -/
theorem test_sub_self : result (.sub 5 5 1 0) [(5, 3), (1, 5)] = (-2, 0) ∧ result (.sub 5 5 1 2) [(5, 3), (1, 5)] = (3, 0) := by decide

/-! ## States that meet the hypotheses of the statements: instructions as they issue -/

/-- A vector thread: its vector registers 1 and 2 hold small numbers, its register 1 an address of the core's own memory. -/
def vthread : Thread := { regs [(1, 0x100), (2, 77)] thread with
  vregs := vecOf 32 (fun i => vecOf 64 (fun l => BitVec.ofNat 32 (i * 4 * l))) }
theorem met_IntegerGroupResults : (at' [(1, 7), (2, 2)]).ready 0 [1, 2] ∧ (at' []).ready 0 [31, 31] :=
  ⟨⟨by decide, by decide⟩, by decide, by decide⟩
/-- A zero divisor; the quotient that does not fit; any other. -/
theorem met_DivisionResults : (at' [(1, 7)]).ready 0 [1, 2] ∧ (at' [(1, 7)]).iss.snap.reg 2 = 0 ∧
    (at' [(1, 0x8000000000000000), (2, -1)]).ready 0 [1, 2] ∧ (at' [(1, 0x8000000000000001), (2, -1)]).ready 0 [1, 2] :=
  ⟨⟨by decide, by decide⟩, by decide, ⟨by decide, by decide⟩, by decide, by decide⟩
theorem met_ImmediateSelectAndPredicateResults : (at' [(1, 7), (5, 2)]).ready 0 [1, 5] ∧ (at' [(1, 7), (2, 2)]).ready 0 [1, 2] ∧
    (at' []).ready 0 [] := ⟨⟨by decide, by decide⟩, ⟨by decide, by decide⟩, by decide, by decide⟩
/-- With a source poisoned, and with none. -/
theorem met_ComparisonResults : (at' [(1, 7), (2, 2)]).ready 0 [1, 2] ∧ (issuing (thread.setReg 2 9 true)).ready 0 [1, 2] ∧
    Cond.ge ≠ .un := ⟨⟨by decide, by decide⟩, ⟨by decide, by decide⟩, by decide⟩
theorem met_FloatResults : (at' [(1, 0x3F80), (2, 0x3B80)]).ready 0 [1, 2, 5] := ⟨by decide, by decide⟩
theorem met_FclassAndFcmp : (at' [(1, 0x7FC0)]).ready 0 [1] ∧ (at' [(1, 0x7FC0), (2, 0)]).ready 0 [1, 2] :=
  ⟨⟨by decide, by decide⟩, by decide, by decide⟩
/-- A NaN on either side, a pair in each order, the two zeros, and a NaN addend beside an infinity times zero. -/
theorem met_FloatNanMinimumAndSymmetry : (Fty.val .f32 0x7FC00000).isNan = true ∧ (Fty.val .f32 0x7F800001).isSig = true ∧
    ((Fty.val .f32 0).isZero = true ∧ (Fty.val .f32 0x80000000).isZero = true ∧
      (Fty.val .f32 0).neg ≠ (Fty.val .f32 0x80000000).neg) ∧ Fty.val .f32 0x7F800000 = .inf false := by decide
theorem met_FloatNanMinimumAndSymmetry_order : (Fty.val .f32 0xFF800000).rank < (Fty.val .f32 0x7F800000).rank := by
  simp [show Fty.val .f32 0xFF800000 = .inf true by decide, show Fty.val .f32 0x7F800000 = .inf false by decide, Val.rank]
/-- 127 fits S8 and 128 does not; −1 is below N8. -/
theorem met_IntegerConversionSaturates : Ty.isInt .s8 ∧ Ty.isInt .n16 ∧ Ty.int .n16 127 ≤ 127 ∧ (127 : Int) < Ty.int .n16 128 ∧
    Ty.int .s16 0xFFFF < 0 := by decide
/-- Aligned targets, misaligned ones, and the three counts of LOOP. -/
theorem met_Transfers : (at' [(1, 1)]).readyClean 0 [1] ∧ (at' [(1, 8), (28, 4)]).readyClean 0 [1, 28] ∧
    ((at' [(1, 8), (28, 4)]).iss.snap.reg 1).toNat % 8 = 0 ∧ ((at' [(1, 8), (28, 4)]).iss.snap.reg 28).toNat % 8 ≠ 0 :=
  ⟨⟨⟨by decide, by decide⟩, by decide⟩, ⟨⟨by decide, by decide⟩, by decide⟩, by decide, by decide⟩
theorem met_ControlRegisters : (at' [(1, 1)]).readyClean 0 [1] ∧ (at' [(1, 1)]).iss.snap.priv = true ∧
    (user [(1, 1)]).readyClean 0 [1] ∧ (user [(1, 1)]).iss.snap.priv = false :=
  ⟨⟨⟨by decide, by decide⟩, by decide⟩, by decide, ⟨⟨by decide, by decide⟩, by decide⟩, by decide⟩
theorem met_NoGrantFault : vUnit (.vadd 1 2 3 .s32 .rne) ≠ 0 ∧ vUnit (.vst 1 2 .s32 0) ≠ 0 ∧
    (issuing { thread with grant := 0 }).iss.snap.grant = 0 := by decide
/-- A lane of a 32-bit type, and the one element that VL 2 gives a 64-bit type. -/
theorem met_VectorElementwiseResults : (issuing vthread).iss.snap.grant ≠ 0 ∧ (issuing vthread).iss.snap.isPresent 1 = true ∧
    0 < vcount .s32 (issuing vthread).iss.snap ∧ 0 < vcount .s64 { vthread with vl := 2 } := by decide
theorem met_VectorElements : (64 ≤ Ty.count .s32 64 ∧ ∀ i < 64, i < 2 ^ Ty.width .s32) ∧ Ty.store .s32 ≠ 64 ∧ Ty.isInt .s8 ∧
    255 < 2 ^ Ty.width .s8 := by decide
theorem met_LongLatencyVectorIssue : (issuing vthread).iss.snap.grant ≠ 0 ∧ 0 < vcount .f32 (issuing vthread).iss.snap := by decide
theorem met_VectorExtractAndReduce : (issuing vthread).iss.snap.grant ≠ 0 ∧ 0 < vcount .s32 (issuing vthread).iss.snap ∧
    (issuing vthread).iss.snap.vl.toNat ≤ 64 ∧ Ty.isInt .s32 := by decide

/-- Float elements: two numbers, whose sum by pairs is there to be found, or a NaN beside a number. -/
def floats (x y : Lane) : Thread := { vthread with
  vl := 2
  vregs := vecOf 32 (fun _ => vecOf 64 (fun l => if l = 0 then x else y)) }
theorem met_VectorExtractAndReduce_float :
    let val (x : Lane) (i : Nat) : Val := (Ty.fty .f32).val (((issuing (floats x 0x3F800000)).iss.snap.vget 1).elem .f32 i)
    vcount .f32 (issuing (floats 0x40000000 0x3F800000)).iss.snap = 2 ∧ (val 0x7FC00000 0).isNan = true ∧
      (val 0x40000000 0).isNan = false ∧ (val 0x40000000 1).isNan = false := by decide +kernel
theorem met_VectorExtractAndReduce_types : Ty.isFloat .f32 := by decide
theorem met_VectorExtractAndReduce_sum (f : Nat × FlagBits → Nat × FlagBits → Nat × FlagBits) (x y : Nat × FlagBits) :
    ∃ r, pairtree f 9 [x, y] = some r := ⟨f x y, rfl⟩

/-- Every form's address reaches memory: the state, one address, and the premises of each clause. -/
theorem met_MemoryInstructionIssue (f : Form) (hf : f ∈ [Form.ld, .st, .ldw, .ldc, .stf, .ste, .lrw, .sch, .rcan, .feq, .fest true]) :
    (at' [(1, 0x100), (2, 77)]).readyClean 0 [1, 2] ∧
      (at' [(1, 0x100), (2, 77)]).iss.snap.reg 1 + immOff ⟨none, 0⟩ * BitVec.ofNat 64 (Ity.size .s64) = 0x100 ∧
      (at' [(1, 0x100), (2, 77)]).reaches f 0x100 8 (tcmBase 0 + 0x100) := by
  refine ⟨⟨⟨by decide, by decide⟩, by decide⟩, by decide, by decide, by decide, fun _ => (by decide : hasMeta (tcmBase 0 + 0x100) = true), ?_⟩
  fin_cases hf <;> decide
theorem met_MisalignedAccessTraps : (at' [(1, 0x101), (2, 77)]).readyClean 0 [1, 2] ∧
    (at' [(1, 0x101), (2, 77)]).iss.snap.relaxed = none ∧
    ((at' [(1, 0x101), (2, 77)]).iss.snap.reg 1 + immOff ⟨none, 3⟩ * 8).toNat % 8 ≠ 0 ∧
    ((at' [(1, 0x101), (2, 77)]).iss.snap.reg 1 + immOff ⟨none, 3⟩ * BitVec.ofNat 64 (Ity.size .n16)).toNat % Ity.size .n16 ≠ 0 :=
  ⟨⟨⟨by decide, by decide⟩, by decide⟩, by decide, by decide, by decide⟩
/-- Two elements, side by side for VLD and VST, and at the offsets of v1 (0 and 4) for VGATHER and VSCATTER. -/
theorem met_VectorMemoryIssue (k : Kind) (hk : k = .load ∨ k = .store) :
    let s := issuing { vthread with vl := 2 }
    s.iss.snap.grant ≠ 0 ∧ vcount .s32 s.iss.snap = 2 ∧ s.iss.snap.isPresent 1 = true ∧ s.iss.snap.isPoisoned 1 = false ∧
      (∀ i, i < 2 → (s.iss.snap.vget 1).elemPoison .s32 i = false) ∧
      (List.range 2).map (fun i => s.iss.snap.reg 1 + BitVec.ofInt 64 (toSigned ((s.iss.snap.vget 1).elem .s32 i) 32)) = [0x100, 0x104] ∧
      s.reachesAll k [0x100, 0x104] 4 [tcmBase 0 + 0x100, tcmBase 0 + 0x104] := by
  refine ⟨by decide, by decide, by decide, by decide, by decide, by decide, by decide, ?_⟩
  rcases hk with rfl | rfl <;>
    exact .cons ⟨by decide, nofun, by decide⟩ (.cons ⟨by decide, nofun, by decide⟩ .nil)
/-- The name in register 1 is a thread's. -/
theorem met_FencePutArm : (at' [(1, 0x101), (2, 77)]).readyClean 0 [1] ∧ (at' [(1, 0x101), (2, 77)]).iss.snap.isPresent 2 = true ∧
    ((at' [(1, 0x101), (2, 77)]).iss.snap.reg 1).toNat < 2 ^ 29 ∧ ((at' [(1, 0x101), (2, 77)]).iss.snap.reg 1).toNat % 8 ≠ 7 ∧
    (at' [(1, 0x101), (2, 77)]).iss.snap.relaxed = none :=
  ⟨⟨⟨by decide, by decide⟩, by decide⟩, by decide, by decide, by decide, by decide⟩
/-- A block signature that agrees with the one expected, and one that does not. -/
theorem met_SigChecksTheBlock : (⟨0, 0, false⟩ : Sig).pv = false ∧ (⟨1, 0, true⟩ : Sig).pv = true ∧
    ((1 : BitVec 32) ^^^ ((1 : BitVec 32) >>> 22)).setWidth 22 ≠ (⟨1, 0, true⟩ : Sig).exp := by decide
/-- Capture in progress, a captured body, and an empty buffer. -/
theorem met_LanesAndRepetition : (issuing { thread with rep := ⟨1, 0, 0, 1, 1, 1, false, true, []⟩ }).iss.snap.rep.cap = true ∧
    (issuing { thread with rep := ⟨1, 0, 0, 1, 1, 1, false, false, [0x0D532A60]⟩ }).iss.snap.rep.code ≠ [] ∧
    (at' []).iss.snap.rep.code = [] ∧ (at' []).iss.snap.rep.cap = false := by decide

/-! ## States that meet the hypotheses: words, exceptions, replies -/

/-- A word of an SRAM bank, and its states: full, empty, held by thread 0 of core 0. -/
def aword : Nat := 0xF000000800100
def filled : State := (State.reset.setThread 0 { thread with run := .detached 0 0, waitbud := 5 }).writeN aword 8 0x1122334455667788
def emptied : State := filled.setMeta aword ⟨false, false, none, none, 0⟩
def held : State := filled.setMeta aword ⟨false, true, some (.thread ⟨0, 0, 0⟩), none, 0⟩
/-- Message 7 on its way. -/
def sent (m : Msg) (s : State) : State := { s with flight := [⟨7, 0, 0, m⟩], nextId := 8 }
/-- Whatever the message, it is there to arrive. -/
theorem sent_msg (m : Msg) (s : State) : (sent m s).msg? 7 = some m := rfl
def access (f : Form) (pa size : Nat) (data : Word) : Access :=
  ⟨f, BitVec.ofNat 64 pa, pa, size, data, .thread ⟨0, 0, 0⟩, .sc, .system, false, false, true, 0, 0, false, 0⟩
def wordFor (f : Form) : State :=
  match f with
  | .stf => emptied
  | .sch | .rcan => held
  | _ => filled
theorem met_AccessForms (f : Form)
    (hf : f ∈ [Form.ld, .st, .ldw, .ldc, .stf, .ste, .lrw, .sch, .rcan, .fest true, .fest false, .feq]) :
    let a := access f aword 8 5
    let s := sent (.access a) (wordFor f)
    s.msg? 7 = some (.access a) ∧ Memory.wf s.mem = true ∧ s.wayBlocked a.pa = none ∧ hasMeta a.pa = true ∧ a.pa % 8 + a.size ≤ 8 ∧
      a.size = 8 ∧ mget s.wordErrors (wordOfAddr a.pa) = none ∧ s.waitersAt (wordOfAddr a.pa) = [] ∧
      s.tableUsed (bankOf (wordOfAddr a.pa)) < 16 ∧ (s.wordMeta aword).holdRec = none ∧
      (f = .ldw ∨ f = .ldc ∨ f = .lrw ∨ f = .ste → (s.wordMeta aword).full = true) ∧ (f = .stf → (s.wordMeta aword).full = false) := by
  fin_cases hf <;> decide
/-- A consumer meets an empty word for the first time, and awake again with no budget left. -/
theorem met_ParkingAndBudgets (b : Bool) :
    let a := { access .ldc aword 8 0 with repark := b }
    let s := sent (.access a) (emptied.setThread 0 { thread with run := .detached 0 0, waitbud := 0 })
    s.msg? 7 = some (.access a) ∧ s.wayBlocked a.pa = none ∧ hasMeta a.pa = true ∧ holds a.form (s.wordMeta (wordOfAddr a.pa)) = false ∧
      mget s.wordErrors (wordOfAddr a.pa) = none ∧ s.budgetOf a.who = 0 ∧ s.roomAt (wordOfAddr a.pa) false = .table ∧
      s.named ⟨0, 0, 0⟩ = some { thread with run := .detached 0 0, waitbud := 0 } := by
  cases b <;> decide
/-- Two readers of a full word; readers, then a consumer or an LRW, before further waiters; and an empty word whose first waiter is
an STF, before another STF or readers. -/
theorem met_WaitersServedInOrder (f : Form) (hf : f ∈ [Form.ldc, .lrw]) :
    let r (f : Form) (n : Nat) : Waiter := ⟨access f aword 8 0, n, none⟩
    let s (u : State) (l : List Waiter) : State := { u with waiters := [(aword, l)] }
    hasMeta aword = true ∧ aword % 8 = 0 ∧ isKick aword = false ∧ filled.wordMeta aword = ⟨true, false, none, none, 0⟩ ∧
      emptied.wordMeta aword = ⟨false, false, none, none, 0⟩ ∧ Memory.wf emptied.mem = true ∧
      ([r .ldw 3, r .ldw 4].map (fun x => x.seq)).Nodup ∧ (∀ x ∈ [r .ldw 3, r .ldw 4], x.spilled = none ∧ x.acc.pa = aword ∧ x.acc.size = 8) ∧
      (s filled [r .ldw 3, r .ldw 4]).waitersAt aword = [r .ldw 3, r .ldw 4] ∧
      (s filled [r .ldw 1, r f 2, r .ldw 3, r .ste 4]).waitersAt aword = [r .ldw 1] ++ r f 2 :: [r .ldw 3, r .ste 4] ∧
      (([r .ldw 1] ++ r f 2 :: [r .ldw 3, r .ste 4]).map (fun x => x.seq)).Nodup ∧
      (s filled [r .ldw 1, r f 2, r .ldw 3, r .ste 4]).tableUsed (bankOf aword) ≤ 16 ∧
      (s emptied [r .stf 2, r .stf 3]).waitersAt aword = [] ++ r .stf 2 :: [r .stf 3] ∧
      (s emptied [r .stf 2, r .ldw 3]).waitersAt aword = [] ++ r .stf 2 :: [r .ldw 3] := by fin_cases hf <;> decide
theorem met_TakingAnException : (at' []).iss.core < 16384 ∧ (at' []).iss.slot < 8 ∧ (at' []).autoRegion (clusterOf (at' []).iss.core) = none := by
  decide
/-- Thread 2 of core 9, of generation 5. -/
def trappedThread : Thread := { thread with gen := 5, run := .trapped 0x23 false, pc := 0x40, prepaid := true }
def trappedName : Word := BitVec.ofNat 64 (5 * 2 ^ 17 + 9 * 8 + 2)
def asking (o : SysOp) (th : Thread) : State := sent (.sys ⟨100, 2, 1⟩ o trappedName false) (State.reset.setThread 74 th)
/-- Every state of a thread, and a name whose generation is not the thread's. -/
theorem met_ReturnFromAnException (o : SysOp) (r : Run) (hr : r ∈ [Run.trapped 0x23 false, .run, .stopped, .held, .detached 3 5]) (g : BitVec 12)
    (hg : g ∈ [5, (3 : BitVec 12)]) :
    let th := { trappedThread with run := r, gen := g }
    let s := asking o th
    s.msg? 7 = some (.sys ⟨100, 2, 1⟩ o trappedName false) ∧ sysName trappedName = some (.thread ⟨9, 2, 5⟩) ∧
      s.named ⟨9, 2, 5⟩ = (if g = 5 then some th else none) ∧ th.pend = [] ∧ th.relaxed = none ∧ th.stopq = false ∧ th.exiting = false ∧
      th.hold = false ∧ s.waiters = [] := by
  refine ⟨rfl, by decide, ?_, rfl, rfl, rfl, rfl, rfl, rfl⟩
  fin_cases hr <;> fin_cases hg <;> rfl
theorem met_ReturnFromAnException_words : (∀ w o, Run.detached 3 5 = .detached w o → w < 16) ∧ (0x23 : Nat) < 256 ∧
    (trappedThread.run = .trapped 0x23 false) ∧ (∀ k < 4, fld (BitVec.ofNat 64 k) 1 0 = k) := by
  refine ⟨?_, by decide, rfl, by decide⟩
  intro w o h
  cases h
  decide
/-- A posted store of the target still on its way: PREEMPT waits. -/
theorem met_ReturnFromAnException_waits :
    let th := { trappedThread with run := .run }
    let a : Access := { access .st aword 8 5 with who := .thread ⟨9, 2, 5⟩, posted := true }
    let s := { asking (.preempt 0x100) th with flight := [⟨7, 0, 0, .sys ⟨100, 2, 1⟩ (.preempt 0x100) trappedName false⟩, ⟨3, 0, 0, .access a⟩] }
    s.msg? 7 = some (.sys ⟨100, 2, 1⟩ (.preempt 0x100) trappedName false) ∧ s.named ⟨9, 2, 5⟩ = some th ∧
      s.inFlightStores ⟨9, 2, 5⟩ .system = true := by decide
/-- A thread that waits on a load, with a relaxed load outstanding as well. -/
def waitingThread (d : Dest) : Thread := { thread with
  pend := [⟨.ld 3 1 .s16 .sc .system ⟨none, 0⟩ 0, .access .ld 0 0 8 0 .sc .system d, .sent, 0, 8, 0, false, false, ⟨0, 0, false⟩⟩],
  relaxed := some ⟨.ld 4 1 .s8 .rx .system ⟨none, 0⟩ 0, 4, .s8, 0, 0, 1, .system, 0, 0, none, false, true⟩ }
theorem met_RepliesReachTheirThreads (d : Dest) (hd : d ∈ [Dest.none, .reg 3 .s16, .pred 0, .status 4]) (m : Msg)
    (hm : m ∈ [Msg.reply ⟨0, 0, 0⟩ (.value 0xFFFF8 true), .relaxedReply ⟨0, 0, 0⟩ (.value 0xFFFF8 true)]) :
    let s := sent m (State.reset.setThread 0 (waitingThread d))
    s.msg? 7 = some m ∧ s.named ⟨0, 0, 0⟩ = some (waitingThread d) ∧ (waitingThread d).exiting = false ∧ (waitingThread d).stopq = false ∧
      (waitingThread d).rep.act = false ∧ (waitingThread d).run = .run := by
  fin_cases hd <;> fin_cases hm <;> decide
theorem met_PutsAndRefills : State.reset.cycle % 1024 = 0 ∧ (State.reset.core 3).starved = 0 ∧
    (let m : Msg := .put ⟨9, 1, 1⟩ 0 3 99 true
    (sent m filled).msg? 7 = some m ∧ filled.isFenced (clusterOf (fld 0 16 3)) = false ∧
      filled.named ⟨0, 0, 0⟩ = some { thread with run := .detached 0 0, waitbud := 5 } ∧ State.reset.named ⟨0, 0, 0⟩ = none) := by decide
/-- Slots 1, 3 and 5 are starved; from slot 3 upward, REFILL pays 3 and 5 and not 1; or it pays all three. -/
def starvedCore (refill : BitVec 16) : Core :=
  { Core.reset with refill := refill, starved := 0x2A, charges := [(1, 50), (3, 30), (5, 40)], nextpp := 3 }
theorem met_PutsAndRefills_prepaid (refill : BitVec 16) (paid rest : List Nat)
    (h : (refill, paid, rest) ∈ [((100 : BitVec 16), [3, 5], [1]), (200, [3, 5, 1], [])]) :
    let s := State.reset.setCore 2 (starvedCore refill)
    s.cycle % 1024 = 0 ∧ ((s.core 2).newRefill.getD (s.core 2).refill) = refill ∧
      ((List.range 7).map (fun i => ((s.core 2).nextpp.val + i) % 7)).filter (fun i => (s.core 2).starved.getLsbD i) = paid ++ rest ∧
      (paid.map (fun i => (mget (s.core 2).charges i).getD 0)).sum ≤ refill.toNat ∧
      (∀ i, rest.head? = some i →
        refill.toNat < (paid.map (fun i => (mget (s.core 2).charges i).getD 0)).sum + (mget (s.core 2).charges i).getD 0) := by
  simp only [List.mem_cons, Prod.mk.injEq, List.not_mem_nil, or_false] at h
  obtain ⟨rfl, rfl, rfl⟩ | ⟨rfl, rfl, rfl⟩ := h
  · refine ⟨by decide, by decide, by decide, by decide, ?_⟩
    rintro i h
    cases h
    decide
  · exact ⟨by decide, by decide, by decide, by decide, nofun⟩
/-- VIGCTL by halves, VIGSTAT, a word of host memory, and SEGFMT1 of cluster 6, whose store waits and then takes effect. -/
theorem met_RegisterStores :
    regionOf (districtCtlBase 5 + 2) = .districtCtl 5 2 ∧ regionOf (districtCtlBase 5 + 8) = .districtCtl 5 8 ∧
    regionOf (wordOfAddr (hostBase + 8)) = .host ∧ regionOf (clusterCtlBase 6 + 8) = .clusterCtl 6 8 ∧ State.reset.isFenced 6 = false ∧
    (let a := access .st (clusterCtlBase 6 + 8) 8 0x1100
    let v := setFld ((State.reset.cluster 6).segfmt.toList.getD 1 0) 0 64 0x1100
    (sent (.segWrite a) State.reset).msg? 7 = some (.segWrite a) ∧ fld v 15 12 ≤ 9 ∧ fld v 11 9 ≤ 4 ∧ fld v 15 12 = 1 ∧
      (let s := State.reset.setCluster 6 { Cluster.reset with segWait := [⟨1, a⟩] }
      (s.cluster 6).segWait = [⟨1, a⟩] ∧ s.segBusy 6 1 = false ∧ wordOfAddr a.pa = clusterCtlBase 6 + 8 * 1)) := by decide
/-- A register of a district that is wholly inside a fenced region: its stores are refused. -/
theorem met_RegisterStores_fenced :
    let s := { State.reset with snuffs := State.reset.snuffs.set 0 ⟨0, 0, 63, 31, true, true, true⟩ }
    s.addrFenced (districtCtlBase 5 + 8) = true ∧ State.reset.addrFenced (districtCtlBase 5 + 8) = false := by decide
/-- Page tables of space number 1: the page at 0x1000000 maps to 0x50000, with every right for the owner. -/
def space1 : Word := 0x0001000000000100
def withTables (s : State) : State := ((((s.writeWord 0x100000 0x4000000000200000).writeWord 0x200000 0x4000000000300000).writeWord 0x300000
  0x4000000000400000).writeWord 0x400040 0x4000000000500000).writeWord 0x500000 0xB800000000050000
def walker : Thread := { thread with run := .detached 1 0x1000000, space := space1 }
def walking : State := (State.reset.setThread 26 walker).setCore 3 { Core.reset with walks := [⟨55, 2, 0, 0x1000000, false, false⟩] }
theorem met_WalksRecordsAndRefusals_walk (s : State) (hs : s ∈ [walking, withTables walking]) :
    (s.core 3).walks.find? (fun x => x.id == 55) = some ⟨55, 2, 0, 0x1000000, false, false⟩ ∧
      (s.modCore 3 (fun q => { q with walks := q.walks.filter (fun x => x.id != 55) })).named ⟨3, 2, 0⟩ = some walker ∧
      walker.stopq = false ∧ walking.mem = [] ∧ ((withTables walking).walk space1 0x1000000).toOption.isSome = true ∧
      (walking.walk space1 0x1000000).toOption = none := by
  fin_cases hs <;> decide
theorem met_WalksRecordsAndRefusals_record :
    let r : Record := #v[0x3000000000000000, 0, 0, 0, 0, 0, 0, 0]
    let s := sent (.record 3 r) State.reset
    let full := s.setCore 3 { Core.reset with mailbox := List.replicate 32 r }
    let late := sent (.refusedStore ⟨0, 0, 0⟩ 0 0x40 0x36 3 0x88 0x99) State.reset
    s.msg? 7 = some (.record 3 r) ∧ (s.core 3).mailbox.length < 32 ∧ (s.core 3).mbxq = [] ∧ 32 ≤ (full.core 3).mailbox.length ∧
      full.msg? 7 = some (.record 3 r) ∧ fld r[0] 63 60 = 3 ∧ fld (0x1000000000000000 : Word) 63 60 ≠ 3 ∧
      late.msg? 7 = some (.refusedStore ⟨0, 0, 0⟩ 0 0x40 0x36 3 0x88 0x99) ∧ late.launchOf 0 = none ∧
      late.chandler.pastSteps.any (fun p => p.1 == 0) = false := by decide

/-! ## States that meet the hypotheses: the copy engine and the matrix unit -/

theorem translateEngine_near (s : State) (core : Nat) (space : Word) (sup : Bool) (k : Kind) (va : Word) (pa : Nat)
    (h1 : fld va 63 56 = 0) (h2 : va.toNat < nearEnd) (h3 : nearPa core va.toNat = some pa) :
    s.translateEngine core space sup k va = (.ok pa, s) := by
  simp [State.translateEngine, h1, h2, h3]
theorem copyAddress_near (s : State) (c : CopyCmd) (k : Kind) (va start : Word) (base pa : Nat) (h1 : fld va 63 56 = 0)
    (h2 : va.toNat < nearEnd) (h3 : nearPa c.name.core va.toNat = some pa) (h4 : pa + start.toNat = base + va.toNat)
    (h5 : s.engineFault pa = none) : s.copyAddress c k va start base = (.ok pa, s) := by
  simp [State.copyAddress, translateEngine_near s _ _ _ _ _ _ h1 h2 h3, h4, h5]
/-- Tags that meet the mask 0x100 in register 1, and tags that do not. -/
theorem met_CopiesAndTagsIssue :
    let s := at' [(1, 0x100), (2, 0x200), (3, 64)]
    s.readyClean 0 [2, 1, 3] ∧ s.iss.snap.relaxed = none ∧ s.iss.snap.reg 1 ≠ 0 ∧ (s.core 0).tags &&& s.iss.snap.reg 1 = 0 ∧
      ((s.setCore 0 { Core.reset with tags := 0x300 }).core 0).tags &&& s.iss.snap.reg 1 = s.iss.snap.reg 1 :=
  ⟨⟨⟨by decide, by decide⟩, by decide⟩, by decide, by decide, by decide, by decide⟩
/-- A copy of 64 bytes inside core 0's memory. -/
def copy1 : CopyCmd := {
  kind := .cpy, spa := 0, dpa := 0, mode := .fb, dest := 0x200, src := 0x100, count := 64, tag := 5, cpmbx := 0, dpat := 0, chkid := 0,
  space := 0, launch := 0, name := ⟨0, 0, 0⟩, sup := true, word := 0, pc := 0 }
def copy1At : CopyCmd := { copy1 with spa := tcmBase 0 + 0x100, dpa := tcmBase 0 + 0x200 }
def running (c : CopyCmd) (done : Nat) (moved : Bool) : CopyRun := ⟨c, done, 0, 0, none, [], [], false, moved, false, none⟩
def engine (r : Option CopyRun) (q : List CopyCmd) : State :=
  State.reset.setCluster 0 { Cluster.reset with copy := ⟨q, r, 3, false⟩ }
theorem met_CopyEngineSteps_accept :
    let s := sent (.copyKick copy1) State.reset
    s.msg? 7 = some (.copyKick copy1) ∧ clusterOf copy1.name.core = 0 ∧
      s.firstArrived (fun m => match m with
        | .copyKick x => clusterOf x.name.core == 0
        | _ => false) = some 7 ∧ (s.cluster 0).copy.marked = false ∧ (s.cluster 0).copy.queue.length + b2n (s.cluster 0).copy.run.isSome < 16 ∧
      copy1.srcLen ≠ 0 ∧ s.translateEngine 0 0 true .load 0x100 = (.ok (tcmBase 0 + 0x100), s) ∧
      s.translateEngine 0 0 true .store 0x200 = (.ok (tcmBase 0 + 0x200), s) ∧ s.copyRefused copy1At = none ∧ s.copySegs copy1At = [] ∧
      s.inFlightStores copy1.name .system = false :=
  ⟨by decide, by decide, by decide, by decide, by decide, by decide, by rfl, by rfl, by decide, by decide, by decide⟩
theorem met_CopyEngineSteps_run : ((engine none [copy1At]).cluster 0).copy = ⟨[copy1At], none, 3, false⟩ ∧
    ((engine (some (running copy1At 64 true)) []).cluster 0).copy.run = some (running copy1At 64 true) ∧
    bit (running copy1At 64 true).cmd.cpmbx 0 = false ∧
    (engine (some (running copy1At 64 true)) []).postedBy (.engine 0) (fun _ => true) = false := by decide
/-- CPYS of one chunk of number 7 to segment 0, whose NEXTSEQ is 7: number 7 is in sequence, number 8 is not. -/
def copyScaled : CopyCmd := { copy1 with
  kind := .cpys, dest := 0x100000, src := 0x100, count := 0x700000001, spa := tcmBase 0 + 0x100, dpa := scratchBase 0, mode := .ff }
def scaling : State := State.reset.setCluster 0 { Cluster.reset with
  copy := ⟨[], some (running copyScaled 0 false), 3, false⟩, segfmt := (Vector.replicate 16 0).set 0 0x700001100 }
theorem met_CopyEngineSteps_chunk : (scaling.cluster 0).copy.run = some (running copyScaled 0 false) ∧ 0 / 4096 < copyScaled.chunks ∧
    scaling.copyAddress copyScaled .store (copyScaled.dest + BitVec.ofNat 64 (0 / 4096 * 4096)) copyScaled.dest copyScaled.dpa
      = (.ok (scratchBase 0), scaling) ∧
    segOf (scratchBase 0) = some (0, 0, 0) ∧ (7 : BitVec 16).toNat = fld (scaling.segWord 0 0) 47 32 ∧
    (8 : BitVec 16).toNat ≠ fld (scaling.segWord 0 0) 47 32 ∧ (fld copyScaled.count 47 32 + 0 / 4096) % 2 ^ 16 = 7 :=
  ⟨by decide, by decide, copyAddress_near _ _ _ _ _ _ _ (by decide) (by decide) (by decide) (by decide) (by decide), by decide, by decide,
    by decide, by decide⟩
/-- A plain load of a core's own memory gives a value and changes nothing. -/
theorem readNow_own (s : State) (a : Access) (c : Nat) (form : a.form = .ld) (own : regionOf a.pa = .tcm c) (clean : s.wordErrors = []) :
    ∃ v f x, s.readNow a = (.value v f x, s) := by
  have same : a.asPerformed = a := by simp [Access.asPerformed, own]
  have here : s.peerSays a = (none, s) := by simp [State.peerSays, own]
  simp [State.readNow, same, here, State.wordError, clean, mget, form, holds, State.effect, State.apply, State.afterHold, serves]
  cases (s.wordMeta (wordOfAddr a.pa)).holdRec <;> simp
theorem fetchWord_ok (eng w c : Nat) (s : State) (r : CopyRun) (pa : Nat) (miss : mget r.srcw w = none) (mode : r.cmd.mode ≠ .fr)
    (ok : s.copyAddress r.cmd .load (BitVec.ofNat 64 w) r.cmd.src r.cmd.spa = (.ok pa, s)) (clean : s.wordErrors = [])
    (own : regionOf pa = .tcm c) (near : s.engineSees (eng / 256) pa = s) :
    ∃ l, fetchWord eng w (none, s, r) = (none, s, { r.noteRead s pa with srcw := l, repark := false }) := by
  obtain ⟨v, f, x, e⟩ := readNow_own s (r.cmd.read eng (BitVec.ofNat 64 w) pa r.repark) c (by simp [CopyCmd.read, mode]) own clean
  exact ⟨mset r.srcw w (v, f, x), by simp [fetchWord, miss, mode, ok, near, e]⟩
/-- A run of the scaled copy with some words fetched. -/
def fetched (l : List (Nat × Word × Bool × Bool)) (n : List (Nat × Nat × Nat)) : CopyRun :=
  { running copyScaled 0 false with srcw := l, reads := n }
/-- A word of core 0's own memory is fetched, and nothing else changes. -/
theorem fetchWord_own (l : List (Nat × Word × Bool × Bool)) (n : List (Nat × Nat × Nat)) (i : Nat) (h : i < 528) :
    ∃ l' n', fetchWord 0 (0x100 / 8 * 8 + 8 * i) (none, scaling, fetched l n) = (none, scaling, fetched l' n') := by
  have facts : ∀ i < 528, fld (BitVec.ofNat 64 (0x100 / 8 * 8 + 8 * i)) 63 56 = 0 ∧
      (BitVec.ofNat 64 (0x100 / 8 * 8 + 8 * i)).toNat < nearEnd ∧
      nearPa 0 (BitVec.ofNat 64 (0x100 / 8 * 8 + 8 * i)).toNat = some (tcmBase 0 + 0x100 + 8 * i) ∧
      tcmBase 0 + 0x100 + 8 * i + copyScaled.src.toNat = copyScaled.spa + (BitVec.ofNat 64 (0x100 / 8 * 8 + 8 * i)).toNat ∧
      regionOf (tcmBase 0 + 0x100 + 8 * i) = .tcm 0 ∧ offDie 0 (tcmBase 0 + 0x100 + 8 * i) = false := by decide +kernel
  obtain ⟨h1, h2, h3, h4, h5, h6⟩ := facts i h
  have here := copyAddress_near scaling copyScaled .load _ copyScaled.src copyScaled.spa _ h1 h2 h3 h4
    (by simp only [State.engineFault, State.addrFenced, h5]; rfl)
  by_cases hit : (mget l (0x100 / 8 * 8 + 8 * i)).isSome = true
  · exact ⟨l, n, by simp only [fetchWord, fetched, hit, if_true]⟩
  · obtain ⟨l', e⟩ := fetchWord_ok 0 _ 0 scaling (fetched l n) _ (by simpa [fetched] using hit)
      (show copyScaled.mode ≠ .fr by decide) here rfl h5 (by simp only [State.engineSees, Nat.zero_div, h6]; rfl)
    exact ⟨l', _, e⟩
theorem fetch_own (k : Nat) (h : k ≤ 528) (l : List (Nat × Word × Bool × Bool)) (n : List (Nat × Nat × Nat)) :
    ∃ l' n', (List.range k).foldl (fun f i => fetchWord 0 (0x100 / 8 * 8 + 8 * i) f) (none, scaling, fetched l n)
      = (none, scaling, fetched l' n') := by
  induction k with
  | zero => exact ⟨l, n, rfl⟩
  | succ k ih =>
    obtain ⟨l', n', e⟩ := ih (by omega)
    rw [List.range_succ, List.foldl_append, e]
    exact fetchWord_own l' n' k (by omega)
/-- All 4,224 bytes of its source are fetched. -/
theorem met_CopyEngineSteps_fetch : ∃ s1 r1,
    fetchBytes 0 (copyScaled.src.toNat + 0 / 4096 * 4224) 4224 (none, scaling, running copyScaled 0 false) = (none, s1, r1) := by
  obtain ⟨l, n, e⟩ := fetch_own 528 (by omega) [] []
  exact ⟨_, _, e⟩
theorem met_CopyMovesWords (m : CopyMode) (hm : m ∈ [CopyMode.fb, .ff, .fe, .fk, .fr]) :
    let c := { copy1At with mode := m }
    let r := running c 8 false
    let s := engine (some r) []
    let p := tcmBase 0 + 0x108
    (s.cluster 0).copy.run = some r ∧ r.cmd.kind = .cpy ∧ s.convOf c = none ∧ r.held = none ∧ r.parked = none ∧ r.srcw = [] ∧
      r.done + 8 ≤ c.count.toNat ∧ (c.src.toNat + r.done) % 8 = 0 ∧ (c.dest.toNat + r.done) % 8 = 0 ∧ c.src.toNat + r.done < 2 ^ 64 ∧
      s.copyAddress c (if c.mode = .fr then .store else .load) (BitVec.ofNat 64 (c.src.toNat + r.done)) c.src c.spa = (.ok p, s) ∧
      (∀ flight openReads threads nextId,
        let t : State := { s with
          flight := flight
          openReads := openReads
          threads := threads
          nextId := nextId }
        t.copyAddress c .store (c.dest + BitVec.ofNat 64 r.done) c.dest c.dpa = (.ok (tcmBase 0 + 0x208), t)) ∧
      hasMeta p = true ∧ p % 8 = 0 ∧ s.wordErrors = [] ∧ (s.wordMeta p).full = true := by
  fin_cases hm <;>
    exact ⟨by decide, by decide, by decide, by decide, by decide, by decide, by decide, by decide, by decide, by decide, by rfl,
      fun _ _ _ _ => by rfl, by decide, by decide, by decide, by decide⟩
/-- A word of such a copy at its bank. -/
theorem met_CopyMovesWords_arrival (m : CopyMode) (hm : m ∈ [CopyMode.fb, .ff, .fe, .fk, .fr]) (full : Bool) :
    let a := { access (.copy m full) aword 8 5 with who := .engine 0, posted := true }
    let s := sent (.access a) filled
    s.msg? 7 = some (.access a) ∧ s.wayBlocked a.pa = none ∧ a.form = .copy m full ∧ a.size = 8 ∧ a.pa % 8 = 0 ∧ hasMeta a.pa = true ∧
      isKick a.pa = false ∧ a.posted = true ∧ mget s.wordErrors a.pa = none ∧ s.waitersAt a.pa = [] := by
  cases full <;> fin_cases hm <;> decide

/-- Tile 2 of cluster 0 unlocked, and locked by one command. -/
def locked (s : State) : State := s.setCluster 0 { Cluster.reset with
  mat := { Cluster.reset.mat with tiles := Cluster.reset.mat.tiles.set 2 { TileState.reset with owners := 1 } } }
theorem met_MatrixInstructionsIssue :
    let s := at' [(1, 3), (2, 0x60), (3, 5)]
    s.readyClean 0 [1, 2, 3] ∧ s.iss.snap.relaxed = none ∧ fld (s.iss.snap.reg 2) 63 12 = 0 ∧ ((s.cluster 0).tile 2).owners = 0 ∧
      (((locked s).cluster 0).tile 2).owners ≠ 0 ∧ fld (s.iss.snap.reg 1) 63 4 = 0 ∧ fld (s.iss.snap.reg 2) 63 11 = 0 ∧
      fld (s.iss.snap.reg 3) 63 6 = 0 ∧ (s.iss.snap.reg 2).toNat < 0x18000 ∧ (s.iss.snap.reg 2).toNat % 32 = 0 ∧ s.iss.snap.priv = true ∧
      s.wordErrors = [] ∧ ∀ i, i < 4 → s.isPoisonAt (tcmBase s.iss.core + (s.iss.snap.reg 2).toNat + 8 * i) = false := by
  refine ⟨⟨⟨?_, ?_⟩, ?_⟩, ?_⟩ <;> decide
def matrix (fn : Nat) : MatCmd := {
  fn := BitVec.ofNat 4 fn, fmt := 0, tile := 1, a := 3, b := 5, c := 0x85850000, space := 0, launch := 0, name := ⟨0, 0, 0⟩, sup := true,
  cap := none, word := 0, pc := 0, pa := 0, old := [], oldX := [] }
def tiled (r : Option MatRun) (q : List MatCmd) : State := State.reset.setCluster 0 { Cluster.reset with
  mat := ⟨Cluster.reset.mat.tiles.set 1 { TileState.reset with owners := 1 }, q, r, false⟩ }
theorem met_MatrixUnitSteps_accept :
    let c := matrix 1
    let s := sent (.matKick c) State.reset
    s.msg? 7 = some (.matKick c) ∧ c.target = 0 ∧ s.firstMat 0 = some 7 ∧ s.isFenced 0 = false ∧ (s.cluster 0).mat.marked = false ∧
      (s.cluster 0).mat.queue.length + b2n (s.cluster 0).mat.run.isSome < 16 ∧ matLimit c = none ∧ c.fn ≠ 4 ∧ c.segs 0 = [] ∧
      c.cap = none ∧ s.inFlightStores c.name .system = false := by decide
/-- A capability with the check the module computes: tile 1 and configuring allowed, of cluster 0's stamp. -/
def goodCap : Word := BitVec.ofNat 64 ((Config.capCheck 0 0x2200000).toNat * 2 ^ 40 + 0x2200000)
theorem goodCap_fields (k : Nat) (hk : k < 2 ^ 24) :
    let cap : Word := BitVec.ofNat 64 (k * 2 ^ 40 + 0x2200000)
    fld cap 39 0 = 0x2200000 ∧ fld cap 63 40 = k ∧ fld cap 39 28 = 0 ∧ fld cap 10 0 = 0 ∧ bit cap 21 = true ∧ bit cap 25 = true := by
  simp only [fld, bits, bit, BitVec.toNat_ofNat, beq_iff_eq]
  omega
theorem sent_capKey (m : Msg) : (sent m State.reset).capKey = 0 := rfl
theorem met_MatrixUnitSteps_send :
    let c := { matrix 1 with cap := some goodCap, name := ⟨128, 0, 0⟩ }
    let s := sent (.msend c) State.reset
    s.msg? 7 = some (.msend c) ∧ c.target = 0 ∧ s.firstMat 0 = some 7 ∧ c.cap = some goodCap ∧ s.capRefused 0 c goodCap = none := by
  obtain ⟨low, check, stamp, cl, tile, config⟩ := goodCap_fields (Config.capCheck 0 0x2200000).toNat (Config.capCheck 0 0x2200000).isLt
  change fld goodCap 39 0 = _ at low
  change fld goodCap 63 40 = _ at check
  change fld goodCap 39 28 = 0 at stamp
  change fld goodCap 10 0 = 0 at cl
  change bit goodCap 21 = true at tile
  change bit goodCap 25 = true at config
  refine ⟨rfl, cl, ?_, rfl, ?_⟩
  · simp [State.firstMat, State.firstArrived, sent, MatCmd.target, cl, State.reset]
  · simp only [State.capRefused, sent_capKey, matrix, low, check, stamp, cl, config]
    simp [tile]
    decide
theorem met_MatrixUnitSteps_run :
    let run (fn : Nat) (ended : Bool) : MatRun := ⟨matrix fn, 0, false, ended, [], [], 0, none⟩
    let done := tiled (some (run 0 true)) []
    ((tiled none [matrix 1]).cluster 0).mat.queue = [matrix 1] ∧ (matrix 1).fn ≠ 0 ∧ (matrix 1).fn ≠ 4 ∧
      (∀ fn ∈ [0, 1, 2, 5, 6, 10], ((tiled (some (run fn false)) []).cluster 0).mat.run = some (run fn false)) ∧
      (done.cluster 0).mat.run = some (run 0 true) ∧ done.postedBy (.engine 2048) (fun _ => true) = false ∧
      0 < ((done.cluster 0).tile 1).owners ∧ bit (matrix 0).c 23 = true ∧ bit (matrix 0).c 31 = true := by decide
/-- An MMA of S8 operands in segment 0 that starts, and goes on when its operands are consumed. -/
def multiply : MatCmd := { matrix 0 with fmt := 4, a := 0x100000, b := 0x101000, c := 0x85850001 }
theorem met_MatrixUnitSteps_multiply :
    let s := tiled none [multiply]
    let t := s.setCluster 0 { s.cluster 0 with segfmt := (Vector.replicate 16 0).set 0 0x1000 }
    let r : MatRun := ⟨multiply, 0, true, false, [], [], 0, none⟩
    (t.cluster 0).mat.run = none ∧ (t.cluster 0).mat.queue = [multiply] ∧ Pairing.ofCode multiply.fmt.toNat = some .s8 ∧
      t.mmaOk 0 multiply ((t.cluster 0).tile 1) .s8 = true ∧ ((tiled (some r) []).cluster 0).mat.run = some r := by decide
/-- An MST to core 0's own memory. -/
def storing : MatCmd := { matrix 4 with a := 0x200, b := 0, pa := tcmBase 0 + 0x200 }
theorem met_MatrixUnitSteps_store :
    let s := sent (.matKick { storing with pa := 0 }) State.reset
    ((tiled none [storing]).cluster 0).mat.queue = [storing] ∧ Target.ofCode storing.fmt.toNat = some .ln6 ∧
      (tiled none [storing]).mstOk storing .ln6 storing.pa = true ∧ matLimit { storing with pa := 0 } = none ∧
      s.firstMat 0 = some 7 ∧ s.translateEngine 0 0 true .store 0x200 = (.ok (tcmBase 0 + 0x200), s) ∧
      (storing.segs 0 = []) := ⟨by decide, by decide, by decide, by decide, by decide, by rfl, by decide⟩

/-- One element of one row and column: an MMA of S8 operands that has its operands, an MST of it, and an RMAP whose segment no
store has changed. -/
def small (r : MatRun) : State :=
  let s := tiled (some r) []
  s.setCluster 0 { s.cluster 0 with
    segfmt := (Vector.replicate 16 0).set 0 0x1000
    mat := { (s.cluster 0).mat with tiles := (s.cluster 0).mat.tiles.set 1 { TileState.reset with owners := 1, tshape := 0x101 } } }
def smallRun (c : MatCmd) (n : Nat) : MatRun := ⟨c, n, true, false, [(scratchBase 0, 3), (scratchBase 0 + 0x1000, 5)], [], 0, none⟩
def smallStore : MatCmd := { storing with b := 0x100100 }
theorem met_MatrixUnitSteps_block :
    let r := smallRun multiply 0
    let s := small r
    let t := (s.cluster 0).tile 1
    let cs := blockContribs s 0 r t .s8 0 0 0
    (s.cluster 0).mat.run = some r ∧ Pairing.ofCode multiply.fmt.toNat = some .s8 ∧ mismatchOf (s.blockElems 0 r .s8 s.fresh) = none ∧
      (0, 0) ∈ t.activeRows ∧ 0 < t.bcols ∧ orderFree (t.elem 0) cs t.ref = true ∧ (t.elem 0).nan = false ∧ (t.elem 0).ovf = false ∧
      (∀ c ∈ cs, ∃ n m e, c.1 = .fin n m e) := by
  refine ⟨by decide, by decide, by decide +kernel, by decide, by decide, by decide +kernel, by decide, by decide, ?_⟩
  have all : (blockContribs (small (smallRun multiply 0)) 0 (smallRun multiply 0) (((small (smallRun multiply 0)).cluster 0).tile 1) .s8 0 0
      0).all (fun c => match c.1 with
        | .fin .. => true
        | _ => false) = true := by decide +kernel
  intro c hc
  have one := List.all_eq_true.mp all c hc
  cases e : c.1 with
  | fin n m x => exact ⟨n, m, x, rfl⟩
  | inf => simp [e] at one
  | nan => simp [e] at one
theorem met_MatrixUnitSteps_stores :
    let t := ((small (smallRun smallStore 0)).cluster 0).tile 1
    (mstStores t smallStore .ln6)[1]? = none ∧
      (mstStores t smallStore .ln6)[0]? = some (⟨0x200, 1, (readout (t.elem 0) t.ref .ln6).1, t.rowPoison.getLsbD 0⟩, none) ∧
      (small (smallRun smallStore 0)).translateEngine 0 0 true .store 0x200 = (.ok (tcmBase 0 + 0x200), small (smallRun smallStore 0)) ∧
      (small (smallRun smallStore 0)).engineFault (tcmBase 0 + 0x200) = none ∧ mstRows smallStore.b = 1 ∧ mstCols smallStore.b = 1 ∧
      smallStore.a.toNat % Target.ln6.bytes = 0 := by
  refine ⟨by decide +kernel, by decide +kernel, by rfl, by decide, by decide, by decide, by decide⟩
theorem met_MatrixUnitSteps_map :
    let c := { matrix 10 with a := 0x100000 }
    let s := (small (smallRun { c with old := [(scratchBase 0, 0x81)] } 0)).writeN (scratchBase 0) 1 0x81
    (s.cluster 0).mat.run = some (smallRun { c with old := [(scratchBase 0, 0x81)] } 0) ∧ s.wordErrors = [] ∧ c.operandClusters 0 = [0] ∧
      s.operandBytes [0] = [(scratchBase 0, 0x81)] ∧ s.operandPoison [0] = [] ∧ operandCell [0] (operandPa 0 c.a) = true := by decide

/-! ## A save area -/

/-- A supervisor thread of core 3, and the thread 1 of core 0 that saves and restores it in its own core's memory. -/
def plain : Thread := { Thread.init with priv := true }
theorem area_facts : ∀ i < 1152, fld ((0x100 : Word) + BitVec.ofNat 64 (8 * i)) 63 56 = 0 ∧
    ((0x100 : Word) + BitVec.ofNat 64 (8 * i)).toNat < nearEnd ∧
    nearPa 0 ((0x100 : Word) + BitVec.ofNat 64 (8 * i)).toNat = some (tcmBase 0 + 0x100 + 8 * i) ∧
    regionOf (tcmBase 0 + 0x100 + 8 * i) = .tcm 0 ∧ offDie 0 (tcmBase 0 + 0x100 + 8 * i) = false ∧
    wordOfAddr (tcmBase 0 + 0x100 + 8 * i) = tcmBase 0 + 0x100 + 8 * i := by decide +kernel
theorem ctxAddress_area (s : State) (k : Kind) (i : Nat) (h : i < 1152) (live : s.named ⟨0, 1, 0⟩ = some plain)
    (open' : s.snuffs = State.reset.snuffs) :
    s.ctxAddress ⟨0, 1, 0⟩ k (0x100 + BitVec.ofNat 64 (8 * i)) = (.ok (tcmBase 0 + 0x100 + 8 * i), s) := by
  obtain ⟨h1, h2, h3, h4, -, -⟩ := area_facts i h
  have free : s.engineFault (tcmBase 0 + 0x100 + 8 * i) = none := by
    simp only [State.engineFault, h4, State.addrFenced, open']
    rfl
  simp only [State.ctxAddress, live, translateEngine_near s 0 _ _ k _ _ h1 h2 h3, free]
/-- The words of a save area in order, when each reads so. -/
theorem loadCtx_area (s : State) (w : Nat → Word) (live : s.named ⟨0, 1, 0⟩ = some plain) (open' : s.snuffs = State.reset.snuffs)
    (clean : s.wordErrors = []) (marks : s.marks = [])
    (reads : ∀ i < 1152, BitVec.ofNat 64 (s.busRead (tcmBase 0 + 0x100 + 8 * i) 8) = w i) (k : Nat) (h : k ≤ 1152) :
    s.loadCtx ⟨0, 1, 0⟩ 0x100 k = (some (.ok ((List.range' (1152 - k) k).map (fun i => (w i, false)))), s) := by
  induction k with
  | zero => rfl
  | succ k ih =>
    have hi : 1151 - k < 1152 := by omega
    obtain ⟨-, -, -, h4, h5, h6⟩ := area_facts _ hi
    have read : (s.engineSees (dieOf 0) (tcmBase 0 + 0x100 + 8 * (1151 - k))).readNow
        ⟨.ld, 0x100 + BitVec.ofNat 64 (8 * (1151 - k)), tcmBase 0 + 0x100 + 8 * (1151 - k), 8, 0, .thread ⟨0, 1, 0⟩, .sc, .system, false,
          false, true, 0, 0, false, 0⟩ = (.value (w (1151 - k)) true false, s) := by
      have e : s.engineSees (dieOf 0) (tcmBase 0 + 0x100 + 8 * (1151 - k)) = s := by
        simp only [State.engineSees, show dieOf 0 = 0 from rfl, h5]; rfl
      rw [e]
      simp [State.readNow, Access.asPerformed, State.peerSays, h4, h6, State.wordError, clean, marks, mget, holds, State.effect, State.apply,
        State.afterHold, serves, State.wordMeta, metaDefault, reads _ hi]
    rw [State.loadCtx, ctxAddress_area s .load _ hi live open']
    simp only [read, ih (by omega)]
    rw [List.range'_succ, show 1152 - (k + 1) + 1 = 1152 - k by omega, show 1152 - (k + 1) = 1151 - k by omega, List.map_cons]
/-- A plain posted store to a word of a core's own memory changes memory alone. -/
theorem perform_area (s : State) (a : Access) (c : Nat) (form : a.form = .st) (own : regionOf a.pa = .tcm c) (posted : a.posted = true)
    (whole : a.size = 8) (poison : a.poison = false) (word : wordOfAddr a.pa = a.pa) (marks : s.marks = []) :
    s.perform a = s.busWrite a.pa a.size a.data.toNat := by
  have same : (s.busWrite a.pa 8 a.data.toNat).marks = [] := by
    simp only [State.busWrite, State.countWrite]
    split <;> split <;> (try split) <;> exact marks
  have back (u : State) (h : u.marks = []) (w : Nat) (m : Meta) (e : m = metaDefault w) : u.setMeta w m = u := by
    cases u
    cases h
    simp [e, State.setMeta, mput, mdel]
  have meta' : metaDefault a.pa = ⟨true, false, none, none, 0⟩ := by simp [metaDefault, own]
  simp only [State.perform, Access.asPerformed, own, State.peerReason, form, holds, State.performOnce, State.effect, State.apply,
    State.noteKick, State.afterHold, State.answer, posted, serves, State.wordMeta, marks, word, mget, whole, poison, meta', if_true,
    Option.getD_none]
  rw [back _ same _ _ meta'.symm]
  simp [same, mget]
/-- A save area is stored to its end. -/
theorem storeCtx_area (w : Nat → Word) (k : Nat) (h : k ≤ 1152) (s : State) (live : s.named ⟨0, 1, 0⟩ = some plain)
    (open' : s.snuffs = State.reset.snuffs) (clean : s.wordErrors = []) (marks : s.marks = []) (l : Word) :
    (s.storeCtx ⟨0, 1, 0⟩ l 0x100 w k).1 = none := by
  induction k generalizing s with
  | zero => rfl
  | succ k ih =>
    have hi : 1151 - k < 1152 := by omega
    obtain ⟨-, -, -, h4, h5, h6⟩ := area_facts _ hi
    have kept (v : Nat) : let u := s.busWrite (tcmBase 0 + 0x100 + 8 * (1151 - k)) 8 v
        u.named ⟨0, 1, 0⟩ = some plain ∧ u.snuffs = State.reset.snuffs ∧ u.wordErrors = [] ∧ u.marks = [] := by
      simp only [State.busWrite, State.countWrite]
      split <;> split <;> (try split) <;> exact ⟨live, open', clean, marks⟩
    rw [State.storeCtx, ctxAddress_area s .store _ hi live open']
    simp only [State.peerSays, h4, State.engineTouches, show dieOf 0 = 0 from rfl, h5, Bool.false_eq_true, if_false, State.storeNow, Access.msg,
      State.wordError, clean, mget]
    rw [perform_area _ _ 0 rfl h4 rfl rfl rfl h6 marks]
    obtain ⟨k1, k2, k3, k4⟩ := kept (w (1151 - k)).toNat
    exact ih (by omega) _ k1 k2 k3 k4
/-- What core 3's thread 2 leaves in the area, and the state that holds it. -/
def saved : List Host.Cell := [(4222124659048704, 26#8), (4222124659048710, 192#8), (4222124659048711, 1#8), (4222124659048724, 255#8),
  (4222124659048725, 255#8), (4222124659048726, 255#8), (4222124659048727, 255#8), (4222124659048728, 1#8), (4222124659048754, 16#8)]
def areaState (m : List Host.Cell) (th : Thread) (o : SysOp) (target : Word) : State :=
  { State.reset with threads := [(1, plain), (26, th)], mem := m, flight := [⟨7, 0, 0, .sys ⟨0, 1, 0⟩ o target false⟩], nextId := 8 }
theorem tcmBase_zero : tcmBase 0 = 4222124659048448 := by decide
theorem saved_words (i : Nat) (h : i < 1152) (s : State) (m : s.mem = saved) :
    BitVec.ofNat 64 (s.busRead (tcmBase 0 + 0x100 + 8 * i) 8) = ctxWord 3 2 plain true i := by
  obtain ⟨-, -, -, h4, -, h6⟩ := area_facts i h
  have e : BitVec.ofNat 64 (s.busRead (tcmBase 0 + 0x100 + 8 * i) 8) = BitVec.ofNat 64 (Memory.readN saved (tcmBase 0 + 0x100 + 8 * i) 8) := by
    have al : (tcmBase 0 + 0x100 + 8 * i) % 8 = 0 := by rw [tcmBase_zero]; omega
    simp only [State.busRead, h6, State.busWord, h4, al, bits, State.readWord, State.readN, m]
    apply BitVec.eq_of_toNat_eq
    simp
  rw [e]
  by_cases low : i < 17
  · have words : ∀ i < 17, BitVec.ofNat 64 (Memory.readN saved (tcmBase 0 + 0x100 + 8 * i) 8) = ctxWord 3 2 plain true i := by decide +kernel
    exact words i low
  · have zero : ∀ i < 1152, 17 ≤ i → ctxWord 3 2 plain true i = 0 := by decide +kernel
    have above (a : Nat) (h : 4222124659048754 < a) : Memory.read saved a = 0 := by
      have none : mget saved a = none := by
        simp only [saved, mget]
        repeat rw [if_neg (by omega)]
      simp [Memory.read, none, Memory.unlisted]
    have bytes (a : Nat) (h : 4222124659048754 < a) : Memory.readN saved a 8 = 0 := by
      simp only [Memory.readN]
      rw [above _ h, above _ (by omega), above _ (by omega), above _ (by omega), above _ (by omega), above _ (by omega), above _ (by omega),
        above _ (by omega)]
      rfl
    rw [zero i h (by omega), bytes _ (by rw [tcmBase_zero]; omega)]
    rfl
theorem area_lists : (List.range' (1152 - 1152) 1152).map (fun i => (ctxWord 3 2 plain true i, false)) =
    (List.range 1152).map (fun i => (ctxWord 3 2 plain true i, false)) := by
  rw [List.range_eq_range', Nat.sub_self]
/-- Its owner runs for PREEMPT, is stopped for SAVECTX and held for RESTCTX. -/
theorem met_ReturnFromAnException_save (o : SysOp) (ho : o ∈ [SysOp.preempt 0x100, .savectx 0x100]) (th : Thread)
    (hth : th ∈ [plain, { plain with run := .stopped }]) (l : Word) :
    let s := areaState [] th o (BitVec.ofNat 64 (3 * 8 + 2))
    s.msg? 7 = some (.sys ⟨0, 1, 0⟩ o (BitVec.ofNat 64 (3 * 8 + 2)) false) ∧ sysName (BitVec.ofNat 64 (3 * 8 + 2)) = some (.thread ⟨3, 2, 0⟩) ∧
      s.named ⟨3, 2, 0⟩ = some th ∧ s.waiters = [] ∧ th.pend = [] ∧ th.relaxed = none ∧ th.exiting = false ∧ th.hold = false ∧
      s.inFlightStores ⟨3, 2, 0⟩ .system = false ∧
      ((s.take 7).storeCtx ⟨0, 1, 0⟩ l 0x100 (ctxWord 3 2 th th.stopq) 1152).1 = none := by
  refine ⟨by fin_cases ho <;> rfl, by decide, by fin_cases hth <;> rfl, rfl, by fin_cases hth <;> rfl, by fin_cases hth <;> rfl,
    by fin_cases hth <;> rfl, by fin_cases hth <;> rfl, by fin_cases ho <;> rfl, storeCtx_area _ 1152 (by omega)
      ((areaState [] th o (BitVec.ofNat 64 (3 * 8 + 2))).take 7) (by rfl) rfl rfl rfl l⟩
theorem met_ReturnFromAnException_restore :
    let s := areaState saved { plain with run := .held } (.restctx 0x100) 0
    s.msg? 7 = some (.sys ⟨0, 1, 0⟩ (.restctx 0x100) 0 false) ∧ plain.pend = [] ∧ plain.relaxed = none ∧ plain.pc.toNat % 8 = 0 ∧
      plain.waitbud.toNat ≤ 0x100000 ∧
      s.loadCtx ⟨0, 1, 0⟩ 0x100 1152 = (some (.ok ((List.range 1152).map (fun i => (ctxWord 3 2 plain true i, false)))), s) ∧
      s.heldNamed (ctxWord 3 2 plain true 0) = some (3, 2, { plain with run := .held }) ∧ plain.grant.toNat ≤ s.freeLanes (clusterOf 3) :=
  ⟨rfl, rfl, rfl, rfl, by decide, by
    rw [loadCtx_area (areaState saved _ _ _) _ (by rfl) rfl rfl rfl (fun i h => saved_words i h _ rfl) 1152 (by omega), area_lists], by rfl, by decide⟩

/-! ## States that meet the hypotheses: launches, steps, the system group -/

/-- With nothing to reduce in NRCTL, and with five contributions to a pair of registers. -/
theorem met_LaunchInstructionsIssue : (at' [(1, 0x40), (2, 0x208)]).ready 0 [1, 2] ∧ (at' [(1, 0x40), (2, 0x208)]).readyClean 0 [1, 2] ∧
    (0x40 : Word).toNat < 2 ^ 14 ∧ (0x208 : Word).toNat % 8 = 0 ∧ (0x40 : Word).toNat % 64 = 0 ∧ (at' []).iss.snap.relaxed = none ∧
    (at' []).iss.snap.priv = true ∧
    fld (issuing { thread with nrctl := 0x0000050500000000 }).iss.snap.nrctl 55 40 ≠ 0 ∧
    fld (issuing { thread with nrctl := 0x0000050500000000 }).iss.snap.nrctl 36 32 ≠ 31 ∧
    fld (issuing { thread with nrctl := 0x0000050500000000 }).iss.snap.nrctl 2 0 ≠ 7 :=
  ⟨⟨by decide, by decide⟩, ⟨⟨by decide, by decide⟩, by decide⟩, by decide, by decide, by decide, by decide, by decide, by decide, by decide, by decide⟩
/-- MIG of 2 words at 0x100, with its fields of zeros. -/
theorem met_LaunchInstructionsIssue_mig : let x : Word := place 0x100 32 ||| place 2 16 ||| place 3 0
    (at' [(1, x), (2, 0x208)]).readyClean 0 [1, 2] ∧ fld x 63 49 = 0 ∧ fld x 31 23 = 0 ∧ fld x 15 14 = 0 ∧ fld x 48 32 % 8 = 0 ∧
      fld x 22 16 = 2 ∧ fld x 48 32 + 8 * fld x 22 16 ≤ 0x18000 := by
  refine ⟨⟨⟨?_, ?_⟩, ?_⟩, ?_⟩ <;> decide
/-- A record of two clusters on one die, of class 2, and the launch it becomes. -/
def launchWords : List Word := [0x200, 0x2084441, 7, 0, 0, 0, 0, 0, 0, 0, 0, 0, 0, 0, 0, 0]
def launchRec : LaunchRec := ⟨launchWords, 0, 2, true, ⟨0, 0, 0⟩, 0, 0, 0, none⟩
def launch (pending : List (Nat × Nat)) : Launch :=
  ⟨1, 1, launchWords, 0, 2, true, ⟨0, 0, 0⟩, 0, 0, 0, [(0, 0), (1, 1)], false, false, none, pending, [], []⟩
def launchWord : Word := (launch []).word 0
def launched (pending : List (Nat × Nat)) : State :=
  ({ State.reset with launches := [(0, launch pending)], lgens := [(0, 1)] }.setCluster 0 { Cluster.reset with holder := some 0, mcstamp := 1 }).setCluster 1
    { Cluster.reset with holder := some 0, mcstamp := 1 }
theorem met_LaunchUnitSteps_arrival :
    let s := sent (.launch launchRec 0x40) State.reset
    s.msg? 7 = some (.launch launchRec 0x40) ∧ s.firstArrived (fun m => match m with
        | .launch x _ => decide (x.asked = 2) && (s.recordBad x.words x.priv).isNone
        | _ => false) = some 7 ∧ s.recordBad launchWords true = none ∧ (s.queue 2).length < 256 := by decide +kernel
theorem met_LaunchUnitSteps_placement :
    let s := State.reset.modQueue 2 (fun _ => [launchRec])
    s.nextTurn = some (3, launchRec) ∧ s.cwords = [] ∧ launchRec.step = none ∧ pickClusters s.isFreeCluster launchWords = some [0, 1] ∧
      s.launch 0 = none ∧ launchRec.cls < 4 := by decide +kernel
theorem met_LaunchUnitSteps_broadcast :
    let s := launched [(0, 0), (1, 0)]
    let l := launch [(0, 0), (1, 0)]
    (s.cluster 0).holder = some 0 ∧ s.launch 0 = some l ∧ l.pendingShape.find? (fun p => p.1 == 0) = some (0, recShlen l.words) ∧
      l.clusters.find? (fun p => p.1 == 0) = some (0, 0) ∧ l.shapeHeld = [] ∧ l.killed = false ∧ (s.cluster 0).mat.idle = true ∧
      (s.cluster 0).mcstamp = l.stamp := by decide
/-- The record's shape is 16 bytes long, and none of them has been broadcast. -/
theorem met_LaunchUnitSteps_general :
    let l : Launch := { launch [(0, 0), (1, 0)] with words := launchWords.set 11 16 }
    let s := { launched [] with launches := [(0, l)] }
    (s.cluster 0).holder = some 0 ∧ s.launch 0 = some l ∧ l.pendingShape.find? (fun p => p.1 == 0) = some (0, 0) ∧ recShlen l.words ≠ 0 ∧
      l.clusters.find? (fun p => p.1 == 0) = some (0, 0) ∧ l.shapeHeld = [] ∧ l.killed = false ∧ (s.cluster 0).mat.idle = true ∧
      (s.cluster 0).mcstamp = l.stamp := by decide
theorem met_LaunchUnitSteps_end : (launched []).launch 0 = some (launch []) ∧ (launched []).cwords = [] ∧
    (launched []).launchOver 0 (launch []) = true ∧ (launch []).step = none ∧ wordAt (launch []).words 4 = 0 := by decide
/-- A spawn to core 1 in core 0's buffer. -/
def carried (resend : Bool) : Carried :=
  ⟨false, 1, 0x208, Vector.replicate 10 3, 0x3FF, 0, 1, launchWord, 0, true, 0, [], ⟨0, 0, 0⟩, resend, 0, 0⟩
def spawning (resend : Bool) : State := (launched []).setCore 0 { Core.reset with spawnBuf := [(3, carried resend)] }
theorem met_SpawningAndReductions_spawn :
    let s := sent (.spawn 0 3) (spawning false)
    let full := (List.range 7).foldl (fun s i => s.setThread (tid 1 i) thread) s
    s.msg? 7 = some (.spawn 0 3) ∧ mget (s.core 0).spawnBuf 3 = some (carried false) ∧ s.isFenced (clusterOf 1) = false ∧
      (s.cluster (clusterOf 1)).holder = some (lidOf launchWord) ∧ (s.launchOf launchWord).isSome = true ∧
      s.unprepared launchWord (clusterOf 1) = false ∧
      s.freeSlot 1 (some 0) = some 0 ∧ full.freeSlot 1 (some 0) = none ∧ (full.core 1).notices.length < 32 := by decide
theorem met_SpawningAndReductions_again :
    let s := sent (.slotFree 0 1 2) (spawning true)
    let tick := { spawning true with cores := [(0, { Core.reset with spawnBuf := [(3, carried true)] })] }
    s.msg? 7 = some (.slotFree 0 1 2) ∧ ((s.core 0).spawnBuf.filter (fun p => p.2.target == 1)).find?
      (fun p => !(s.take 7).spawnInFlight 0 p.1) = some (3, carried true) ∧
      tick.cycle % 4096 = 0 ∧ tick.cores = [(0, tick.core 0)] ∧ (tick.core 0).spawnBuf = [(3, { carried false with resend := true })] := by decide
theorem met_SpawningAndReductions_level :
    let s := (launched []).setCore 0 { Core.reset with worklist := [(1, false), (2, false), (3, true)] }
    s.cycle % 4096 = 0 ∧ s.cores.any (fun p => !p.2.worklist.isEmpty && (s.levelMove p.1).isSome) = true := by decide
/-- Core 0 has three entries, and the first of its neighbours none. -/
theorem met_SpawningAndReductions_levelled :
    let s := (launched []).setCore 0 { Core.reset with worklist := [(1, false), (2, false), (3, true)] }
    let count (c : Nat) : Nat := (s.core c).worklist.length
    s.cores.filter (fun p => !p.2.worklist.isEmpty) = [(0, s.core 0)] ∧ 1 ∈ s.adjacent 0 ∧
      (∀ c ∈ s.adjacent 0, count 1 ≤ count c ∧ (count c = count 1 → 1 ≤ c)) ∧ count 1 + 2 ≤ count 0 ∧ count 0 ≤ 1024 ∧
      ∀ i < 7, s.thread (tid 1 i) = none := by decide
/-- Two contributions to registers 5 and 6 of thread 0 of core 0: one has come, and both. -/
def packet (n : Nat) : NredEntry := ⟨place 2 40 ||| place 5 32, 7, 8, n, false, [launchWord]⟩
theorem met_SpawningAndReductions_packet :
    let s (n : Nat) := sent (.nred (packet n)) filled
    (s 1).msg? 7 = some (.nred (packet 1)) ∧ (s 2).msg? 7 = some (.nred (packet 2)) ∧ ((s 1).core (keyOwner (packet 1).key).core).nred = [] ∧
      (packet 1).count < keyCount (packet 1).key ∧ keyCount (packet 2).key = (packet 2).count ∧
      (s 2).named (keyOwner (packet 2).key) = some { thread with run := .detached 0 0, waitbud := 5 } ∧ keyReg (packet 2).key < 31 ∧
      (filled.setThread 0 { thread with run := .held }).ownerHeld (packet 2) = true := by decide
/-- A packet that joins the entry of its key, of numbers and of NaNs in either order; the key counts 3. -/
theorem met_SpawningAndReductions_join (x e : Word)
    (h : (x, e) ∈ [((0x3FF0000000000000 : Word), (0x4000000000000000 : Word)), (0x4000000000000000, 0x3FF0000000000000),
      (0x7FF8000000000000, 0), (0, 0x7FF8000000000000), (0, 0x8000000000000000)]) :
    let p (v : Word) (i : Word) : NredEntry := ⟨place 3 40 ||| place 5 32, v, i, 1, false, [launchWord]⟩
    let s := sent (.nred (p e 9)) (filled.setCore 0 { Core.reset with nred := [p x 8] })
    s.msg? 7 = some (.nred (p e 9)) ∧ (s.core (keyOwner (p e 9).key).core).nred = [p x 8] ∧
      (p x 8).count + (p e 9).count < keyCount (p e 9).key ∧
      ((Fty.val .f64 x.toNat).isNan || (Fty.val .f64 e.toNat).isNan || Fty.val .f64 x.toNat != Fty.val .f64 e.toNat) = true := by
  fin_cases h <;> decide
/-- A matrix command of the launch that has ended, with flags. -/
theorem met_MatrixUnitSteps_flags :
    let r : MatRun := ⟨{ matrix 0 with launch := launchWord }, 0, true, true, [], [], 5, none⟩
    let s := (launched []).setCluster 0 { Cluster.reset with
      holder := some 0, mat := ⟨Cluster.reset.mat.tiles.set 1 { TileState.reset with owners := 1 }, [], some r, false⟩ }
    (s.cluster 0).mat.run = some r ∧ s.launchOf launchWord = some (launch []) ∧ s.postedBy (.engine 2048) (fun _ => true) = false ∧
      0 < ((s.cluster 0).tile 1).owners := by decide
/-- A step launch of binding 4, step 6, whose request in batch slot 3 is sampled and scored. -/
def stepRow' : Row := ⟨3, 5, 9, 2, true, true, true, none, [], none⟩
def stepping (l : List (Reg × Word)) : State :=
  let th := regs l { thread with launchid := launchWord }
  { launched [] with
    launches := [(0, { launch [] with step := some (4, 6) })]
    chandler := { (launched []).chandler with binds := [(4, ⟨6, true, [stepRow'], 0, .placed 0, false, [], [], [], []⟩)] }
    iss := { Issue.idle with active := true, snap := th, live := th, next := 8 } }
theorem met_StepSupportIssue :
    let x : Word := place 3 32 ||| place 1 0
    let s := stepping [(1, x), (2, 5)]
    s.readyClean 0 [1, 2] ∧ s.stepOf s.iss.core s.iss.snap.launchid = some (4, 6) ∧ s.stepRow 4 6 3 = some stepRow' ∧ fld x 63 44 = 0 ∧
      fld x 31 5 = 0 ∧ s.iss.snap.relaxed = none ∧ s.iss.snap.stepEnded = false ∧ fld x 27 16 = 0 ∧ fld x 15 0 + 1 = stepRow'.ntok ∧
      stepRow'.sample = true ∧ stepRow'.scoref = true ∧ (at' [(1, x), (2, 5)]).stepOf 0 0 = none := by
  refine ⟨⟨⟨?_, ?_⟩, ?_⟩, ?_⟩ <;> decide
/-- The other two kinds of EMIT name themselves in bits 31:28. -/
theorem met_StepSupportIssue_kinds : ∀ k < 3, fld (place 3 32 ||| place k 28 ||| place 1 0) 31 28 = k ∧
    fld (place 3 32 ||| place k 28 ||| place 1 0) 43 32 = 3 := by decide
theorem met_SystemInstructionsIssue (x y : Word) : (at' [(1, x), (2, y)]).readyClean 0 [1, 2] ∧ (at' [(1, x), (2, y)]).iss.snap.priv = true ∧
    (user [(1, x), (2, y)]).readyClean 0 [1, 2] ∧ (user [(1, x), (2, y)]).iss.snap.priv = false ∧
    (at' [(1, x), (2, y)]).iss.snap.reg 1 = x ∧ (at' [(1, x), (2, y)]).iss.snap.reg 2 = y := by
  refine ⟨⟨⟨rfl, ?_⟩, ?_⟩, rfl, ⟨⟨rfl, ?_⟩, ?_⟩, rfl, ?_, ?_⟩ <;> simp [at', user, issuing, regs, thread, Thread.init]
/-- Operands that keep the limits of each: names of a thread and of an engine, operations, regions, pages and spaces. -/
theorem met_SystemInstructionsIssue_operands : sysName 8 = some (.thread ⟨1, 0, 0⟩) ∧ sysName 0x10000000005 = some (.engine 5) ∧
    (∀ k < 4, fld (place k 56) 63 56 = k) ∧ badRect 0 = false ∧ (∀ k < 4, fld (place k 8) 9 8 = k ∧ fld (place k 8) 63 10 = 0) ∧
    (∀ k < 3, fld (BitVec.ofNat 64 k) 1 0 = k ∧ fld (BitVec.ofNat 64 k) 63 4 = 0) ∧ fld (place 2 62) 63 62 = 2 ∧
    fld (place 2 62) 53 52 = 0 ∧ fld (place 2 62) 15 8 = 0 := by
  decide
/-- At the hub: a region defined and apart from the others, one that is fenced; a log of one entry; no walk under way; and REFILLs of
a core, a cluster, a district and the device, set and then taken. -/
def hub (o : SysOp) (begun : Bool) (s : State) : State := sent (.sys ⟨0, 1, 0⟩ o 0 begun) s
theorem met_SystemInstructionsIssue_snuff (op : Nat) :
    let r : Snuff := ⟨0, 0, 3, 3, true, false, false⟩
    let s := hub (.snuff 2 op 0x43050404) false { State.reset with snuffs := State.reset.snuffs.set 2 r }
    let f := hub (.snuff 2 op 0x43050404) false { State.reset with snuffs := State.reset.snuffs.set 2 { r with fenced := true } }
    let c := hub (.snuff 3 op 0x43030101) false { State.reset with snuffs := State.reset.snuffs.set 2 r }
    s.msg? 7 = some (.sys ⟨0, 1, 0⟩ (.snuff 2 op 0x43050404) 0 false) ∧ s.snuffs.toList[2]? = some r ∧
      f.snuffs.toList[2]? = some { r with fenced := true } ∧ (∀ i < 16, i ≠ 2 → (s.snuffs.toList[i]?.map (fun y => y.en)) = some false) ∧
      c.snuffs.toList[2]? = some r ∧ (bit (0x43030101 : Word) 30 = true ∧ r.x0 ≤ fld 0x43030101 21 16 ∧ fld 0x43030101 5 0 ≤ r.x1 ∧
        r.y0 ≤ fld 0x43030101 28 24 ∧ fld 0x43030101 12 8 ≤ r.y1) :=
  ⟨rfl, rfl, rfl, (by decide : ∀ i < 16, i ≠ 2 →
    ((State.reset.snuffs.set 2 ⟨0, 0, 3, 3, true, false, false⟩).toList[i]?.map (fun y => y.en)) = some false), rfl, by decide⟩
theorem met_SystemInstructionsIssue_errlog :
    let e : Vector Word 4 := #v[1, 2, 3, 4]
    let s (a : Word) := hub (.errlog a) false { State.reset with log := [(0, e)], logSeq := 1 }
    (∀ a, (s a).msg? 7 = some (.sys ⟨0, 1, 0⟩ (.errlog a) 0 false)) ∧ fld (2 : Word) 63 2 ≠ 2 ^ 62 - 1 ∧ fld (2 : Word) 63 2 < (s 2).logSeq ∧
      (s 2).logSeq ≤ fld (2 : Word) 63 2 + 4096 ∧ mget (s 2).log (fld (2 : Word) 63 2 % 4096) = some e ∧
      fld (BitVec.allOnes 64 : Word) 63 2 = 2 ^ 62 - 1 ∧ (s 4).logSeq ≤ fld (4 : Word) 63 2 := ⟨fun _ => rfl, by decide⟩
theorem met_SystemInstructionsIssue_tlbinv (kind reach : Nat) (x : Word) :
    let l : TlbEntry := ⟨1, some 2, 16, 16, 0⟩
    let s := hub (.tlbinv kind reach x) false (State.reset.setCore 0 { Core.reset with tlb := [l] })
    s.msg? 7 = some (.sys ⟨0, 1, 0⟩ (.tlbinv kind reach x) 0 false) ∧ (∀ p ∈ s.cores, p.2.walks = []) ∧ (s.core 0).tlb = [l] := by
  refine ⟨rfl, ?_, rfl⟩
  intro p hp
  simp only [hub, sent, State.setCore] at hp
  have : p = (0, { Core.reset with tlb := [⟨1, some 2, 16, 16, 0⟩] }) := by simpa [State.reset, mset] using hp
  rw [this]
  rfl
theorem met_SystemInstructionsIssue_enbud (reach : Nat) :
    let s (b : Bool) := hub (.enbud reach 5 200) b State.reset
    (∀ b, (s b).msg? 7 = some (.sys ⟨0, 1, 0⟩ (.enbud reach 5 200) 0 b)) ∧ (∀ c, ((s true).core c).newRefill = none) ∧
      (((s true).setCore 5 { Core.reset with newRefill := some 200 }).core 5).newRefill ≠ none :=
  ⟨fun _ => rfl, fun c => by simp [hub, sent, State.core, State.reset, mget, Core.reset],
    (by decide : ((State.reset.setCore 5 { Core.reset with newRefill := some 200 }).core 5).newRefill ≠ none)⟩

/-! ## States that meet the hypotheses: agent programs, steps, key-value pages -/

/-- A program bound to request record 2, of generation 7, through its register 3; its word at 0x1000000 is illegal. -/
def program (h : List Word) : Program := {
  desc := 0, bind := 0, pclass := 1, eclass := 2, result := 0, h := vecOf 16 (fun i => h.getD i 0),
  c := (Vector.replicate 16 none).set 3 (some ⟨2, 7⟩), pc := 0x1000008, fetchStop := true,
  words := [⟨0x1000000, 0x1234, .waiting, none, 0, [], []⟩], atWord := 0x1000000 }
/-- The tables of `withTables` as AGSPACE, four request records from 0x800000 on, and binding 0 with its AREA and limits. -/
def configured (s : State) : State :=
  let s := ((((withTables s).writeWord 0x50800 0x1000C00).writeWord 0x50808 (place 4 32 ||| place 16 16 ||| place 8 0)).writeWord
    0x50810 0x1008000).writeWord 0x50818 (place 3 48 ||| place 1 0)
  { s with chandler := { s.chandler with
      config := some #v[0x800000, 4, 0x1000400, 4, 0x100, 0x1000800, 2]
      binds := [(0, ⟨6, false, [], 0, .none, false, [], [], [], []⟩)], strings := [(2, 0xA00000)] } }
/-- Record 2: two layers of three blocks, five tokens, of which three are done. -/
def withRecord (s : State) : State :=
  (((s.writeWord 0x900000 (place 2 32 ||| place 1 16 ||| place 3 0)).writeWord 0x900008 0x900100).writeWord 0x900010 0x900200).rsets 2
    [(rState, 1), (rGen, 7), (rIdx, 2), (rKvroot, 0x9000), (rTlen, 5), (rPos, 3), (rProg, 0), (rCreg, 3)]
def agent (g : Program) : State :=
  let s := withRecord (configured State.reset)
  { s with chandler := { s.chandler with programs := [(0, g)] } }
theorem met_AgentWordsComplete :
    let g := program [0, 0x1000100, 77]
    let s := agent g
    s.chandler.cur = 0 ∧ s.prog 0 = some g ∧ g.fetchStop = true ∧ g.words.getLast?.map (fun w => w.addr) = some g.atWord ∧
      s.firstIssue g [] g.words = g.words.head? ∧ (decodeF 0x1234).toOption = none ∧ s.ctxRecord g 3 = some 2 ∧ s.ctxRecord g 4 = none ∧
      (s.agAddr .load 0x1000100).toOption = some 0x50100 ∧ (s.agAddr .store 0x1000100).toOption = some 0x50100 ∧
      hasMeta 0x50100 = true ∧ 0x50100 % 8 = 0 ∧ mget s.wordErrors 0x50100 = none ∧ s.waitersAt 0x50100 = [] ∧
      isKick 0x50100 = false ∧ s.agStoring 0x50100 = false ∧ s.wordErrors = [] ∧ (g.words.filter (fun w => w.addr == g.atWord)).length = 1 ∧
      s.wordMeta 0x50100 = ⟨true, false, none, none, 0⟩ ∧
      (s.setMeta 0x50100 ⟨false, false, none, none, 0⟩).wordMeta 0x50100 = ⟨false, false, none, none, 0⟩ := by decide +kernel
/-- Its next page maps to the aperture of port 0, whose link is up. -/
theorem met_AgentWordsComplete_peer :
    let s := ((agent (program [0, 0x1010100])).writeWord 0x500008 0xB80C000000000000).modPort 0 (fun q => { q with up := true })
    (s.agAddr .load 0x1010100).toOption = some (peerBase + 0x100) ∧ regionOf (peerBase + 0x100) = .peer 0 := by decide +kernel
theorem ok_of {ε α : Type} {x : Except ε α × State} {a : α} {s : State} (h : x.1.toOption = some a) (e : x.2 = s) : x = (.ok a, s) := by
  obtain ⟨r, t⟩ := x
  cases r <;> simp_all [Except.toOption]
/-- No count word is held, nor waited for, and all are available. -/
theorem met_AgentRecordsChange_counts :
    let s := agent (program [0, 3, 77])
    Memory.wf s.mem = true ∧ s.wordErrors = [] ∧ s.marks = [] ∧ s.waiters = [] ∧
      (∀ i ∈ s.countsOf (s.rootOf 2), s.countAvail (countWho (actWord 2)) i = true) ∧ s.prog s.chandler.cur = some (program [0, 3, 77]) ∧
      (program [0, 3, 77]).asIssued = program [0, 3, 77] := by decide +kernel
/-- CNEW and CFORK find a record and room; the other words meet record 2. -/
theorem met_AgentRecordsChange_room (s : State) (hs : s = agent (program [0, 3, 77])) :
    ((program [0, 3, 77]).c.toList.getD 4 none).isSome = false ∧ (∃ u, s.freshRecord (program [0, 3, 77]) 4 = some (0, u)) ∧
      s.ctxRecord (program [0, 3, 77]) 3 = some 2 ∧ s.rget 2 rState = 1 ∧ s.demoted (s.rootOf 2) = none ∧
      ∃ u, s.forkRecord 2 0 4 1 2 = some (0, u) := by
  subst hs
  have free : (agent (program [0, 3, 77])).newRecord = some 0 := by decide +kernel
  have heap : (agent (program [0, 3, 77])).chandler.heap = [] := rfl
  have bound : ((agent (program [0, 3, 77])).bindEntry 0).isSome = true := by decide +kernel
  obtain ⟨x, hx⟩ := Option.isSome_iff_exists.mp bound
  refine ⟨by decide, freshRecord_first _ _ _ _ x free hx heap, ?_, ?_, ?_, forkRecord_first _ _ _ _ _ _ _ free heap⟩ <;>
    decide +kernel
theorem met_AgentRecordsChange_words :
    let s := agent (program [0, 3, 77])
    let v := fld ((program [0, 3, 77]).hreg 1) 63 0
    s.inOpenStep 2 = false ∧ (csetField 0).isSome = true ∧ v ≤ s.rget 2 rTlen ∧ (csetField 0).map (fun p => p.2 v) = some true ∧
      ((s.places (s.rootOf 2)).filter (fun q => decide (v / 64 ≤ q.2))).length = 6 := by decide +kernel
/-- A program that has nothing bound, and names record 2 in h1. -/
theorem met_AgentRecordsChange_bind :
    let g := { program [0, place 2 26 ||| place 7 44, 77] with c := Vector.replicate 16 none }
    let s := agent g
    let v := g.hreg 1
    s.prog 0 = some g ∧ s.recCount > fld v 43 26 ∧ fld v 55 44 = s.rget (fld v 43 26) rGen ∧ s.rget (fld v 43 26) rState = 1 ∧
      s.isHeld (fld v 43 26) = false ∧ (g.c.toList.getD 4 none).isSome = false := by decide +kernel
theorem met_AgentStepWordsIssue_append (s : State) (hs : s = agent (program [0, 0x1000200, 1])) :
    s.prog s.chandler.cur = some (program [0, 0x1000200, 1]) ∧ s.ctxRecord (program [0, 0x1000200, 1]) 3 = some 2 ∧
      s.readTokens 2 0x1000200 1 = (.ok [0], s) ∧ s.recordAddr 2 + 256 ≤ s.stringAt 2 ∧ 0 < s.rget 2 rTlen ∧ s.rget 2 rMaxpos = 0 ∧
      ((program [0, 0x1000200, 1]).hreg 2).toNat = 1 ∧ ((program [0, 0x1000200, 0]).hreg 2).toNat = 0 := by
  subst hs
  refine ⟨by decide, by decide +kernel, ok_of (by decide +kernel) (by decide +kernel), ?_, by decide +kernel, by decide +kernel, by decide, by decide⟩
  rw [show (agent (program [0, 0x1000200, 1])).recordAddr 2 = 0x800200 by decide +kernel,
    show (agent (program [0, 0x1000200, 1])).stringAt 2 = heapAt 0xA00000 from rfl]
  unfold heapAt
  omega
/-- A table of CHOOSE with one alternative of one token; a draft of SPEC; an area of BEAM. -/
theorem met_AgentStepWordsIssue_choose (s : State)
    (hs : s = (agent (program [0, 0x1000200, 1])).writeWord 0x50200 0x0100000001000300) :
    s.chooseTokens 2 0x1000200 1 = (.ok [[0]], s) ∧ (program [0, 0x1000200, 1]).tokensRead = none ∧
      (s.backUp 2).forks (program [0, 0x1000200, 1]) 2 3 0 = some ([], s.backUp 2) := by
  subst hs
  exact ⟨ok_of (by decide +kernel) (by decide +kernel), by decide, rfl⟩
/-- Whether the entries that a walk reads lie in host memory, each in one word. -/
def hostPath (s : State) (va : Nat) : List (Nat × Nat) → Nat → Bool
  | [], _ => true
  | (lo, n) :: rest, table =>
    let epa := table + va / 2 ^ lo % n * 8
    let e := s.readWord epa
    decide (epa % 8 = 0) && (List.range 8).all (fun j => regionOf (epa + j) == .host) &&
      (decide (fld e 63 62 ≠ 1) || hostPath s va rest (fld e 51 8 * 256))
/-- Two states that host memory reads alike in. -/
def sameHost (s t : State) : Prop :=
  ∀ q, regionOf q = .host → Memory.read t.mem q = Memory.read s.mem q ∧ t.wordMeta q = s.wordMeta q
theorem readN_same (s t : State) (a : Nat) : ∀ n, (∀ j < n, Memory.read t.mem (a + j) = Memory.read s.mem (a + j)) →
    Memory.readN t.mem a n = Memory.readN s.mem a n := by
  intro n
  induction n generalizing a with
  | zero => intro _; rfl
  | succ n ih =>
    intro h
    have next : ∀ j < n, Memory.read t.mem (a + 1 + j) = Memory.read s.mem (a + 1 + j) := fun j hj => by
      simpa [Nat.add_assoc, Nat.add_comm 1] using h (j + 1) (by omega)
    rw [Memory.readN, Memory.readN, ih (a + 1) next, show Memory.read t.mem a = Memory.read s.mem a from h 0 (by omega)]
theorem isPoisonAt_meta (s : State) (pa : Nat) : s.isPoisonAt pa = (s.wordMeta (pa / 8 * 8)).poison := by
  have clean (w : Nat) : (metaDefault w).poison = false := by
    unfold metaDefault
    split <;> rfl
  unfold State.isPoisonAt State.wordMeta
  cases mget s.marks (pa / 8 * 8) <;> simp [clean]
theorem walkFrom_same (s t : State) (va : Nat) (same : sameHost s t) (l : List (Nat × Nat)) (table : Nat)
    (h : hostPath s va l table = true) : walkFrom t va l table = walkFrom s va l table := by
  induction l generalizing table with
  | nil => rfl
  | cons x rest ih =>
    obtain ⟨lo, n⟩ := x
    simp only [hostPath, Bool.and_eq_true, Bool.or_eq_true, decide_eq_true_eq, List.all_eq_true, List.mem_range, beq_iff_eq] at h
    obtain ⟨⟨aligned, host⟩, next⟩ := h
    have word : t.readWord (table + va / 2 ^ lo % n * 8) = s.readWord (table + va / 2 ^ lo % n * 8) := by
      simp only [State.readWord, State.readN, readN_same s t _ 8 (fun j hj => (same _ (host j hj)).1)]
    have clean : t.isPoisonAt (table + va / 2 ^ lo % n * 8) = s.isPoisonAt (table + va / 2 ^ lo % n * 8) := by
      rw [isPoisonAt_meta, isPoisonAt_meta, Nat.div_mul_cancel (Nat.dvd_of_mod_eq_zero aligned),
        (same _ (by simpa using host 0 (by omega))).2]
    unfold walkFrom
    dsimp only
    rw [word, clean]
    rcases next with leaf | next
    · have small : fld (s.readWord (table + va / 2 ^ lo % n * 8)) 63 62 < 4 := fld_lt _ _ _
      repeat' split
      all_goals first | rfl | (exfalso; omega)
    · rw [ih _ next]
/-- An address whose walk reads host memory alone translates alike wherever host memory, AGSPACE, the links and the fences are. -/
theorem agAddr_same (s t : State) (k : Kind) (va : Word) (config : t.chandler.config = s.chandler.config) (snuffs : t.snuffs = s.snuffs)
    (ports : t.ports = s.ports) (same : sameHost s t)
    (h : hostPath s va.toNat walkLevels (fld s.agSpace 39 0 * 4096) = true) : t.agAddr k va = s.agAddr k va := by
  have space : t.agSpace = s.agSpace := by simp only [State.agSpace, State.cfgWord, config]
  have fault (pa : Nat) : t.engineFault pa = s.engineFault pa := by
    simp only [State.engineFault, State.addrFenced, snuffs, ports]
    rfl
  simp only [State.agAddr, State.walk, space, walkFrom_same s t _ same _ _ h, fault]
/-- The tables of AGSPACE, and the page they map, in host memory. -/
def hostTables (g : Program) : State :=
  let h := hostBase
  let s := (((((agent g).writeWord (h + 0x100000) 0x4008000000200000).writeWord (h + 0x200000) 0x4008000000300000).writeWord (h + 0x300000)
    0x4008000000400000).writeWord (h + 0x400040) 0x4008000000500000).writeWord (h + 0x500000) 0xB808000000050000
  let s := s.writeWord (h + 0x50200) 0x0100000001000300
  { s with chandler := { s.chandler with config := some #v[0x800000, 4, 0x1000400, 4, 0x8000000100, 0x1000800, 2] } }
/-- The words that a CHOOSE and a BEAM of record 2 store to lie in host memory, whatever else changes. -/
theorem met_AgentStepWordsIssue_host (s : State) (hs : s = hostTables (program [0, 0x1000200, 1])) (va : Word) (hv : va ∈ [0x1000208, 0x1000300]) :
    ∀ t : State, t.chandler.config = s.chandler.config → t.snuffs = s.snuffs → t.ports = s.ports →
      (∀ q, regionOf q = .host → Memory.read t.mem q = Memory.read s.mem q ∧ t.wordMeta q = s.wordMeta q) →
      ∃ q, t.agAddr .store va = .ok q ∧ regionOf q = .host := by
  intro t config snuffs ports same
  have facts : hostPath s va.toNat walkLevels (fld s.agSpace 39 0 * 4096) = true ∧
      ((s.agAddr .store va).toOption.map regionOf) = some .host := by
    subst hs
    simp only [List.mem_cons, List.not_mem_nil, or_false] at hv
    rcases hv with rfl | rfl <;> decide +kernel
  rw [agAddr_same s t _ _ config snuffs ports same facts.1]
  obtain ⟨_, region⟩ := facts
  cases e : s.agAddr .store va with
  | error c => rw [e] at region; simp [Except.toOption] at region
  | ok q => exact ⟨q, rfl, by rw [e] at region; simpa [Except.toOption] using region⟩
/-- A CHOOSE of record 2 whose table and page tables lie in host memory, before its record is written. -/
def choosing : State := (hostTables (program [0, 0x1000200, 1])).backUp 2
theorem choosing_string : choosing.stringAt 2 = heapAt 0xA00000 := by
  rw [State.stringAt, show choosing.chandler.strings = [(2, 0xA00000)] by decide +kernel]
  rfl
theorem heapAt_bounds (off : Nat) : off ≤ heapAt off ∧ heapAt off < 2 ^ 34 + off := by
  unfold heapAt
  omega
theorem choosing_record : choosing.recordAddr 2 = 0x800200 := by decide +kernel
/-- The premises of CHOOSE there: its one token is read, its record lies below host memory and apart from its string. -/
theorem met_AgentStepWordsIssue_read (s : State) (hs : s = hostTables (program [0, 0x1000200, 1])) :
    s.chooseTokens 2 0x1000200 1 = (.ok [[0]], s) ∧ (s.backUp 2).forks (program [0, 0x1000200, 1]) 2 3 0 = some ([], s.backUp 2) := by
  subst hs
  exact ⟨ok_of (by decide +kernel) (by decide +kernel), rfl⟩
theorem met_AgentStepWordsIssue_apart :
    choosing.recordAddr 2 + 256 ≤ hostBase ∧ [2].Nodup ∧ choosing.stringAt 2 + 4 * (choosing.rget 2 rTlen + 1) ≤ hostBase ∧
      choosing.recordAddr 2 + 256 ≤ choosing.stringAt 2 := by
  obtain ⟨low, high⟩ := heapAt_bounds 0xA00000
  rw [choosing_string, choosing_record, show choosing.rget 2 rTlen = 5 by decide +kernel]
  generalize heapAt 0xA00000 = p at low high ⊢
  exact ⟨by decide, by decide, by unfold hostBase; omega, by omega⟩
theorem met_AgentStepWordsIssue_area (s : State) (hs : s = hostTables (program [0, 0x1000201, 1])) :
    s.emptyRecords (program [0, 0x1000201, 1]) 2 3 0 = some ([], s) ∧ s.recordAddr 2 + 256 ≤ hostBase ∧
      (s.agAddr .store 0x1000300).toOption = some (hostBase + 0x50300) := by
  subst hs
  exact ⟨rfl, by decide +kernel, by decide +kernel⟩
theorem met_AgentStepWordsIssue_spec (s : State) (hs : s = (agent (program [0, 0x1000200, 2])).writeWord 0x50200 2) :
    s.agLoad 0x1000200 8 = (.ok 2, s) ∧ s.draftBad 0x1000200 1 2 = (none, s) ∧ s.rget 2 rTlen + 2 + 1 ≤ s.capacity 2 := by
  subst hs
  refine ⟨ok_of (by decide +kernel) (by decide +kernel), ?_, ?_⟩ <;> decide +kernel
theorem met_AgentStepWordsIssue_beam :
    let s := agent (program [0, 0x1000201, 1])
    let y : Word := 0x1000201
    fld y 4 0 = 1 ∧ bit y 5 = false ∧ y.toNat < 2 ^ 56 ∧ s.rget 2 rTlen + 1 ≤ s.capacity 2 ∧
      (s.agAddr .store (BitVec.ofNat 64 (fld y 55 6 * 64) + BitVec.ofNat 64 (8 * (32 + 0)))).toOption.isSome = true ∧
      s.emptyRecords (program [0, 0x1000201, 1]) 2 3 0 = some ([], s) := ⟨by decide, by decide, by decide, by decide +kernel, by decide +kernel, rfl⟩
/-- Four admission words, the third of which names a descriptor. -/
def admitting : State :=
  let s := [0x50400, 0x50408, 0x50410, 0x50418].foldl (fun s a => s.setMeta a ⟨false, false, none, none, 0⟩) (agent (program []))
  ((s.writeWord 0x50410 0x1000500).setMeta 0x50410 ⟨true, false, none, none, 0⟩).writeWord 0x50500 0x1000A00
theorem met_ChandlerSteps_admission :
    let s := admitting
    let va := s.admBase + BitVec.ofNat 64 (8 * 2)
    let s1 := modCh (fun c => { c with rotation := 3 % (s.agAccess 65536 .ldc va 8 0 false false).2.admCount }) (s.agAccess 65536 .ldc va 8 0 false false).2
    let s2 := (s1.agLoads 0x1000500 8 8).2
    s.chandler.config.isSome = true ∧ s.chandler.paused = false ∧ s.chandler.programs.length < 65536 ∧ s.admissionWord = some 2 ∧
      (s.agLoad va 8).1.toOption = some 0x1000500 ∧ (s1.agLoads 0x1000500 8 8).1.toOption = some [0x1000A00, 0, 0, 0, 0, 0, 0, 0] ∧
      s2.descBad [0x1000A00, 0, 0, 0, 0, 0, 0, 0] = false ∧ s2.prog 1 = none ∧ s2.prog 0 ≠ none := by decide +kernel
theorem met_ChandlerSteps_formation :
    let s := (agent (program [])).rsets 2 [(rState, 2), (rOp, 0x20), (rBind, 0)]
    s.bind 0 = some ⟨6, false, [], 0, .none, false, [], [], [], []⟩ ∧ (s.bindEntry 0).map s.krecWaits = some false ∧ (s.queue 0).length < 256 ∧
      s.chandler.lateFaults = [] ∧ s.chandler.abandon = [] ∧ s.records.filter (s.genFull 0) = [] ∧ s.records.filter (s.isReady 0) = [2] ∧ s.newShares [2] [] = [] := by decide +kernel
/-- An open step, its one end come, whose row a flare names or not. -/
def openStep (flared : List Nat) : Bind := ⟨6, true, [stepRow'], 1, .placed 3, false, flared, [], [], []⟩
theorem met_ChandlerSteps_commit :
    let s := agent (program [])
    s.commitDue 0 (openStep []) = true ∧ s.flaredRows (openStep []) = [] ∧ s.flaredRows (openStep [3]) ≠ [] ∧
      s.commitDue 0 (openStep [3]) = true ∧ (openStep [3]).reex = false ∧ (openStep [3]).st ≠ .refused ∧
      (∀ l ∈ [[], [3]], s.commitCounts ((openStep l).rows ++ (openStep l).kept) = []) ∧ s.commitCounts [] = [] ∧
      s.flaredRows (openStep [3]) = [stepRow'] := by decide +kernel
/-- Block 0 of layer 0 of record 2 in a tier, its count word 9 at 1. -/
def paged (tier : Nat) (run : Option KvRun) : State :=
  let s := (((agent (program [])).writeWord 0x900100 (mkEntry tier 5 9 0x4000)).writeWord (countAddr 9) 1).rset 2 rEclass 3
  (s.setMeta (sramBaseOf 17 + 0x80) ⟨false, false, none, none, 0⟩).setDistrict 17 { s.district 17 with kv := run }
/-- A command of district 17 that fetches or stores block `blk` of layer 0, and writes its completion or does not. -/
def kvRec (op blk : Nat) (tells : Bool) : List Word :=
  [place op 62 ||| 0x900000, BitVec.ofNat 64 blk, 0x100, if tells then place 1 63 ||| 0x80 else 0]
def kvRun (w : List Word) (status : Option Nat) : KvRun := ⟨0x40, w, none, status, 77, false, false, 5⟩
/-- Where no word is held and none is waited for, the table has room. -/
theorem roomAt_free (s : State) (w : Nat) (waits : s.waiters = []) (held : ∀ q ∈ s.marks, q.2.hold = none) :
    s.roomAt w true = .table := by
  have holds : s.marks.filter (fun p => bankOf p.1 = bankOf w && p.2.hold.isSome && p.2.holdRec.isNone) = [] := by
    rw [List.filter_eq_nil_iff]
    intro q hq
    simp [held q hq]
  have used : s.tableUsed (bankOf w) = 0 := by simp [State.tableUsed, waits, holds]
  simp [State.roomAt, used]
/-- Then a full count word is available. -/
theorem countAvail_free (s : State) (who : Who) (i : Nat) (waits : s.waiters = []) (held : ∀ q ∈ s.marks, q.2.hold = none)
    (full : (s.wordMeta (countAddr i)).full = true) : s.countAvail who i = true := by
  simp [State.countAvail, full, roomAt_free s (countAddr i) waits held]
/-- No word is held, nor waited for, and the count words in question are available. -/
theorem met_KeyValuePages_counts (tier : Nat) (h : tier = 1 ∨ tier = 2) (s : State) (hs : s = paged tier none) :
    Memory.wf s.mem = true ∧ s.wordErrors = [] ∧ (∀ q ∈ s.marks, q.2.hold = none) ∧ s.waiters = [] ∧
      (∀ who, s.countAvail who (entRci (s.entry (s.rootOf 2) 0 0)) = true) ∧
      (∀ i ∈ s.unshared (s.rootOf 2), s.countAvail evictWho i = true) := by
  have facts : Memory.wf s.mem = true ∧ s.wordErrors = [] ∧ (∀ q ∈ s.marks, q.2.hold = none) ∧ s.waiters = [] ∧
      (s.wordMeta (countAddr (entRci (s.entry (s.rootOf 2) 0 0)))).full = true ∧
      ∀ i ∈ s.unshared (s.rootOf 2), (s.wordMeta (countAddr i)).full = true := by
    subst hs
    rcases h with rfl | rfl <;> decide +kernel
  obtain ⟨wf, clean, held, waits, full, each⟩ := facts
  exact ⟨wf, clean, held, waits, fun who => countAvail_free s who _ waits held full,
    fun i hi => countAvail_free s _ _ waits held (each i hi)⟩
theorem met_KeyValuePages_move (tier : Nat) (h : tier = 1 ∨ tier = 2) :
    let s := paged tier none
    2 < s.recCount ∧ s.rget 2 rState ≠ 0 ∧ 0 < dirLayers (s.dir (s.rootOf 2)) ∧
      s.pinned (entLoc (s.entry (s.rootOf 2) 0 0)) (rawSize (s.dir (s.rootOf 2))) = false ∧
      entTier (s.entry (s.rootOf 2) 0 0) = tier ∧ s.count (entRci (s.entry (s.rootOf 2) 0 0)) = 1 ∧ s.chandler.holds = [] ∧
      s.lpddrRoom = some 8192 ∧ s.inOpenStep 2 = false := by
  rcases h with rfl | rfl <;> decide +kernel
theorem met_KeyValuePages_room : (paged 2 none).anyHbm = some (hbmPlace 0 0) := by
  have kv : (paged 2 none).chandler.kvRaw = [] := rfl
  simp [State.anyHbm, List.range_succ, hbmRoom_first _ _ kv]
theorem met_KeyValuePages_promoted :
    let s := (paged 1 none).rset 2 rState 4
    s.rget 2 rState = 4 ∧ s.demoted (s.rootOf 2) = none ∧
      [ResHold.mk 1 2 3 0].any (fun h => h.bind == 1 && h.left == 0) = true := by decide +kernel
/-- Every place of every die is taken, and the port of district 17 stores a block that is not there. -/
def crowded : State :=
  let s := paged 1 (some (kvRun (kvRec 1 1 true) none))
  modCh (fun c => { c with kvRaw := (List.range (Config.kvBlocks 1 + 1)).map (fun j => (entLoc (mkEntry 1 0 0 (hbmPlace 1 j)), ([], []))) }) s
theorem mget_listed {α β : Type} (f : α → Nat) (v : β) (l : List α) (x : α) (h : x ∈ l) : (mget (l.map (fun x => (f x, v))) (f x)).isSome = true := by
  induction l with
  | nil => cases h
  | cons y r ih =>
    simp only [List.map_cons, mget]
    split
    · rfl
    · rcases List.mem_cons.mp h with rfl | h
      · contradiction
      · exact ih h
theorem met_KeyValuePages_eviction : crowded.taken = [2] ∧ crowded.roomNeeded = true := by
  refine ⟨by decide +kernel, ?_⟩
  have full : crowded.hbmRoom (17 / 16) = none := by
    simp only [State.hbmRoom, Option.map_eq_none_iff, lowest_none]
    intro j hj
    simp only [State.locUsed, Bool.not_eq_false']
    exact mget_listed (fun j => entLoc (mkEntry 1 0 0 (hbmPlace 1 j))) _ _ j (List.mem_range.mpr hj)
  have here : (17, { District.reset with kv := some (kvRun (kvRec 1 1 true) none) }) ∈ crowded.districts := by decide
  have command : crowded.kvCommand 17 = some (kvRec 1 1 true) := by decide
  have stores : crowded.kvStores 17 (kvRec 1 1 true) = true := by decide +kernel
  have fresh : crowded.kvFresh (crowded.entry (kvRoot (kvRec 1 1 true)) (kvLayer (kvRec 1 1 true)) (kvBlk (kvRec 1 1 true))) = true := by
    decide +kernel
  simp only [State.roomNeeded, Bool.or_eq_true, List.any_eq_true]
  exact .inl ⟨_, here, by rw [command]; dsimp only; rw [stores, fresh, full]; rfl⟩
theorem met_KeyValuePages_port :
    let w := kvRec 1 0 true
    let at1 (tier op : Nat) := paged tier (some (kvRun (kvRec op 0 true) none))
    (∀ tier ∈ [0, 1, 2], ∀ op ∈ [0, 1], entTier ((at1 tier op).entry (kvRoot w) (kvLayer w) (kvBlk w)) = tier ∧
      (at1 tier op).kvBad (kvRec op 0 true) = false ∧ kvOp (kvRec op 0 true) = op ∧
      ((at1 tier op).district 17).kv = some (kvRun (kvRec op 0 true) none)) ∧ ((at1 1 1).district 17).kvMarked = false ∧ (at1 1 1).waiters = [] ∧
      (at1 1 1).kvFresh ((at1 1 1).entry (kvRoot w) (kvLayer w) (kvBlk w)) = false := by
  decide +kernel
theorem lowest_first (n : Nat) (p : Nat → Bool) (h : p 0 = true) : lowest (n + 1) p = some 0 := by simp [lowest, lowestFrom, h]
theorem met_KeyValuePages_newCount (s : State) (hs : s = paged 0 (some (kvRun (kvRec 1 0 true) none))) :
    s.newCount (portWho 17) = some 0 := by
  have facts : (∀ q ∈ s.marks, q.2.hold = none) ∧ s.waiters = [] ∧ (s.wordMeta (countAddr 0)).full = true ∧ s.count 0 = 0 := by
    subst hs
    decide +kernel
  obtain ⟨held, waits, full, none⟩ := facts
  exact lowest_first 1048575 _ (by simp [none, countAvail_free s _ 0 waits held full])
theorem met_KeyValuePages_place : (paged 0 (some (kvRun (kvRec 1 0 true) none))).hbmRoom (17 / 16) = some (hbmPlace 1 0) :=
  hbmRoom_first _ _ rfl
theorem met_KeyValuePages_done :
    let w := kvRec 1 0 true
    let s := paged 1 (some (kvRun w (some 3)))
    bit (wordAt w 3) 63 = true ∧ bit (wordAt (kvRec 1 0 false) 3) 63 = false ∧ (s.district 17).kv = some (kvRun w (some 3)) ∧
      s.waitersAt (sramBaseOf 17 + fld (wordAt w 3) 21 3 * 8) = [] ∧
      s.wordMeta (sramBaseOf 17 + fld (wordAt w 3) 21 3 * 8) = ⟨false, false, none, none, 0⟩ := by decide +kernel
/-- A kick whose record keeps none of the rules of R327 waits at the port. -/
theorem met_KeyValuePages_kick :
    let s := ((paged 1 none).writeWord (kickAddr 17) 0x60).setMeta (kickAddr 17) ⟨true, false, none, none, 0⟩
    s.waitingKick 17 = some 0x60 ∧ (s.district 17).kvMarked = false ∧ s.kvBad (s.kvRecord 17 0x60) = true ∧
      s.waitersAt (kickAddr 17) = [] := by decide +kernel
/-- The kick of a fetch or a store of block 0 waits at the port, the block in each tier. -/
def kicked (tier op : Nat) : State :=
  let s := ((kvRec op 0 true).zipIdx.foldl (fun s p => s.writeWord (sramBaseOf 17 + 0x60 + 8 * p.2) p.1) (paged tier none))
  (s.writeWord (kickAddr 17) 0x60).setMeta (kickAddr 17) ⟨true, false, none, none, 0⟩
theorem met_KeyValuePages_goodKick : ∀ tier ∈ [0, 1, 2], ∀ op ∈ [0, 1],
    let s := kicked tier op
    let w := s.kvRecord 17 0x60
    s.waitingKick 17 = some 0x60 ∧ w = kvRec op 0 true ∧ (s.district 17).kvMarked = false ∧ s.waiters = [] ∧
      (s.wordMeta (kickAddr 17)).hold = none ∧ (s.wordMeta (kickAddr 17)).holdRec = none ∧ s.kvBad w = false ∧ kvOp w = op ∧
      entTier (s.entry (kvRoot w) (kvLayer w) (kvBlk w)) = tier ∧ (tier = 1 → s.kvFresh (s.entry (kvRoot w) (kvLayer w) (kvBlk w)) = false) ∧
      (∀ q ∈ s.marks, q.2.hold = none) ∧ Memory.wf s.mem = true ∧
      (s.wordMeta (countAddr (entRci (s.entry (kvRoot w) (kvLayer w) (kvBlk w))))).full = true := by decide +kernel

/-! ## States that meet the hypotheses: the host, links, management, faults -/

/-- A host window of the district banks, with a request at its port. -/
def hosted (r : HostReq) (s : State) : State :=
  { s with host := { s.host with requests := [r], trained := true, hwseg := s.host.hwseg.set 0 0xF000000000001 } }
def view (n : Nat) : Nat := n * 2 ^ 41 + 0x800100
/-- A request of each row of R378, with its view, and the word's state before it. -/
def hostRequests : List (HostReq × Nat × Nat × Nat × State) := [
  (.read (view 0) 8, 0, view 0, 0, filled), (.write (view 0) 8 77, 1, view 0, 77, filled), (.read (view 1) 8, 2, view 1, 0, filled),
  (.write (view 1) 8 77, 3, view 1, 77, emptied), (.read (view 2) 8, 4, view 2, 0, filled), (.write (view 2) 8 1, 5, view 2, 1, filled),
  (.write (view 2) 8 2, 6, view 2, 2, filled), (.write (view 2) 8 0, 7, view 2, 0, filled)]
theorem met_HostRequests (k : Fin 8) :
    let p := hostRequests[k]
    let s := hosted p.1 p.2.2.2.2
    let off := p.2.2.1
    Memory.wf s.mem = true ∧ s.postedBy (.host 0) (fun _ => true) = false ∧ s.host.requests = [p.1] ∧ s.host.trained = true ∧ s.power = .glow ∧ p.1.parts = (off, 8, p.2.2.2.1) ∧
      min 8 (8 - off % 8) = 8 ∧ s.wordErrors = [] ∧ isKick aword = false ∧ bits off 41 2 ≠ 3 ∧ bit (s.host.hwseg.toList.getD (bits off 36 5) 0) 0 = true ∧ s.hostPa off = aword ∧
      hasMeta aword = true ∧ aword % 8 = off % 8 ∧ s.wayBlocked aword = none ∧ mget s.wordErrors aword = none ∧ s.waitersAt aword = [] ∧
      (s.wordMeta aword).holdRec = none ∧ (s.wordMeta aword).hold = none ∧ p.1.row = p.2.1 := by
  fin_cases k <;> decide
/-- The state view of a word that is held, and that a thread waits for. -/
theorem met_HostRequests_view :
    let s := hosted (.read (view 2) 8) { emptied.setMeta aword ⟨false, false, some (.thread ⟨1, 0, 0⟩), none, 0⟩ with
      waiters := [(aword, [⟨access .ldw aword 8 0, 7, none⟩])] }
    Memory.wf s.mem = true ∧ s.wordErrors = [] ∧ s.postedBy (.host 0) (fun _ => true) = false ∧ s.host.requests = [.read (view 2) 8] ∧
      s.hostPa (view 2) = aword ∧ (HostReq.read (view 2) 8).row = 4 ∧ (s.wordMeta aword).hold.isSome = true ∧ s.waitersAt aword ≠ [] ∧
      (after (exec .hostStateRead s)).host.answer = [(12, false)] := by decide
/-- A write of 12 bytes takes two words. -/
theorem met_HostRequests_long : let q : HostReq := .write (view 0) 12 (2 ^ 64 + 77)
    min 12 (8 - view 0 % 8) = 8 ∧ q.row = 1 ∧ q.after 8 = .write (view 0 + 8) 4 1 := by decide
/-- Bits 13:12 of a state write pick its row: FEST 0, FEST 1, or nothing. -/
theorem met_HostRequests_state : (emptied.wordMeta aword).full = false := by decide
/-- Port 2 with a window of one segment over the tables of `withTables`. -/
def port (ctl : Word) (up : Bool) : Port := ⟨up, 0x1000000, 0x1000000, 0x100, ctl, [], none⟩
def linked (ctl : Word) (up : Bool) : State :=
  let s := withTables State.reset
  { s with ports := s.ports.set 2 (port ctl up), host := { s.host with trained := up } }
theorem met_LinksAndPeers_links : (linked 1 false).power ≠ .dark ∧ (linked 1 false).host.trained = false ∧ (linked 1 false).portUp 2 = false ∧
    (linked 1 true).host.trained = true ∧ (linked 1 true).portUp 2 = true := by decide
theorem met_LinksAndPeers_refused :
    let a := access .ld (peerBase + 0x100) 8 0
    (sent (.access a) State.reset).msg? 7 = some (.access a) ∧ regionOf a.pa = .peer 0 ∧ a.posted = false := by decide
/-- A posted access of a thread; and one that waits at the peer's word. -/
theorem met_LinksAndPeers_waiting :
    let a := { access .st (peerBase + 0x100) 8 0 with posted := true }
    let b := access .ldw (peerBase + 0x100) 8 0
    let s : State := { State.reset with waiters := [(peerBase + 0x100, [⟨b, 7, none⟩])] }
    (sent (.access a) State.reset).msg? 7 = some (.access a) ∧ a.who = .thread ⟨0, 0, 0⟩ ∧ s.msg? 7 = none ∧
      regionOf (peerBase + 0x100) = .peer 0 ∧ b.posted = false := by decide
/-- The window off; a segment past its limit; an unmapped address; a misaligned one; and one that reaches its word. -/
theorem met_LinksAndPeers_window :
    let s := linked 1 true
    let va (off : Nat) : Word := (port 1 true).pwbase + BitVec.ofNat 64 off
    s.ports[2] = port 1 true ∧ (port 1 true).up = true ∧ s.power = .glow ∧ bit (port 0 true).pwctl 0 = false ∧ bit (port 1 true).pwctl 0 = true ∧
      fld (port 1 true).pwlim 55 16 < (va 0x10000).toNat / 65536 ∧ (va 8).toNat / 65536 ≤ fld (port 1 true).pwlim 55 16 ∧
      (s.windowAddr (port 1 true) .load (va 8)).toOption = some 0x50008 ∧ (va 8).toNat % 8 = 0 ∧ hasMeta 0x50008 = true ∧
      s.wayBlocked 0x50008 = none ∧ mget s.wordErrors 0x50008 = none ∧ (s.windowAddr (port 1 true) .load (va 9)).toOption = some 0x50009 ∧
      (va 9).toNat % 8 ≠ 0 ∧
      ({ State.reset with ports := s.ports }.windowAddr (port 1 true) .load (va 8)).toOption = none := by decide +kernel
/-- The window open to every view, at a full and at an empty word, and to loads alone. -/
theorem met_LinksAndPeers_views : ∀ full ∈ [true, false],
    let s := (linked 0xF true).setMeta 0x50008 ⟨full, false, none, none, 0⟩
    s.ports[2] = port 0xF true ∧ (∀ i ∈ [0, 1, 2, 3], bit (port 0xF true).pwctl i = true) ∧ (∀ i ∈ [1, 2, 3], bit (port 1 true).pwctl i = false) ∧
      (s.windowAddr (port 0xF true) .load 0x1000008).toOption = some 0x50008 ∧
      (s.windowAddr (port 0xF true) .store 0x1000008).toOption = some 0x50008 ∧ hasMeta 0x50008 = true ∧ isKick 0x50008 = false ∧
      s.wayBlocked 0x50008 = none ∧ s.waitersAt 0x50008 = [] ∧ s.wordMeta 0x50008 = ⟨full, false, none, none, 0⟩ ∧ s.wordErrors = [] ∧
      s.holders = [] := by decide +kernel
theorem met_LinksAndPeers_room : ((linked 0xF true).setMeta 0x50008 ⟨true, false, none, none, 0⟩).roomAt 0x50008 true = .table :=
  roomAt_free _ _ (by rfl) (by decide +kernel)
/-- A command in the mailbox, with a payload of 64 bytes. -/
def commanded (op : Nat) (ext : Bool) (ws : List Word) (p : Power) : State :=
  let s := State.reset
  { s with
    power := p
    mgmt := { s.mgmt with
      cmd := place 1 63 ||| place (b2n ext) 62 ||| place 64 32 ||| place op 0
      recovery := false
      sts := place 1 63 ||| 5, payload := ws ++ List.replicate (128 - ws.length) 0 }
    host := { s.host with trained := true } }
/-- POWER to each state, from where it may go and from where not; CHANDLER's three forms; and the others. -/
def commands : List (Nat × Bool × Word × Word × Power) := [
  (1, false, 3, 0, .ember), (1, false, 3, 0, .glow), (1, false, 2, 0, .glow), (1, false, 0, 0, .dim), (1, false, 1, 0, .glow),
  (2, false, 0x50000, 0, .glow), (2, true, 0, 1, .glow), (2, true, 0, 2, .glow), (3, false, 0, 0, .glow), (4, false, 0, 0, .glow),
  (5, false, 0, 0, .glow), (6, false, 0, 64, .glow), (7, false, 0, 0, .glow), (0, false, 0, 0, .glow), (8, false, 0, 0, .glow)]
theorem met_ManagementCommands : commands.all (fun p =>
    let s := commanded p.1 p.2.1 [p.2.2.1, p.2.2.2.1] p.2.2.2.2
    s.mgmt.busy && !s.mgmt.recovery && decide (fld s.mgmt.cmd 47 32 ≤ 1024) && decide (fld s.mgmt.cmd 15 0 = p.1) &&
      bit s.mgmt.cmd 62 == p.2.1 && s.mgmt.word 0 == p.2.2.1 && s.mgmt.word 1 == p.2.2.2.1 && decide (s.power = p.2.2.2.2) &&
      s.mgmt.powering.isNone && s.host.trained) = true := by decide +kernel
/-- EMBER is allowed when no launch is live; a launch forbids it. A configuration that keeps its limits, and none. -/
theorem met_ManagementCommands_states : (commanded 1 false [2] .glow).quietForEmber = true ∧
    ({ commanded 1 false [2] .glow with launches := [(0, launch [])] } : State).quietForEmber = false ∧ (commanded 2 false [0] .glow).configure 0x50004 = none ∧
    (((List.range 7).foldl (fun s i => s.writeWord (0x50000 + 8 * i) ([0x800000, 4, 0x1000400, 4, 0x100, 0x1000800, 2].getD i 0))
      (commanded 2 false [0x50000] .glow)).configure 0x50000).isSome = true := by decide +kernel
/-- Whatever the images, one of the two clauses of FWSTAGE is met. -/
theorem met_ManagementCommands_images (l : List Byte) : imagesOk l = true ∨ imagesOk l = false := by
  cases imagesOk l <;> simp
/-- The basic form names no DIV and no REFILL; the expert form keeps their ranges, or does not. -/
theorem met_ManagementCommands_expert : (commanded 1 false [2] .glow).mgmt.idlePower = true ∧
    (commanded 1 true [2, 1, 0x1000] .glow).mgmt.idlePower = true ∧
    ∀ w ∈ [[2, 0, 0x1000], [3, 9, 0x1000], [2, 1, 63], [3, 1, 0x10000]], let m := (commanded 1 true w .glow).mgmt
      m.busy = true ∧ m.recovery = false ∧ bit m.cmd 62 = true ∧
        (m.word 1 = 0 ∨ 8 < (m.word 1).toNat ∨ (m.word 2).toNat < 64 ∨ 0xFFFF < (m.word 2).toNat) := by decide
theorem met_ManagementCommands_bar : (0x1008 : Nat) = 0x1000 + 8 * (1 : Fin 32).val ∧ (0x1008 : Nat) % 8 = 0 ∧
    ({ State.reset with host := { State.reset.host with trained := true } } : State).mgmt.busy = false := by decide
/-- A copy of two chunks on its way, of a launch of row 3 or of none. -/
def copying (step : Option (Nat × Nat)) : State :=
  let s := State.reset.setCluster 0 { Cluster.reset with
    copy := ⟨[], some { running copy1 4096 false with
      reads := [(scratchBase 0 / 4096, (0, 0))]
      cmd := { copy1 with
        spa := scratchBase 0
        dpa := scratchBase 0 + 0x2000
        src := 0x100000
        dest := 0x102000
        count := 8192
        launch := launchWord
        chkid := place 4 19 } }, 3, false⟩ }
  { s with
    launches := [(0, { launch [] with step := step })]
    chandler := { s.chandler with binds := [(0, openStep [])] } }
theorem met_FaultHandling_chunk :
    (∀ hop ∈ [0, 1, 2, 3, 4], ((copying none).transferOf hop (4096 * (scratchBase 0 / 4096))).isSome = true) ∧
    ((copying none).transferOf 4 (4096 * (scratchBase 0 / 4096))).map (fun t => (t.eng, t.launch, t.rowp)) = some (0, launchWord, 4) ∧
    (copying none).launchOf launchWord = some (launch []) ∧ (launch []).step = none ∧ (launch []).fmbx = 0 := by decide
/-- The launch of a step of binding 0, which is open. -/
theorem met_FaultHandling_flare : let s := copying (some (0, 6))
    s.launchOf launchWord = some { launch [] with step := some (0, 6) } ∧ s.bind 0 = some (openStep []) ∧ (openStep []).isOpen = true ∧
      (openStep []).stepseq.toNat = 6 ∧ (openStep []).reex = false := by decide
/-- A block that the page engine moved. -/
theorem met_FaultHandling_move :
    let s : State := modCh (fun c => { c with lastMove := some (0x40000000, 0x40010000, 4096) }) State.reset
    (s.transferOf 0 (4096 * (0x40000000 / 4096))).map (fun t => t.eng) = some 4224 := by decide
/-- The residue tree of cluster 0 at a K-block of an MMA. -/
theorem met_FaultHandling_residue :
    let r : MatRun := ⟨multiply, 0, true, false, [], [], 0, none⟩
    (BitVec.ofNat 32 (7 * 2 ^ 28)).toNat = 7 * 2 ^ 28 + 0 ∧ ((tiled (some r) []).cluster 0).mat.run = some r ∧ r.cmd.fn = 0 ∧
      r.consumed = true ∧ r.finished = false := by decide
/-- Region 3: clusters at columns 0 and 1 of rows 0 and 1, fenced by an exception in it. -/
def region : Snuff := ⟨0, 0, 1, 1, true, true, false⟩
theorem met_FaultHandling_fence : ({ State.reset with snuffs := State.reset.snuffs.set 3 region } : State).snuffs.toList[3]? = some region ∧
    region.en = true ∧ region.auto = true ∧ region.fenced = false ∧ State.reset.flight = [] := by decide
/-- A fault mailbox of a CAP. -/
def mailed : FmbxRec := ⟨0x1000008, 0x100, true, ⟨0, 0, 0⟩, 3, Vector.replicate 8 0⟩
def mailing (cap : Word) : State := { (withTables State.reset).writeWord 0x50010 cap with fmbxQueue := [mailed] }
theorem met_FaultHandling_mailbox (cap : Word) (h : cap = 2000 ∨ cap = 512) :
    (mailing cap).fmbxQueue = [mailed] ∧
      (let s0 : State := { mailing cap with fmbxQueue := [] }
      (s0.fmbxLoad mailed (mailed.addr + 8)).1 = .value 0x50010 cap ∧
        ((s0.fmbxLoad mailed (mailed.addr + 8)).2.fmbxLoad mailed mailed.addr).1 = .value 0x50008 0) := by
  rcases h with rfl | rfl <;> decide +kernel
/-- The place of a good mailbox is full, or empty; every store of the offer has its right. -/
theorem met_FaultHandling_place :
    let u : State := { mailing 512 with fmbxQueue := [] }
    let place : Word := mailed.addr + 64 + BitVec.ofNat 64 (64 * ((0 : Word).toNat % 512))
    (u.fmbxWord mailed .load place).1 = some 0x50048 ∧ hasMeta 0x50048 = true ∧ (u.wordMeta 0x50048).full = true ∧
      ((u.setMeta 0x50048 ⟨false, false, none, none, 0⟩).wordMeta 0x50048).full = false ∧
      (u.fmbxLoad mailed (mailed.addr + 16)).1 = .value 0x50018 0 ∧ u.wordErrors = [] ∧ (u.fmbxStores mailed (fmbxOffer mailed place 0 0 true)).1 = true ∧
      ((u.setMeta 0x50048 ⟨false, false, none, none, 0⟩).fmbxStores mailed (fmbxOffer mailed place 0 0 false)).1 = true := by
  decide +kernel
/-- A launch whose stacks lie at 0x1040000, and a page fault in one of them whose page is mapped. -/
def growing : Launch := { launch [] with words := [0, 0x84421, 0, 0, 0, 0, 0x1040000, 0x40000], space := 0x100, lgen := 3 }
def growth : Record := #v[place 1 60 ||| place 0x20 52, 0, 0x1020000, 0, growing.word 5, 0, 0, 0]
def grown : State :=
  ({ withTables State.reset with launches := [(5, growing)] }.writeWord 0x500010 0xB800000000050000).setCore svcBase { Core.reset with mailbox := [growth] }
theorem met_FaultHandling_stack : (grown.core svcBase).mailbox = [growth] ∧ grown.growRecord growth = some (growing, 0x1000000) ∧
    (0x1000000 : Int) + 0x10000 ≤ growth[2].toNat ∧ grown.wordErrors = [] ∧ fld growing.space 39 0 ≠ 0 ∧ (grown.walk growing.space growth[2].toNat).toOption.isSome = true := by
  decide +kernel

/-! ## States that meet the hypotheses: a turn, a bundle, frames, encodings -/

/-- ADDI g5, g1, 3 beside NOP (R11, R73), at address 0x40 of core 0's own memory; the turn of its thread 0 is next. -/
def turning : State :=
  { (State.reset.setThread 0 { regs [(1, 7)] thread with pc := 0x40 }).writeN (tcmBase 0 + 0x40) 8 0x04508018 with agenda := [.turn 0 0] }
theorem met_StepRunsTheBundle :
    let s := turning
    let th := { regs [(1, 7)] thread with pc := 0x40 }
    s.power = .glow ∧ s.agenda = .turn 0 0 :: [] ∧ s.thread (tid 0 0) = some th ∧ th.woke ≠ s.cycle + 1 ∧ th.run = .run ∧ th.pend = [] ∧ th.hold = false ∧
      th.stopq = false ∧ th.ahead = [] ∧ (s.core 0).starved.getLsbD 0 = false ∧ isPeer (tcmBase 0 + 0x40) = false ∧ th.rep.act = false ∧ th.rep.cap = false ∧
      s.translate 0 0 th.space th.priv .fetch th.pc = .ok (tcmBase 0 + 0x40) ∧ s.wayBlocked (tcmBase 0 + 0x40) = none ∧
      mget s.wordErrors (wordOfAddr (tcmBase 0 + 0x40)) = none ∧ s.isPoisonAt (tcmBase 0 + 0x40) = false ∧
      (decodeBundle (isSvc 0) (s.busWord (wordOfAddr (tcmBase 0 + 0x40)))).toOption
        = some ⟨.addi 5 1 ⟨none, 3⟩ 0, .nopV, none, 0x04508018, 0⟩ ∧
      repBad th.rep .nopV = false ∧ vCharge .nopV th.vl.toNat ≤ (s.core 0).balance.toNat := by decide
theorem met_StepRunsTheBundle_exec : (∃ t, exec (.addi 5 1 ⟨none, 3⟩ 0) (at' [(1, 7)]) = .next t) ∧ (∃ t, exec .nopV (at' [(1, 7)]) = .next t) ∧
    (at' [(1, 7)]).iss.stopped = false ∧ (after (exec (.jmpr 1 0) (at' [(1, 7)]))).iss.stopped = true := ⟨⟨_, rfl⟩, ⟨_, rfl⟩, by decide, by decide⟩
/-- A thread in replay at its last captured instruction, of its last iteration. -/
def replaying : State := issuing { thread with rep := ⟨1, 0, 0, 1, 1, 1, true, false, [0x0D532A60]⟩ }
theorem met_CommitAndReplay : (at' []).iss.live.pend = [] ∧ (at' []).iss.live.exiting = false ∧ (at' []).iss.snap.prepaid = false ∧ (at' []).wordErrors = [] ∧
    replaying.iss.active = true ∧ replaying.iss.snap.rep.act = true ∧ replaying.iss.snap.rep.code[replaying.iss.snap.rep.pos]? = some 0x0D532A60 ∧
    (decodeV 0x0D532A60).toOption = some (.vadd 21 9 18 .f32 .rup) ∧ replaying.iss.live.rep.pos + 1 = replaying.iss.live.rep.code.length ∧
    replaying.iss.live.rep.iter.toNat + 1 = replaying.iss.live.rep.count.toNat := by decide
theorem met_StepRunsTheEvent : (∃ t, exec .moduleReset { State.reset with agenda := [] } = .next t) ∧
    exec .hostPlainRead { State.reset with agenda := [] } = .refused .notPending ∧ State.reset.agenda = [] ∧ State.reset.power = .glow :=
  ⟨⟨_, rfl⟩, rfl, rfl, rfl⟩
/-- A program whose next word is HALT, its fetch over. -/
theorem met_StepRunsTheEvent_program :
    let w : PWord := ⟨0x1000000, 0x0100000000000000, .waiting, none, 0, [], []⟩
    let s := agent { program [] with words := [w] }
    (s.programTurn 0).1 = some w ∧ w.fault = none ∧ (decodeF w.bits.toNat).toOption = some .halt := by decide +kernel
theorem met_StepRunsTheEvent_halt : ∃ t, exec .halt (agent { program [] with words := [⟨0x1000000, 0x0100000000000000, .waiting, none, 0, [], []⟩] }) = .next t :=
  ⟨_, rfl⟩
/-- The guard p2 reads false; register 1 is absent. -/
theorem met_GuardsAndPresence : (Instr.addi 5 1 ⟨none, 3⟩ 2).wf = true ∧ encode (.addi 5 1 ⟨none, 3⟩ 2) = some (.a 0x0450801A none) ∧
    (Instr.addi 5 1 ⟨none, 3⟩ 2).isSig = false ∧ (at' []).iss.snap.predAt (oct (0x0450801A : BitVec 32).toNat 0) = false ∧
    (issuing { thread with present := 0xFFFFFFFD }).iss.snap.predAt 0 = true ∧
    (issuing { thread with present := 0xFFFFFFFD }).iss.snap.isPresent 1 = false ∧
    (∀ q ∈ [(2 : Reg), 3], (issuing { thread with present := 0xFFFFFFFD }).iss.snap.isPresent q = true) ∧
    (issuing { thread with present := 0xEFFFFFFF }).iss.snap.isPresent 28 = false := by decide
/-- The state beside which the two frames are met, and the encodings. -/
theorem met_frames : (Instr.addi 5 1 ⟨none, 3⟩ 0).wf = true ∧ encode (.addi 5 1 ⟨none, 3⟩ 0) = some (.a 0x04508018 none) ∧
    (at' [(1, 7)]).wordErrors = [] ∧ (at' [(1, 7)]).iss.live = (at' [(1, 7)]).iss.snap ∧ (Instr.addi 5 1 ⟨none, 3⟩ 0).gdest ≠ some 6 ∧
    (∀ w, Enc.a 0x04508018 none ≠ .f w) := ⟨by decide, by decide, by decide, by decide, by decide, nofun⟩
theorem met_SlotFrame : encode .nopV = some (.v 0) ∧ ∃ t, exec (.addi 5 1 ⟨none, 3⟩ 0) (at' [(1, 7)]) = .next t := ⟨by decide, _, rfl⟩
theorem met_RegisterFrame : encode (.arm 6 0) ≠ none ∧ ∃ t, exec (.arm 6 0) (at' [(1, 7)]) = .next t := ⟨by decide, _, rfl⟩
theorem met_DecodeOfEncode : Instr.wf .halt = true ∧ encode .halt = some (.f 0x0100000000000000) ∧ Instr.wf .nopV = true ∧
    encode .nopV = some (.v 0) := by decide
theorem met_EncodeOfDecode : (decodeA (0x04508018 : BitVec 32).toNat none).toOption = some (.addi 5 1 ⟨none, 3⟩ 0) ∧
    (Instr.addi 5 1 ⟨none, 3⟩ 0).takesExt = true ∧ (decodeV (0x0D532A60 : BitVec 32).toNat).toOption = some (.vadd 21 9 18 .f32 .rup) ∧
    extOf (0x0D532A60 : BitVec 32).toNat = none ∧ (decodeF (0x0100000000000000 : BitVec 64).toNat).toOption = some .halt := by decide
theorem met_StepsKeepMemoryCanonical : State.reset.memoryCanonical ∧ (∃ t, step State.reset = .next t) := ⟨rfl, _, rfl⟩

end Sys2Proof.Tests
end

namespace Sys2Proof.Machine

/-! ## Reset -/

/-- A district's kick word lies in its control page, at the kick register's offset (R144, R327). -/
theorem regionOf_kickAddr {d : Nat} (h : d < 128) : regionOf (kickAddr d) = .districtCtl d kvkickOff := by
  have district : (kickAddr d - sramBase) / 0x800000 = d := by unfold kickAddr districtCtlBase kvkickOff; omega
  have offset : (kickAddr d - sramBase) % 0x800000 = 0x400100 := by unfold kickAddr districtCtlBase kvkickOff; omega
  have low : sramBase ≤ kickAddr d := by unfold kickAddr districtCtlBase; omega
  have high : kickAddr d < clusterBase := by unfold kickAddr districtCtlBase kvkickOff sramBase clusterBase; omega
  have top : clusterBase ≤ 2 ^ 52 := by decide
  simp only [regionOf, if_neg (show ¬ 2 ^ 52 ≤ kickAddr d by omega), if_neg (show ¬ clusterBase ≤ kickAddr d by omega), if_pos low,
    district, offset, if_neg (show ¬ 128 ≤ d by omega)]
  rfl

/-- A word outside the districts' control pages is full, unpoisoned and free by default (R147). -/
theorem metaDefault_of_not_districtCtl {w : Nat} (h : ∀ d o, regionOf w ≠ .districtCtl d o) :
    metaDefault w = ⟨true, false, none, none, 0⟩ := by
  rw [metaDefault]
  cases hr : regionOf w with
  | districtCtl d o => exact absurd hr (h d o)
  | hbm | lpddr | host | peer | sram | scratch | tcm | clusterCtl | absent => rfl
theorem metaDefault_kickAddr {d : Nat} (h : d < 128) : (metaDefault (kickAddr d)).full = false := by
  rw [metaDefault, regionOf_kickAddr h]
  rfl

/-- After reset no map lists a cluster or a word. -/
theorem reset_cluster (c : Nat) : State.reset.cluster c = Cluster.reset := rfl
theorem reset_wordMeta (w : Nat) : State.reset.wordMeta w = metaDefault w := rfl

theorem Core.reset_guards_ne_zero (i : Fin 8) (h : i.val ≠ 0) : Core.reset.guards[i] = 0 := by
  revert i; decide
theorem reset_segWord (c n : Nat) (h : n < 16) : State.reset.segWord c n = 0 := by
  rw [State.segWord, reset_cluster]
  revert n; decide

/-- Settles O60: no map of the reset state lists a unit, so each is as its own `reset` says. -/
theorem resetState : Obligations.ResetState := by
  unfold Obligations.ResetState
  refine ⟨Memory.wf_reset, fun a => rfl, fun w h => ?_, fun d h => ?_, rfl, rfl, rfl, rfl, rfl, rfl, rfl, fun c => ?_, fun c => ?_⟩
  · rw [reset_wordMeta, metaDefault_of_not_districtCtl h]
  · rw [reset_wordMeta, metaDefault_kickAddr h]
  · exact ⟨rfl, rfl, rfl, rfl, rfl, Core.reset_guards_ne_zero, rfl⟩
  · exact ⟨rfl, rfl, rfl, reset_segWord c⟩

/-! ## No grant (R27) -/

/-- The no-grant fault of the issuing instruction. -/
def noGrant (s : State) : Trap := { cause := 0x14, detail := s.iss.word.toNat / 2 ^ 27, va := s.iss.bundle }
/-- With GRANT 0 the body does not run: the no-grant fault is taken. -/
theorem granted_none {s : State} {f : State → State} (h : s.iss.snap.grant = 0) : granted f s = trap (noGrant s) s := if_pos h

/-- Settles O12: each instruction with a charge per lane group runs under `granted`; the others cost 0. -/
theorem noGrantFault : Obligations.NoGrantFault := by
  unfold Obligations.NoGrantFault
  intro i s cost none
  have fault {f : State → State} : (.next (granted f s) : Out) = .next (trap (noGrant s) s) := congrArg _ (granted_none none)
  have element {late : Bool} {d : VReg} {t : Ty} {n : Thread → Nat} {f : Thread → Nat → ElemRes} :
      (.next (vecOp late d t n f s) : Out) = .next (trap (noGrant s) s) := fault
  cases i with
  | vadd | vsub | vmul | vmin | vmax | vabs | vneg | vfma3 | vfma4 | vdiv | vsqrt | vrcp | vrsq | vexp2 | vlog2 | vtanh | vand
  | vor | vxor | vshl | vshr | vshra | vcmp | vsel | vperm => exact element
  | vbcast | vext | vcvt | vredadd | vredmax | vargmax | vld | vst | vgather | vscatter => exact fault
  | _ => exact absurd rfl cost

/-! ## Control registers (R29 to R45, R116) -/

/-- Guard true, sources present: the body of CRW and CRX runs with its own checks. -/
theorem cregGuarded_writes {s : State} {c : Creg} {a : Reg} {f : State → State} (may : s.iss.snap.priv = true ∨ cregSup c = false)
    (clean : s.iss.snap.isPoisoned a = false) : cregGuarded c a f s = f s := by
  have ok : (cregSup c && !isSup s) = false := by
    rcases may with priv | free
    · simp [isSup, priv]
    · simp [free]
  rw [cregGuarded, ok, if_neg Bool.false_ne_true, clean_clean (by simpa using clean)]
/-- A user's write of a supervisor's register is refused (R116). -/
theorem cregGuarded_refused {s : State} {c : Creg} {a : Reg} {f : State → State} (user : s.iss.snap.priv = false)
    (sup : cregSup c = true) : cregGuarded c a f s = trap { cause := 0x12, detail := c.code } s := by
  simp [cregGuarded, isSup, user, sup]

theorem execCrr_ready {s : State} {d : Reg} {c : Creg} {g : PReg} (h : s.iss.snap.predAt g = true) :
    exec (.crr d c g) s = .next (writeReg d (cregRead s s.iss.snap c) false s) := congrArg _ (guarded_true h)
theorem execCrw_ready {s : State} {c : Creg} {a : Reg} {g : PReg} (h : s.ready g [a]) :
    exec (.crw c a g) s = .next (cregGuarded c a (fun s => cregWrite c (s.iss.snap.reg a) s) s) :=
  congrArg _ ((guarded_ready h).trans (needs_ready h))
theorem execCrx_ready {s : State} {d : Reg} {c : Creg} {a : Reg} {g : PReg} (h : s.ready g [a]) :
    exec (.crx d c a g) s = .next (cregGuarded c a (fun s =>
      writeReg d (cregRead s s.iss.snap c) false (cregWrite c (s.iss.snap.reg a) s)) s) :=
  congrArg _ ((guarded_ready h).trans (needs_ready h))

/-! ### What a write leaves, as the register then reads -/

/-- A core's register reads from the core as it was left. -/
theorem State.core_modCore_self (s : State) (c : Nat) (f : Core → Core) : (s.modCore c f).core c = f (s.core c) := by
  simp [State.modCore]
theorem place_zero_toNat {n w : Nat} (v : BitVec w) (h : v.toNat = n) : place v.toNat 0 = BitVec.ofNat 64 n := by
  simp [place, h]

/-- A write to PRED keeps p0 true (R24, R32). -/
theorem predWrite_toNat (v : Word) : ((BitVec.ofNat 8 (fld v 7 0) ||| 1) ||| 1 : BitVec 8).toNat = v.toNat % 256 / 2 * 2 + 1 := by
  have h : ∀ b : BitVec 8, ((b ||| 1) ||| 1).toNat = b.toNat / 2 * 2 + 1 := by decide
  rw [h]
  simp [fld, bits]
theorem flagsWrite_toNat (v : Word) : (BitVec.ofNat 6 (fld v 5 0)).toNat = v.toNat % 64 := by simp [fld, bits]
/-- A write to VL stays within GRANT (R34). -/
theorem vlWrite_toNat (grant : BitVec 7) (v : Word) : (vlWrite grant v).toNat = min (v.toNat % 128) grant.toNat := by
  have low : fld v 6 0 = v.toNat % 128 := by simp [fld, bits]
  unfold vlWrite
  rw [low]
  split
  · omega
  · simp only [BitVec.toNat_ofNat]; omega
/-- A write to WAITBUD stays within 0x10_0000 (R157). -/
theorem waitbudWrite_toNat (v : Word) : (waitbudWrite v).toNat = min (v.toNat % 2 ^ 21) 0x100000 := by
  have low : fld v 20 0 = v.toNat % 2 ^ 21 := by simp [fld, bits]
  unfold waitbudWrite
  rw [low]
  split
  · simp; omega
  · simp only [BitVec.toNat_ofNat]; omega
/-- A write to REFILL is at least 64 (R40). -/
theorem refillWrite_toNat {n : Nat} (h : n < 2 ^ 16) : (refillWrite n).toNat = max 64 n := by
  unfold refillWrite
  split
  · simp; omega
  · simp only [BitVec.toNat_ofNat]; omega
/-- The fields of ENCTL as it reads (R40). -/
theorem enctlWord_toNat (k : Core) : (enctlWord k).toNat = k.refill.toNat * 2 ^ 16 + k.nextpp.val := by
  have hr := k.refill.isLt
  have hn := k.nextpp.isLt
  have low : k.nextpp.val < 2 ^ 16 := by omega
  simp only [enctlWord, place, BitVec.toNat_or, BitVec.toNat_ofNat, pow_zero, mul_one]
  rw [Nat.mod_eq_of_lt (by omega), Nat.mod_eq_of_lt (by omega), Nat.mul_comm, ← Nat.two_pow_add_eq_or_of_lt low]
theorem enctlWord_refill (k : Core) : fld (enctlWord k) 31 16 = k.refill.toNat := by
  have hr := k.refill.isLt
  have hn := k.nextpp.isLt
  simp only [fld, bits, enctlWord_toNat]; omega
theorem enctlWord_high (k : Core) : fld (enctlWord k) 63 32 = 0 := by
  have hr := k.refill.isLt
  have hn := k.nextpp.isLt
  simp only [fld, bits, enctlWord_toNat]; omega
theorem enctlWord_reserved (k : Core) : fld (enctlWord k) 15 3 = 0 := by
  have hr := k.refill.isLt
  have hn := k.nextpp.isLt
  simp only [fld, bits, enctlWord_toNat]; omega
theorem enctlWord_nextpp (k : Core) : fld (enctlWord k) 2 0 = k.nextpp.val := by
  have hr := k.refill.isLt
  have hn := k.nextpp.isLt
  simp only [fld, bits, enctlWord_toNat]; omega

/-- ENCTL after a write of it: REFILL alone is taken (R40). -/
theorem cregRead_enctl_write (s : State) (v : Word) (th : Thread) : cregRead (cregWrite .enctl v s) th .enctl =
    enctlWord { s.core s.iss.core with refill := refillWrite (fld v 31 16) } :=
  congrArg enctlWord (State.core_modCore_self s s.iss.core _)
/-- A GUARD register after a write of it: its reserved fields are 0 (R146). -/
theorem cregRead_guard_write (s : State) (v : Word) (n : Fin 8) :
    cregRead (cregWrite (.guard n) v s) (cregWrite (.guard n) v s).iss.live (.guard n) = v &&& guardMask := by
  have h : (cregWrite (.guard n) v s).core s.iss.core =
      { s.core s.iss.core with guards := (s.core s.iss.core).guards.set n.val (v &&& guardMask) } :=
    State.core_modCore_self s s.iss.core _
  have k : cregRead (cregWrite (.guard n) v s) (cregWrite (.guard n) v s).iss.live (.guard n) =
      ((cregWrite (.guard n) v s).core s.iss.core).guards[n.val] := rfl
  rw [k, h]
  exact Vector.getElem_set_self _

/-- A register that no instruction writes keeps its value (R29, R116). -/
theorem cregWrite_unwritten (s : State) (v : Word) : ∀ c ∈ [Creg.slot, .threadgen, .grant, .present, .poison, .energy, .repst, .sigst,
    .netcap, .launchid, .mbxst, .tags], cregWrite c v s = s := by
  simp [cregWrite]

/-- Settles O11: CRR, CRW and CRX under a true guard with a clean source, then each register read after its write. -/
theorem controlRegisters : Obligations.ControlRegisters := by
  unfold Obligations.ControlRegisters
  refine ⟨fun s d a c g h => ?_, fun s v => ?_⟩
  · obtain ⟨ready, clean⟩ := h
    have clean := clean a (by simp)
    have same : (match c with
      | .enctl | .space | .guard _ => true
      | _ => false) = cregSup c := by cases c <;> rfl
    refine ⟨execCrr_ready ready.1, fun may => ?_, fun user sup => ?_⟩
    · have may : s.iss.snap.priv = true ∨ cregSup c = false := same ▸ may
      exact ⟨(execCrw_ready ready).trans (congrArg _ (cregGuarded_writes may clean)),
        (execCrx_ready ready).trans (congrArg _ (cregGuarded_writes may clean))⟩
    · have sup : cregSup c = true := same ▸ sup
      exact ⟨(execCrw_ready ready).trans (congrArg _ (cregGuarded_refused user sup)),
        (execCrx_ready ready).trans (congrArg _ (cregGuarded_refused user sup))⟩
  · have enctl := cregRead_enctl_write s v (cregWrite .enctl v s).iss.live
    dsimp only
    refine ⟨?_, ?_, ?_, ?_, ?_, rfl, rfl, rfl, rfl, ?_, ?_, ?_, ?_, ?_, ?_⟩
    · exact cregWrite_unwritten s v
    · exact place_zero_toNat _ (predWrite_toNat v)
    · exact place_zero_toNat _ (flagsWrite_toNat v)
    · exact place_zero_toNat _ (vlWrite_toNat _ _)
    · exact place_zero_toNat _ (waitbudWrite_toNat _)
    · exact congrArg Core.dpat (State.core_modCore_self _ _ _)
    · rw [enctl, enctlWord_refill, refillWrite_toNat (fld_lt v 31 16)]
    · rw [enctl, enctlWord_high]
    · rw [enctl, enctlWord_reserved]
    · rw [enctl, enctlWord_nextpp]
    · exact cregRead_guard_write s v

/-! ## Lanes and the repetition buffer (R36, R41, R42) -/

/-- The largest multiple of 8 within a request and the free lanes (R36). -/
theorem grant_largest (imm free : Nat) : min imm free / 8 * 8 % 8 = 0 ∧ min imm free / 8 * 8 ≤ imm ∧
    min imm free / 8 * 8 ≤ free ∧ ∀ m, m % 8 = 0 → m ≤ imm → m ≤ free → m ≤ min imm free / 8 * 8 := by
  refine ⟨?_, ?_, ?_, fun m h8 hi hf => ?_⟩ <;> omega

/-- A misuse stops the bundle with cause 0x0D and leaves the buffer empty (R42). -/
theorem repMisuse_iss (s : State) : (repMisuse s).iss.stopped = true ∧ (repMisuse s).iss.live.rep = s.iss.snap.rep.cleared ∧
    (repMisuse s).iss.live.run = .trapped 0x0D false := by
  obtain ⟨iss, -⟩ := trap_frame { cause := 0x0D, detail := 2, va := s.iss.bundle } s
  rw [repMisuse, iss]
  exact ⟨rfl, rfl, rfl⟩
/-- An instruction of the repetition buffer ended as a misuse of it. -/
def Misuse (o : Out) : Prop := ∃ u, o = .next u ∧ u.iss.stopped = true ∧ u.iss.live.rep.code = [] ∧
  u.iss.live.rep.cap = false ∧ u.iss.live.rep.act = false ∧ u.iss.live.run = .trapped 0x0D false
theorem misuse_repMisuse (s : State) : Misuse (.next (repMisuse s)) := by
  obtain ⟨stopped, rep, run⟩ := repMisuse_iss s
  exact ⟨_, rfl, stopped, by rw [rep]; rfl, by rw [rep]; rfl, by rw [rep]; rfl, run⟩

/-- VYIELD gives every lane back, when there is one (R124). -/
theorem exec_vyield (s : State) : exec .vyield s = .next (
    if s.iss.live.grant = 0 then s else live (fun th => { th with grant := 0, vl := 0, want := 0 }) s) := by
  change Host.Outcome.next (live _ s) = _
  by_cases none : s.iss.live.grant = 0
  · simp only [live, if_pos none]
  · simp only [live, if_neg none]
theorem exec_rep (s : State) (count : BitVec 13) (sd sa sb : Fin 8) : exec (.rep count sd sa sb) s = .next (
    if s.iss.snap.rep.cap then repMisuse s
    else live (fun th => { th with rep := ⟨count, 0, 0, sd, sa, sb, false, true, []⟩ }) s) := rfl
theorem exec_repend (s : State) : exec .repend s = .next (
    if s.iss.snap.rep.cap then live (fun th => { th with rep := { th.rep with cap := false } }) s else repMisuse s) := rfl
theorem exec_repgo (s : State) : exec .repgo s = .next (
    if s.iss.snap.rep.cap = true ∨ s.iss.snap.rep.code = [] then repMisuse s
    else live (fun th => { th with rep := { th.rep with iter := 0, pos := 0, act := decide (th.rep.count ≠ 0) } }) s) := by
  simp only [← List.isEmpty_iff, ← Bool.or_eq_true]
  rfl

/-- Settles O17: by the equation of each instruction, split on what the buffer or the grant holds. -/
theorem lanesAndRepetition : Obligations.LanesAndRepetition := by
  unfold Obligations.LanesAndRepetition
  intro s g imm count sd sa sb
  refine ⟨?_, exec_vyield s, rfl, ?_, ?_, ?_⟩
  · obtain ⟨by8, asked, free, largest⟩ := grant_largest imm.toNat (s.freeLanes (clusterOf s.iss.core) + s.iss.snap.grant.toNat)
    exact ⟨_, rfl, _, by8, asked, free, largest, by simp [writeReg], rfl, rfl, rfl⟩
  · rw [exec_rep]
    split
    · exact misuse_repMisuse s
    · rfl
  · rw [exec_repend]
    split
    · rfl
    · exact misuse_repMisuse s
  · rw [exec_repgo]
    split
    · exact misuse_repMisuse s
    · exact ⟨_, rfl, rfl⟩

/-! ## Elements in lanes (R25, R26) -/

/-! ### A field of a number replaced -/

/-- A number with the field of `Q` values at `P` replaced: what lies above and below it stays. -/
theorem replaced_eq (x P Q v : Nat) : x - x / P % Q * P + v * P = P * (Q * (x / P / Q) + v) + x % P := by
  have hx := Nat.div_add_mod x P
  have hq := Nat.div_add_mod (x / P) Q
  generalize x / P / Q = h at *
  generalize x / P % Q = m at *
  rw [← hq] at hx
  have e1 : P * (Q * h + m) = P * (Q * h) + P * m := Nat.mul_add ..
  have e2 : P * (Q * h + v) = P * (Q * h) + P * v := Nat.mul_add ..
  rw [Nat.mul_comm m P, Nat.mul_comm v P, e2]
  omega
theorem replaced_div {P : Nat} (x Q v : Nat) (hP : 0 < P) : (x - x / P % Q * P + v * P) / P = Q * (x / P / Q) + v := by
  rw [replaced_eq, Nat.mul_add_div hP, Nat.div_eq_of_lt (Nat.mod_lt _ hP), Nat.add_zero]
theorem replaced_mod (x P Q v : Nat) : (x - x / P % Q * P + v * P) % P = x % P := by
  rw [replaced_eq, Nat.mul_add_mod, Nat.mod_mod]
theorem replaced_above {P Q v : Nat} (x : Nat) (hP : 0 < P) (hv : v < Q) :
    (x - x / P % Q * P + v * P) / P / Q = x / P / Q := by
  rw [replaced_div x Q v hP, Nat.mul_add_div (by omega), Nat.div_eq_of_lt hv, Nat.add_zero]

/-- Bits below 2^c are those of the number modulo 2^c. -/
theorem bits_mod {x lo n c : Nat} (h : lo + n ≤ c) : bits x lo n = bits (x % 2 ^ c) lo n := by
  have fits : 2 ^ lo * 2 ^ n ∣ 2 ^ c := by rw [← Nat.pow_add]; exact Nat.pow_dvd_pow 2 h
  rw [bits, bits, ← Nat.mod_mul_right_div_self, ← Nat.mod_mul_right_div_self (x % 2 ^ c), Nat.mod_mod_of_dvd _ fits]
/-- Bits from 2^c up are those of the quotient. -/
theorem bits_div {x lo n c : Nat} (h : c ≤ lo) : bits x lo n = bits (x / 2 ^ c) (lo - c) n := by
  rw [bits, bits, Nat.div_div_eq_div_mul, ← Nat.pow_add, Nat.add_sub_cancel' h]

/-- Field `k` of `S` bits replaced by a value. -/
def replaceField (x S k v : Nat) : Nat := x - bits x (S * k) S * 2 ^ (S * k) + v * 2 ^ (S * k)
theorem replaceField_above {x S k v : Nat} (hv : v < 2 ^ S) :
    replaceField x S k v / 2 ^ (S * k + S) = x / 2 ^ (S * k + S) := by
  rw [Nat.pow_add, ← Nat.div_div_eq_div_mul, ← Nat.div_div_eq_div_mul]
  exact replaced_above x (Nat.two_pow_pos _) hv
theorem replaceField_below (x S k v : Nat) : replaceField x S k v % 2 ^ (S * k) = x % 2 ^ (S * k) := replaced_mod ..
/-- The field itself holds the value, of no more bits than the field. -/
theorem replaceField_same {x S k v w : Nat} (hw : w ≤ S) (hv : v < 2 ^ w) : bits (replaceField x S k v) (S * k) w = v := by
  have field : replaceField x S k v / 2 ^ (S * k) = 2 ^ S * (x / 2 ^ (S * k) / 2 ^ S) + v := replaced_div x _ v (Nat.two_pow_pos _)
  have hd : 2 ^ S = 2 ^ w * 2 ^ (S - w) := by rw [← Nat.pow_add, Nat.add_sub_cancel' hw]
  rw [bits, field, hd, Nat.mul_assoc, Nat.mul_add_mod, Nat.mod_eq_of_lt hv]
/-- Every other field stays. -/
theorem replaceField_other {x S k j v w : Nat} (hw : w ≤ S) (hv : v < 2 ^ S) (h : k ≠ j) :
    bits (replaceField x S k v) (S * j) w = bits x (S * j) w := by
  rcases Nat.lt_or_gt_of_ne h with hkj | hkj
  · have above : S * k + S ≤ S * j := by rw [← Nat.mul_succ]; exact Nat.mul_le_mul_left S hkj
    rw [bits_div above, bits_div (x := x) above, replaceField_above hv]
  · have below : S * j + S ≤ S * k := by rw [← Nat.mul_succ]; exact Nat.mul_le_mul_left S hkj
    rw [bits_mod (c := S * k) (by omega), bits_mod (x := x) (c := S * k) (by omega), replaceField_below]
theorem replaceField_lt {x S k v n : Nat} (hx : x < 2 ^ n) (hv : v < 2 ^ S) (hk : S * k + S ≤ n) : replaceField x S k v < 2 ^ n := by
  have split : 2 ^ n = 2 ^ (n - (S * k + S)) * 2 ^ (S * k + S) := by rw [← Nat.pow_add, Nat.sub_add_cancel hk]
  rw [split, ← Nat.div_lt_iff_lt_mul (Nat.two_pow_pos _)] at hx ⊢
  rwa [replaceField_above hv]

/-! ### Lanes -/

@[simp] theorem laneAt_setLane (l : Lanes) (i j : Nat) (x : Lane) :
    laneAt (setLane l i x) j = if i = j ∧ i < 64 then x else laneAt l j := by
  unfold laneAt setLane
  by_cases hi : i < 64
  · by_cases hj : j < 64
    · simp [hi, hj, List.getD_eq_getElem?_getD, Vector.getElem_set]
    · have : i ≠ j := by omega
      simp [hi, hj, this, List.getD_eq_getElem?_getD]
  · simp [hi]

/-- A type whose elements share 32-bit lanes fills them. -/
theorem Ty.narrow_fields {t : Ty} (h : t.store ≠ 64) : t.width ≤ t.store ∧ 0 < t.perLane ∧ t.store * t.perLane = 32 := by
  revert h; cases t <;> decide
theorem Ty.wide_width {t : Ty} (h : t.store = 64) : t.width = 64 := by
  revert h; cases t <;> decide
theorem Ty.count_narrow {t : Ty} (h : t.store ≠ 64) : t.count 64 = 64 * t.perLane := if_neg h
theorem Ty.count_wide {t : Ty} (h : t.store = 64) : t.count 64 = 32 := if_pos h

/-- An element's place in its lane ends within the lane. -/
theorem Ty.place_in_lane {t : Ty} (h : t.store ≠ 64) (i : Nat) : t.store * (i % t.perLane) + t.store ≤ 32 := by
  obtain ⟨-, pos, fill⟩ := Ty.narrow_fields h
  rw [← fill, ← Nat.mul_succ]
  exact Nat.mul_le_mul_left _ (Nat.mod_lt _ pos)

/-! ### One element written -/

theorem VData.setElem_wide {t : Ty} (h : t.store = 64) (d : VData) (i n : Nat) (p : Bool) : d.setElem t i n p =
    ⟨setLane (setLane d.lanes (2 * i) (BitVec.ofNat 32 n)) (2 * i + 1) (BitVec.ofNat 32 (n / 2 ^ 32)),
      setBit (setBit d.poison (2 * i) p) (2 * i + 1) p⟩ := if_pos h
theorem VData.setElem_narrow {t : Ty} (h : t.store ≠ 64) (d : VData) (i n : Nat) (p : Bool) : d.setElem t i n p =
    ⟨setLane d.lanes (i / t.perLane)
        (BitVec.ofNat 32 (replaceField (laneAt d.lanes (i / t.perLane)).toNat t.store (i % t.perLane) (n % 2 ^ t.width))),
      setBit d.poison (i / t.perLane) (p || (i % t.perLane != 0 && d.poison.getLsbD (i / t.perLane)))⟩ := if_neg h

/-- An element reads as written, and every other as it was (R25, R121). -/
theorem VData.elem_setElem {t : Ty} {d : VData} {i v : Nat} {p : Bool} (hi : i < t.count 64) (hv : v < 2 ^ t.width) (j : Nat) :
    (d.setElem t i v p).elem t j = if i = j then v else d.elem t j := by
  by_cases h : t.store = 64
  · rw [Ty.count_wide h] at hi
    rw [Ty.wide_width h] at hv
    simp only [VData.elem, if_pos h, VData.setElem_wide h, laneAt_setLane]
    by_cases e : i = j
    · subst e
      simp only [show 2 * i + 1 ≠ 2 * i by omega, show 2 * i < 64 by omega, show 2 * i + 1 < 64 by omega, and_self, and_true, if_true,
        if_false, BitVec.toNat_ofNat]
      omega
    · simp [e, show 2 * i + 1 ≠ 2 * j by omega, show 2 * i ≠ 2 * j + 1 by omega]
  · rw [Ty.count_narrow h] at hi
    obtain ⟨hw, pos, fill⟩ := Ty.narrow_fields h
    have hl : i / t.perLane < 64 := Nat.div_lt_of_lt_mul (by rwa [Nat.mul_comm])
    have wide : v < 2 ^ t.store := Nat.lt_of_lt_of_le hv (Nat.pow_le_pow_right (by omega) hw)
    have fits := replaceField_lt (laneAt d.lanes (i / t.perLane)).isLt wide (Ty.place_in_lane h i)
    simp only [VData.elem, if_neg h, VData.setElem_narrow h, laneAt_setLane, hl, and_true, Nat.mod_eq_of_lt hv]
    by_cases e : i / t.perLane = j / t.perLane
    · rw [if_pos e, BitVec.toNat_ofNat, Nat.mod_eq_of_lt fits]
      by_cases same : i = j
      · subst same
        rw [if_pos rfl, replaceField_same hw hv]
      · have other : i % t.perLane ≠ j % t.perLane := fun k => same (by
          rw [← Nat.div_add_mod i t.perLane, ← Nat.div_add_mod j t.perLane, e, k])
        rw [if_neg same, replaceField_other hw wide other, e]
    · rw [if_neg e, if_neg (fun k => e (by rw [k]))]

/-- The lane pair of a 64-bit element takes its poison (R26). -/
theorem VData.poison_setElem_wide {t : Ty} {d : VData} {i v : Nat} {p : Bool} (h : t.store = 64) (l : Nat) (hl : l < 64) :
    (d.setElem t i v p).poison.getLsbD l = if l / 2 = i then p else d.poison.getLsbD l := by
  simp only [VData.setElem_wide h, setBit_get, hl, true_and]
  by_cases e : l / 2 = i
  · rw [if_pos e]
    by_cases odd : 2 * i + 1 = l
    · rw [if_pos odd]
    · rw [if_neg odd, if_pos (by omega)]
  · rw [if_neg e, if_neg (by omega), if_neg (by omega)]
/-- A lane takes the poison of the first element written into it, and the others add theirs (R26, R121). -/
theorem VData.poison_setElem_narrow {t : Ty} {d : VData} {i v : Nat} {p : Bool} (h : t.store ≠ 64) (l : Nat) (hl : l < 64) :
    (d.setElem t i v p).poison.getLsbD l =
      if i / t.perLane = l then p || (i % t.perLane != 0 && d.poison.getLsbD l) else d.poison.getLsbD l := by
  simp only [VData.setElem_narrow h, setBit_get, hl, true_and]
  split
  · subst l; rfl
  · rfl

/-! ### Elements 0 to n − 1 written -/

theorem mapElems_succ (t : Ty) (n : Nat) (old : VData) (f : Nat → ElemRes) :
    (mapElems t (n + 1) old f).1 = (mapElems t n old f).1.setElem t n (f n).1 (f n).2.1 := by
  simp [mapElems, List.range_succ]

theorem mapElems_elem {t : Ty} {n : Nat} {old : VData} {f : Nat → ElemRes} (hn : n ≤ t.count 64)
    (hf : ∀ i, i < n → (f i).1 < 2 ^ t.width) (j : Nat) :
    (mapElems t n old f).1.elem t j = if j < n then (f j).1 else old.elem t j := by
  induction n with
  | zero => rfl
  | succ n ih =>
    rw [mapElems_succ, VData.elem_setElem (by omega) (hf n (by omega)), ih (by omega) (fun i hi => hf i (by omega))]
    by_cases e : n = j
    · subst e; simp
    · rw [if_neg e]
      by_cases k : j < n
      · rw [if_pos k, if_pos (by omega)]
      · rw [if_neg k, if_neg (by omega)]

theorem mapElems_poison_wide {t : Ty} {n : Nat} {old : VData} {f : Nat → ElemRes} (h : t.store = 64) (l : Nat) (hl : l < 64) :
    (mapElems t n old f).1.poison.getLsbD l = if l / 2 < n then (f (l / 2)).2.1 else old.poison.getLsbD l := by
  induction n with
  | zero => rfl
  | succ n ih =>
    rw [mapElems_succ, VData.poison_setElem_wide h l hl, ih]
    by_cases e : l / 2 = n
    · rw [if_pos e, if_pos (by omega), e]
    · rw [if_neg e]
      by_cases k : l / 2 < n
      · rw [if_pos k, if_pos (by omega)]
      · rw [if_neg k, if_neg (by omega)]

/-- Some element below `n` that lies in a lane is poisoned. -/
def laneHit (t : Ty) (f : Nat → ElemRes) (l n : Nat) : Bool := (List.range n).any (fun i => i / t.perLane == l && (f i).2.1)
theorem laneHit_succ (t : Ty) (f : Nat → ElemRes) (l n : Nat) :
    laneHit t f l (n + 1) = (laneHit t f l n || (n / t.perLane == l && (f n).2.1)) := by
  simp [laneHit, List.range_succ]
/-- No element below the first of a lane lies in it. -/
theorem laneHit_before {t : Ty} (f : Nat → ElemRes) {l n : Nat} (h : n ≤ l * t.perLane) : laneHit t f l n = false := by
  simp only [laneHit, List.any_eq_false, List.mem_range, Bool.and_eq_true, beq_iff_eq, not_and]
  intro i hi e
  have := Nat.div_mul_le_self i t.perLane
  rw [e] at this
  omega

theorem mapElems_poison_narrow {t : Ty} {n : Nat} {old : VData} {f : Nat → ElemRes} (h : t.store ≠ 64) (l : Nat) (hl : l < 64) :
    (mapElems t n old f).1.poison.getLsbD l = if l * t.perLane < n then laneHit t f l n else old.poison.getLsbD l := by
  obtain ⟨-, pos, -⟩ := Ty.narrow_fields h
  induction n with
  | zero => rfl
  | succ n ih =>
    rw [mapElems_succ, VData.poison_setElem_narrow h l hl, ih, laneHit_succ]
    have split := Nat.div_add_mod n t.perLane
    by_cases e : n / t.perLane = l
    · subst e
      have begun : n / t.perLane * t.perLane < n + 1 := Nat.lt_succ_of_le (Nat.div_mul_le_self _ _)
      rw [if_pos rfl, if_pos begun]
      by_cases first : n % t.perLane = 0
      · rw [laneHit_before f (by rw [Nat.mul_comm]; omega)]
        simp [first]
      · have more : n / t.perLane * t.perLane < n := by rw [Nat.mul_comm]; omega
        simp [bne_iff_ne.mpr first, more, Bool.or_comm]
    · rw [if_neg e]
      by_cases k : l * t.perLane < n
      · simp [k, show l * t.perLane < n + 1 by omega, e]
      · have next : ¬ l * t.perLane < n + 1 := fun g =>
          e (by rw [show n = l * t.perLane by omega, Nat.mul_div_cancel _ pos])
        rw [if_neg k, if_neg next]

/-! ### Integer elements (R125) -/

/-- A result of a type's width that is an integer modulo 2^w, with no flag. -/
def Wraps (t : Ty) (v : Int) (r : Nat × FlagBits) : Prop :=
  r.1 < 2 ^ t.width ∧ (r.1 : Int) % (2 : Int) ^ t.width = v % (2 : Int) ^ t.width ∧ r.2 = 0
theorem wraps_modW {t : Ty} {n : Nat} {v : Int} (h : (n : Int) % (2 : Int) ^ t.width = v % (2 : Int) ^ t.width) :
    Wraps t v (modW t n) := by
  refine ⟨Nat.mod_lt _ (Nat.two_pow_pos _), ?_, rfl⟩
  rw [← h]
  simp [modW]

theorem vaddE_wraps {t : Ty} (rm : Rm) (x y : Nat) (int : t.isInt = true) : Wraps t (x + y) (vaddE t rm x y) := by
  rw [vaddE, if_pos int]
  exact wraps_modW (by simp)
theorem vmulE_wraps {t : Ty} (rm : Rm) (x y : Nat) (int : t.isInt = true) : Wraps t (x * y) (vmulE t rm x y) := by
  rw [vmulE, if_pos int]
  exact wraps_modW (by simp)
/-- The model subtracts from 2^w above, so that the numbers stay natural. -/
theorem vsubE_wraps {t : Ty} (rm : Rm) {x y : Nat} (int : t.isInt = true) (hy : y < 2 ^ t.width) :
    Wraps t (x - y) (vsubE t rm x y) := by
  rw [vsubE, if_pos int]
  have e : ((x + 2 ^ t.width - y : Nat) : Int) = (x - y : Int) + (2 : Int) ^ t.width := by
    rw [Int.ofNat_sub (by omega)]; push_cast; ring
  exact wraps_modW (by rw [e, Int.add_emod_right])
theorem vnegE_wraps {t : Ty} {x : Nat} (int : t.isInt = true) (hx : x < 2 ^ t.width) : Wraps t (-x) (vnegE t x) := by
  rw [vnegE, if_pos int]
  have e : ((2 ^ t.width - x : Nat) : Int) = (-x : Int) + (2 : Int) ^ t.width := by
    rw [Int.ofNat_sub (by omega)]; push_cast; ring
  exact wraps_modW (by rw [e, Int.add_emod_right])
theorem vabsE_wraps {t : Ty} {x : Nat} (int : t.isInt = true) (hx : x < 2 ^ t.width) :
    Wraps t (if t.signed then |t.int x| else x) (vabsE t x) := by
  rw [vabsE, if_pos int]
  refine wraps_modW (congrArg (· % _) ?_)
  by_cases s : t.signed
  · rw [if_pos s, Int.natCast_natAbs]
  · rw [if_neg s, Ty.int, if_neg s, Nat.mod_eq_of_lt hx, Int.natAbs_natCast]

/-- Two elements of a type that denote the same integer are the same bits. -/
theorem Ty.int_inj {t : Ty} {x y : Nat} (hx : x < 2 ^ t.width) (hy : y < 2 ^ t.width) (h : t.int x = t.int y) : x = y := by
  unfold Ty.int toSigned at h
  rw [Nat.mod_eq_of_lt hx, Nat.mod_eq_of_lt hy] at h
  generalize 2 ^ t.width = w at *
  generalize 2 ^ (t.width - 1) = k at *
  by_cases s : t.signed
  · simp only [if_pos s] at h
    split_ifs at h <;> omega
  · simp only [if_neg s] at h
    omega
/-- The smaller or the larger by the integers denoted: elements that denote the same are the same. -/
theorem vpickE_int {t : Ty} {x y : Nat} (int : t.isInt = true) (hx : x < 2 ^ t.width) (hy : y < 2 ^ t.width) :
    vpickE false t x y = (if t.int x ≤ t.int y then x else y, 0) ∧ vpickE true t x y = (if t.int x ≤ t.int y then y else x, 0) := by
  simp only [vpickE, if_pos int]
  rcases lt_trichotomy (t.int x) (t.int y) with lt | eq | gt
  · simp [lt, lt.le]
  · obtain rfl := Ty.int_inj hx hy eq
    simp
  · simp [gt.not_gt, gt.not_ge]

/-- Settles O14: by the place of each element among the lanes that the ones written before it leave, and by `omega`
on integers modulo 2^w. -/
theorem vectorElements : Obligations.VectorElements := by
  unfold Obligations.VectorElements
  refine ⟨fun t n old f hn hf => ⟨fun i hi => ?_, fun i hi _ => ?_, fun h l hl => mapElems_poison_narrow h l hl,
    fun h l hl => mapElems_poison_wide h l hl⟩, fun t rm x y int hx hy => ?_⟩
  · rw [mapElems_elem hn hf, if_pos hi]
  · rw [mapElems_elem hn hf, if_neg (by omega)]
  · exact ⟨vaddE_wraps rm x y int, vsubE_wraps rm int hy, vmulE_wraps rm x y int, vnegE_wraps int hx, vabsE_wraps int hx,
      vpickE_int int hx hy⟩

/-! ## Replies (R19, R178) -/

/-- A message taken leaves the threads. -/
@[simp] theorem State.named_take (s : State) (id : Nat) (n : TName) : (s.take id).named n = s.named n := rfl
@[simp] theorem State.thread_take (s : State) (id t : Nat) : (s.take id).thread t = s.thread t := rfl
/-- A named thread stands at its place. -/
theorem State.thread_of_named {s : State} {n : TName} {th : Thread} (h : s.named n = some th) :
    s.thread (tid n.core n.slot) = some th ∧ th.gen = n.gen := by
  unfold State.named at h
  split at h
  · split at h
    · obtain rfl := Option.some.inj h
      exact ⟨‹_›, ‹_›⟩
    · cases h
  · cases h
theorem State.modThread_some {s : State} {t : Nat} {th : Thread} (f : Thread → Thread) (h : s.thread t = some th) :
    s.modThread t f = s.setThread t (f th) := by
  simp [State.modThread, h]

/-- A value taken leaves whether the thread ends or is to stop. -/
@[simp] theorem takeValue_exiting (d : Dest) (v : Word) (x : Bool) (th : Thread) : (takeValue d v x th).exiting = th.exiting := by
  cases d with
  | pred p => simp only [takeValue, Thread.setPred]; split <;> rfl
  | none | reg | status => rfl
@[simp] theorem takeValue_stopq (d : Dest) (v : Word) (x : Bool) (th : Thread) : (takeValue d v x th).stopq = th.stopq := by
  cases d with
  | pred p => simp only [takeValue, Thread.setPred]; split <;> rfl
  | none | reg | status => rfl

/-- The oldest issued instruction of a thread that neither replays nor is to stop ends: its result is written and the thread may
issue from the next cycle on (R19). -/
theorem State.popPend_running {s : State} {t : Nat} {th : Thread} {p : Pending} {rest : List Pending} {f : Thread → Thread}
    (h : s.thread t = some th) (pend : th.pend = p :: rest) (act : th.rep.act = false)
    (goes : (f { th with pend := rest, woke := s.cycle + 1 }).stopq = false) :
    s.popPend t f = s.setThread t (f { th with pend := rest, woke := s.cycle + 1 }) := by
  simp [State.popPend, State.modThread_some _ h, pend, act, goes]
theorem State.finish_running {s : State} {t : Nat} {th : Thread} {p : Pending} {rest : List Pending} {f : Thread → Thread}
    (h : s.thread t = some th) (pend : th.pend = p :: rest) (act : th.rep.act = false)
    (goes : (f { th with pend := rest, woke := s.cycle + 1 }).stopq = false)
    (stays : (f { th with pend := rest, woke := s.cycle + 1 }).exiting = false) :
    s.finish t f = s.setThread t (f { th with pend := rest, woke := s.cycle + 1 }) := by
  simp [State.finish, State.popPend_running h pend act goes, stays]

/-- A value that answers an access ends it (R177, R180, R182, R184). -/
theorem State.headAnswer_access {s : State} {core slot : Nat} {th : Thread} {p : Pending} {f : Form} {va data v : Word} {pa size : Nat}
    {o : MemOrd} {sc : Scope} {dest : Dest} {x : Bool} (op : p.op = .access f va pa size data o sc dest) :
    s.headAnswer core slot th p (.value v x) = s.finish (tid core slot) (takeValue dest v x) := by
  simp only [State.headAnswer, op]

theorem execReplyArrival_reply {s : State} {id : Nat} {n : TName} {r : Reply} {th : Thread} {p : Pending} {rest : List Pending}
    (msg : s.msg? id = some (.reply n r)) (named : s.named n = some th) (pend : th.pend = p :: rest) :
    exec (.replyArrival id) s = .next ((s.take id).headAnswer n.core n.slot th p r) := by
  change execReplyArrival id s = _
  simp [execReplyArrival, msg, named, pend]
theorem execReplyArrival_relaxed {s : State} {id : Nat} {n : TName} {r : Reply} {th : Thread}
    (msg : s.msg? id = some (.relaxedReply n r)) (named : s.named n = some th) (free : trappedNow th = false) :
    exec (.replyArrival id) s = .next ((s.take id).relaxedAnswer (tid n.core n.slot) r) := by
  change execReplyArrival id s = _
  simp [execReplyArrival, msg, named, free]

/-- Settles O27: the arrival goes to the head of the pending instructions, or to the relaxed load, of the thread named. -/
theorem repliesReachTheirThreads : Obligations.RepliesReachTheirThreads := by
  unfold Obligations.RepliesReachTheirThreads
  intro s id n th p rest f va v pa size data o sc dest x r named stays goes act run
  obtain ⟨place, -⟩ := State.thread_of_named named
  refine ⟨fun msg pend op => ?_, fun msg relaxed => ?_⟩
  · rw [execReplyArrival_reply msg named pend, State.headAnswer_access op,
      State.finish_running (by simpa using place) pend act (by simpa using goes) (by simpa using stays)]
    cases dest <;> rfl
  · rw [execReplyArrival_relaxed msg named (by simp [trappedNow, run])]
    simp [State.relaxedAnswer, place, relaxed]

/-! ## Pre-payment of starved slots (R39) -/

/-- The slots in turn from one on (R39). -/
def payOrder (i n : Nat) : List Nat := (List.range n).map (fun j => (i + j) % 7)
theorem payOrder_succ {i n : Nat} (h : i < 7) : payOrder i (n + 1) = i :: payOrder ((i + 1) % 7) n := by
  simp only [payOrder, List.range_succ_eq_map, List.map_cons, List.map_map, Nat.add_zero, Nat.mod_eq_of_lt h]
  refine congrArg _ (List.map_congr_left fun j _ => ?_)
  simp only [Function.comp]
  omega
theorem payOrder_lt {i n j : Nat} (h : j ∈ payOrder i n) : j < 7 := by
  simp only [payOrder, List.mem_map] at h
  obtain ⟨k, -, rfl⟩ := h
  omega
/-- A round of at most seven slots comes back to none of them. -/
theorem not_mem_payOrder {i n : Nat} (hn : n < 7) : i ∉ payOrder ((i + 1) % 7) n := by
  simp only [payOrder, List.mem_map, List.mem_range, not_exists, not_and]
  intro k hk
  omega

/-- The starved slots among some. -/
def starvedOf (st : BitVec 7) (l : List Nat) : List Nat := l.filter (fun i => st.getLsbD i)
theorem starvedOf_clear {st : BitVec 7} {i : Nat} {l : List Nat} (h : i ∉ l) : starvedOf (setBit st i false) l = starvedOf st l :=
  List.filter_congr fun j hj => by
    rw [setBit_get, if_neg (fun k => h (by rw [k.2]; exact hj))]

/-- What a slot's pre-payment costs. -/
def chargeOf (charges : List (Nat × Nat)) (i : Nat) : Nat := (mget charges i).getD 0
/-- STARVED with the bits of some slots cleared. -/
def clearSlots (st : BitVec 7) (paid : List Nat) : BitVec 7 := paid.foldl (fun b i => setBit b i false) st
theorem clearSlots_get (st : BitVec 7) (paid : List Nat) (i : Nat) (hi : i < 7) :
    (clearSlots st paid).getLsbD i = (st.getLsbD i && !paid.contains i) := by
  induction paid generalizing st with
  | nil => simp [clearSlots]
  | cons j r ih =>
    refine (ih (setBit st j false)).trans ?_
    rw [setBit_get]
    by_cases e : j = i
    · simp [e, hi]
    · simp [e, Ne.symm e]
/-- Where NEXTPP stands after a round: at the slot where it stopped, or after the last one paid. -/
def nextTurn (rest paid : List Nat) (start : Nat) : Nat :=
  match rest.head?, paid.getLast? with
  | some i, _ => i
  | none, some i => (i + 1) % 7
  | none, none => start
theorem nextTurn_cons (rest paid : List Nat) (i start : Nat) : nextTurn rest (i :: paid) start = nextTurn rest paid ((i + 1) % 7) := by
  unfold nextTurn
  cases rest.head? with
  | some j => rfl
  | none =>
    cases paid with
    | nil => rfl
    | cons j r =>
      rw [List.getLast?_cons_cons]
      cases h : (j :: r).getLast? with
      | none => simp at h
      | some k => rfl

/-- The round pays the starved slots in turn, until one's charge exceeds what is left. -/
theorem prepay_eq {charges : List (Nat × Nat)} {n i bal : Nat} {st : BitVec 7} {before paid rest : List Nat} {start : Nat}
    (hn : n ≤ 7) (hi : i < 7) (split : starvedOf st (payOrder i n) = paid ++ rest)
    (enough : (paid.map (chargeOf charges)).sum ≤ bal)
    (stops : ∀ j, rest.head? = some j → bal < (paid.map (chargeOf charges)).sum + chargeOf charges j) :
    prepay charges n i bal st before start =
      (bal - (paid.map (chargeOf charges)).sum, clearSlots st paid, before ++ paid, nextTurn rest paid start) := by
  induction n generalizing i bal st before paid start with
  | zero =>
    obtain ⟨rfl, rfl⟩ := List.append_eq_nil_iff.mp split.symm
    simp [prepay, clearSlots, nextTurn]
  | succ n ih =>
    rw [payOrder_succ hi] at split
    have next : (i + 1) % 7 < 7 := by omega
    by_cases starved : st.getLsbD i
    · rw [starvedOf, List.filter_cons_of_pos starved] at split
      cases paid with
      | nil =>
        obtain rfl : rest = _ := split.symm
        have short := stops i rfl
        simp only [List.map_nil, List.sum_nil, Nat.zero_add] at short
        simp only [prepay, starved, Bool.not_true, Bool.false_eq_true, if_false]
        rw [chargeOf] at short
        simp [short, clearSlots, nextTurn]
      | cons j paid =>
        obtain ⟨rfl, tail⟩ := List.cons_eq_cons.mp split
        simp only [List.map_cons, List.sum_cons] at enough stops ⊢
        have pays : ¬ bal < (mget charges i).getD 0 := by
          have : (mget charges i).getD 0 = chargeOf charges i := rfl
          omega
        have step := ih (i := (i + 1) % 7) (bal := bal - chargeOf charges i) (st := setBit st i false) (before := before ++ [i])
          (paid := paid) (start := (i + 1) % 7) (by omega) next
          ((starvedOf_clear (not_mem_payOrder (by omega))).trans tail) (by omega) (fun j hj => by have := stops j hj; omega)
        simp only [prepay, starved, Bool.not_true, Bool.false_eq_true, if_false, pays]
        refine step.trans ?_
        rw [nextTurn_cons, Nat.sub_sub, List.append_assoc]
        rfl
    · rw [starvedOf, List.filter_cons_of_neg starved] at split
      simp only [prepay, starved, Bool.not_false, if_true]
      exact ih (by omega) next split enough stops

/-! ### The threads that are paid -/

/-- The threads of some slots pre-paid. -/
def State.payThreads (core : Nat) (s : State) (paid : List Nat) : State :=
  paid.foldl (fun s slot => s.modThread (tid core slot) (fun th => { th with prepaid := true })) s
theorem State.payThreads_frame (core : Nat) (s : State) (paid : List Nat) :
    (s.payThreads core paid).cores = s.cores ∧ (s.payThreads core paid).mem = s.mem := by
  induction paid generalizing s with
  | nil => exact ⟨rfl, rfl⟩
  | cons i r ih =>
    obtain ⟨cores, mem⟩ := ih (s.modThread (tid core i) (fun th => { th with prepaid := true }))
    have one (f : Thread → Thread) : (s.modThread (tid core i) f).cores = s.cores ∧ (s.modThread (tid core i) f).mem = s.mem := by
      unfold State.modThread
      split <;> exact ⟨rfl, rfl⟩
    exact ⟨cores.trans (one _).1, mem.trans (one _).2⟩
theorem State.thread_modThread (s : State) (t n : Nat) (f : Thread → Thread) :
    (s.modThread t f).thread n = if t = n then (s.thread n).map f else s.thread n := by
  unfold State.modThread
  by_cases e : t = n
  · subst e
    cases h : s.thread t <;> simp [h]
  · cases h : s.thread t <;> simp [e]
theorem State.payThreads_other (core : Nat) (s : State) (paid : List Nat) (n : Nat) (h : ∀ i ∈ paid, n ≠ tid core i) :
    (s.payThreads core paid).thread n = s.thread n := by
  induction paid generalizing s with
  | nil => rfl
  | cons i r ih =>
    refine (ih _ (fun j hj => h j (by simp [hj]))).trans ?_
    rw [State.thread_modThread, if_neg (Ne.symm (h i (by simp)))]
theorem State.payThreads_paid (core : Nat) (s : State) (paid : List Nat) (i : Nat) (th : Thread) (h : i ∈ paid)
    (live : s.thread (tid core i) = some th) : (s.payThreads core paid).thread (tid core i) = some { th with prepaid := true } := by
  induction paid generalizing s th with
  | nil => simp at h
  | cons j r ih =>
    have first : (s.modThread (tid core j) (fun th => { th with prepaid := true })).thread (tid core i) =
        some (if tid core j = tid core i then { th with prepaid := true } else th) := by
      rw [State.thread_modThread, live]
      split <;> rfl
    by_cases later : i ∈ r
    · refine (ih _ _ later first).trans ?_
      split <;> rfl
    · obtain rfl : i = j := by simpa [later] using h
      rw [if_pos rfl] at first
      by_cases again : ∃ k ∈ r, tid core i = tid core k
      · obtain ⟨k, hk, e⟩ := again
        obtain rfl : i = k := by simp only [tid] at e; omega
        exact absurd hk later
      · exact (State.payThreads_other core _ r _ (fun k hk e => again ⟨k, hk, e⟩)).trans first

/-! ### ENERGY_REFILL -/

/-- A core after its refill, the round having ended so. -/
def Core.refilled (k : Core) (bal : Nat) (st : BitVec 7) (paid : List Nat) (next : Nat) : Core :=
  { k with
    refill := k.newRefill.getD k.refill
    newRefill := none
    balance := BitVec.ofNat 16 bal
    starved := st
    nextpp := Fin.ofNat 7 next
    charges := k.charges.filter (fun p => !paid.contains p.1) }
theorem execEnergyRefill_eq {s : State} {core bal next : Nat} {st : BitVec 7} {paid : List Nat} (unit : core < 16384 + 128)
    (boundary : s.cycle % 1024 = 0)
    (round : prepay (s.core core).charges 7 (s.core core).nextpp.val ((s.core core).newRefill.getD (s.core core).refill).toNat
      (s.core core).starved [] (s.core core).nextpp.val = (bal, st, paid, next)) :
    exec (.energyRefill core) s =
      .next ((s.setCore core ((s.core core).refilled bal st paid next)).payThreads core paid) := by
  change execEnergyRefill core s = _
  simp only [execEnergyRefill, if_neg (show ¬ 16384 + 128 ≤ core by omega), boundary, ne_eq, not_true, if_false, round]
  rfl

theorem refill_unstarved (s : State) (core : Nat) (unit : core < 16384 + 128) (boundary : s.cycle % 1024 = 0)
    (fed : (s.core core).starved = 0) :
    let k := s.core core
    let refill := k.newRefill.getD k.refill
    ∃ t, exec (.energyRefill core) s = .next t ∧
      t.core core = { k with refill := refill, newRefill := none, balance := refill } ∧
      (∀ c, c ≠ core → t.core c = s.core c) ∧ t.threads = s.threads ∧ t.mem = s.mem := by
  have none : starvedOf (s.core core).starved (payOrder (s.core core).nextpp.val 7) = [] ++ [] := by simp [starvedOf, fed]
  have round := prepay_eq (charges := (s.core core).charges) (bal := ((s.core core).newRefill.getD (s.core core).refill).toNat)
    (before := []) (start := (s.core core).nextpp.val) (by omega) (s.core core).nextpp.isLt none (by simp) (by simp)
  refine ⟨_, execEnergyRefill_eq unit boundary round, ?_, fun c hc => ?_, rfl, rfl⟩
  · simp [State.payThreads, Core.refilled, clearSlots, nextTurn]
  · simp [State.payThreads, Ne.symm hc]

theorem refill_starved (s : State) (core : Nat) (paid rest : List Nat) (unit : core < 16384 + 128) (boundary : s.cycle % 1024 = 0) :
    let k := s.core core
    let refill := k.newRefill.getD k.refill
    let spent := (paid.map (chargeOf k.charges)).sum
    starvedOf k.starved (payOrder k.nextpp.val 7) = paid ++ rest → spent ≤ refill.toNat →
    (∀ i, rest.head? = some i → refill.toNat < spent + chargeOf k.charges i) →
    ∃ t, exec (.energyRefill core) s = .next t ∧
      (t.core core).refill = refill ∧ (t.core core).newRefill = none ∧ (t.core core).balance.toNat = refill.toNat - spent ∧
      (∀ i, i < 7 → (t.core core).starved.getLsbD i = (k.starved.getLsbD i && !paid.contains i)) ∧
      (t.core core).nextpp.val = nextTurn rest paid k.nextpp.val ∧
      (∀ i ∈ paid, ∀ th, s.thread (tid core i) = some th → t.thread (tid core i) = some { th with prepaid := true }) ∧
      (∀ n, (∀ i ∈ paid, n ≠ tid core i) → t.thread n = s.thread n) ∧ t.mem = s.mem := by
  intro k refill spent split enough stops
  have round := prepay_eq (charges := k.charges) (before := []) (start := k.nextpp.val) (by omega) k.nextpp.isLt split enough stops
  have atSlot : nextTurn rest paid k.nextpp.val < 7 := by
    unfold nextTurn
    cases h : rest.head? with
    | some i =>
      have turn : i ∈ starvedOf k.starved (payOrder k.nextpp.val 7) := by
        rw [split]; exact List.mem_append_right _ (List.mem_of_head? h)
      exact payOrder_lt (List.mem_filter.mp turn).1
    | none =>
      cases paid.getLast? with
      | some i => exact Nat.mod_lt _ (by omega)
      | none => exact k.nextpp.isLt
  rw [List.nil_append] at round
  refine ⟨_, execEnergyRefill_eq unit boundary round, ?_⟩
  generalize hk : k.refilled _ _ _ _ = after
  obtain ⟨cores, mem⟩ := State.payThreads_frame core (s.setCore core after) paid
  have left : ((s.setCore core after).payThreads core paid).core core = after := by
    rw [State.core, cores]; exact (State.core_setCore s core core after).trans (if_pos rfl)
  rw [left]
  subst hk
  have fits := refill.isLt
  refine ⟨rfl, rfl, ?_, fun i hi => clearSlots_get _ _ _ hi, Nat.mod_eq_of_lt atSlot, fun i hi th live => ?_, fun n hn => ?_, mem⟩
  · exact Nat.mod_eq_of_lt (by omega)
  · exact State.payThreads_paid core _ paid i th hi live
  · exact State.payThreads_other core _ paid n hn

/-! ## The arrival of a PUT (R188, R189, R260) -/

/-- Word 0 of a message record (R395). -/
theorem RecordFields.record_head (f : RecordFields) : f.record[0] = place f.cls 60 ||| place f.cause 52 |||
    place (f.detail % 2 ^ 16) 36 ||| place (b2n f.eng) 35 ||| place (b2n f.svc) 34 ||| place (b2n f.fenced) 30 |||
    place (b2n f.took) 29 ||| place (f.name % 2 ^ 29) 0 := rfl
/-- A notice of kind 0 is one record of class 3 with no DETAIL (R396). -/
theorem State.notice_sent (s : State) (core : Nat) (target : Word) (reg : Nat) : ∃ f r,
    s.notice core 0 target reg = { s with flight := s.flight ++ [f], nextId := s.nextId + 1 } ∧ f.msg = .record core r ∧
      fld r[0] 63 60 = 3 ∧ fld r[0] 51 36 = 0 := by
  refine ⟨_, _, rfl, rfl, ?_, ?_⟩ <;> rw [RecordFields.record_head] <;> dsimp only <;> decide

/-- Settles O28: a refill by induction on the slots still starved, a PUT by whether its target lives. -/
theorem putsAndRefills : Obligations.PutsAndRefills := by
  unfold Obligations.PutsAndRefills
  refine ⟨refill_unstarved, refill_starved, fun s id sender target v idx x msg open' => ?_⟩
  have unfenced : (s.take id).isFenced (clusterOf (fld target 16 3)) = false := open'
  refine ⟨fun th named running => ?_, fun stale => ?_⟩
  · change execPutArrival id s = _
    simp only [execPutArrival, msg, unfenced, State.named_take, named, running, Bool.false_eq_true, if_false]
  · obtain ⟨f, r, sent, record⟩ := (s.take id).notice_sent sender.core
      (TName.word ⟨fld target 16 3, fld target 2 0, BitVec.ofNat 12 (fld target 28 17)⟩) idx.val
    refine ⟨f, r, ?_, record⟩
    change execPutArrival id s = _
    simp only [execPutArrival, msg, unfenced, State.named_take, stale, Bool.false_eq_true, if_false, sent]
    rfl

/-! ## A step and a turn (R14, R15) -/

/-- While cycles pass, a step is the next move of the cycle. -/
theorem step_move {s : State} {m : Move} {rest : List Move} (power : s.power = .glow ∨ s.power = .dim) (agenda : s.agenda = m :: rest) :
    step s = moveOf exec { s with agenda := rest } m := by
  have awake : ¬ (s.power = .ember ∨ s.power = .dark) := by rcases power with h | h <;> simp [h]
  simp only [step, stepBy, if_neg awake, agenda]
theorem step_newCycle {s : State} (power : s.power = .glow ∨ s.power = .dim) (agenda : s.agenda = []) :
    step s = .next s.newCycle := by
  have awake : ¬ (s.power = .ember ∨ s.power = .dark) := by rcases power with h | h <;> simp [h]
  simp only [step, stepBy, if_neg awake, agenda]

/-- A thread that runs, waits for nothing and is neither held, starved nor to stop issues its bundle at its turn. -/
theorem turnOf_issues {s : State} {core slot : Nat} {th : Thread} (live : s.thread (tid core slot) = some th)
    (woke : th.woke ≠ s.cycle + 1) (run : th.run = .run) (pend : th.pend = []) (hold : th.hold = false) (stopq : th.stopq = false)
    (fed : (s.core core).starved.getLsbD slot = false) : turnOf exec core slot s = issueBundle exec core slot th s := by
  have rejoins : s.rejoins core slot th = true := by simp only [State.rejoins, run]
  simp only [turnOf, live, if_neg woke, run, pend, hold, rejoins, fed, stopq, Bool.not_true, Bool.or_self, Bool.false_and,
    Bool.false_eq_true, if_false]

/-- A word whose cells hold their code is read without a mark (R409). -/
theorem State.wordError_none {s : State} {w : Nat} {who : Word} (h : mget s.wordErrors w = none) : s.wordError w who = s := by
  simp only [State.wordError, h]
theorem withAddress_ok {k : Kind} {va : Word} {f : Nat → State → State} {s : State} {pa : Nat}
    (h : s.translate s.iss.core s.iss.slot s.iss.snap.space s.iss.snap.priv k va = .ok pa) : withAddress k va f s = f pa s := by
  simp only [withAddress, h]

/-- With nothing fetched ahead, the bundle comes from memory: mapped, not fenced off, of no peer, and clean (R84, R86, R401). -/
theorem State.fetchBundle_clean {s : State} {pa : Nat} (ahead : s.iss.snap.ahead = []) (goes : s.iss.stopped = false)
    (mapped : s.translate s.iss.core s.iss.slot s.iss.snap.space s.iss.snap.priv .fetch s.iss.pc = .ok pa)
    (way : s.wayBlocked pa = none) (own : isPeer pa = false) (sound : mget s.wordErrors (wordOfAddr pa) = none)
    (clean : s.isPoisonAt pa = false) : s.fetchBundle =
      (some (s.busWord (wordOfAddr pa)), { s with iss := { s.iss with bundle := s.busWord (wordOfAddr pa) } }) := by
  simp only [State.fetchBundle, ahead, withAddress_ok mapped, way, own, State.wordError_none sound, clean, goes, Bool.false_eq_true,
    if_false]

/-- The plan of a bundle that decodes, with no repetition in progress (R15, R38). -/
theorem planOf_bundle {svc : Bool} {th : Thread} {w : Word} {b : Bundle} (act : th.rep.act = false) (cap : th.rep.cap = false)
    (decodes : decodeBundle svc w = .ok b) (used : repBad th.rep b.v = false) :
    planOf svc th w = .ok ⟨b.a, b.v, b.aw, b.vw, false, false, none, vCharge b.v th.vl.toNat⟩ := by
  have idle : th.rep.current = none := by simp [Rep.current, act]
  simp only [planOf, idle, decodes, used, cap, Bool.false_and, Bool.false_eq_true, if_false]

/-- A bundle that its core can pay for runs its slots, and then stops or takes effect. -/
theorem issueWord_paid {s : State} {w : Word} {p : Plan} (plan : planOf (isSvc s.iss.core) s.iss.snap w = .ok p)
    (paid : p.cost ≤ (s.core s.iss.core).balance.toNat) : issueWord exec w s =
      match runSlots exec p s with
      | .next s => if s.iss.stopped then s.stopIssue (loadDest p.a) else s.commit exec p
      | o => o := by
  have enough : decide ((s.core s.iss.core).balance.toNat < p.cost) = false := decide_eq_false (by omega)
  simp only [issueWord, plan, enough, Bool.and_false, Bool.false_eq_true, if_false] <;> rfl

/-! ### Both slots -/

section
variable {s ua uv : State} {p : Plan} (a : exec p.a (inSlot false p.a p.aw s) = .next ua)
include a

theorem runSlots_stopA (stopped : ua.iss.stopped = true) : runSlots exec p s = .next ua := by
  simp only [runSlots, a, stopped, if_true]
variable (own : p.replay = false) (goes : ua.iss.stopped = false) (v : exec p.v (inSlot true p.v p.vw s) = .next uv)
include own goes v
theorem runSlots_stopV (stopped : uv.iss.stopped = true) : runSlots exec p s = .next uv := by
  simp only [runSlots, a, goes, own, v, stopped, Bool.false_eq_true, if_false, if_true]
variable (goesV : uv.iss.stopped = false)
include goesV
theorem runSlots_defer (migrates : migrates ua.iss.live = true) : runSlots exec p s = .next (deferV p ua) := by
  simp only [runSlots, a, goes, own, v, goesV, migrates, Bool.false_eq_true, if_false, if_true]
theorem runSlots_both (stays : migrates ua.iss.live = false) : runSlots exec p s = exec p.v (inSlot true p.v p.vw ua) := by
  simp only [runSlots, a, goes, own, v, goesV, stays, Bool.false_eq_true, if_false]
end

/-- Settles O50: the turn reaches `issueWord` with a clean fetch and enough balance, and then each way the two slots can end. -/
theorem stepRunsTheBundle : Obligations.StepRunsTheBundle := by
  unfold Obligations.StepRunsTheBundle
  intro s core slot rest th pa b power agenda s0 live woke run pend hold stopq ahead fed act cap mapped way own sound clean w decodes
    used paid s1 p inA inV stops ua hua
  have turn : step s = issueWord exec w s1 := by
    have running : { th with run := .run } = th := by rw [← run]
    have begun : s0.beginIssue core slot th = { s0 with iss := ⟨true, core, slot, th.pc, 0, .nopA 0, 0, false, th, th, th.pc + 8, false,
        false⟩ } := by
      simp only [State.beginIssue, running]
    have fetched : (s0.beginIssue core slot th).fetchBundle = (some w, s1) := by
      rw [begun]
      exact State.fetchBundle_clean ahead rfl mapped way own sound clean
    rw [step_move power agenda]
    refine (turnOf_issues (s := s0) live woke run pend hold stopq fed).trans ?_
    simp only [issueBundle, fetched]
  have ends {u : State} (slots : runSlots exec p s1 = .next u) :
      step s = if u.iss.stopped then .next (u.endIssue { u.iss.live with skipDest := loadDest b.a }) else u.commit exec p := by
    rw [turn, issueWord_paid (planOf_bundle act cap decodes used) paid, slots]
    rfl
  refine ⟨fun stopped => ?_, fun goes uv huv => ⟨fun stopped => ?_, fun goesV migrates resumes => ?_, fun goesV stays t ht => ?_⟩⟩
  · rw [ends (runSlots_stopA hua stopped), if_pos stopped]
  · rw [ends (runSlots_stopV hua rfl goes huv stopped), if_pos stopped]
  · rw [ends (runSlots_defer hua rfl goes huv goesV migrates), resumes, if_neg Bool.false_ne_true]
  · exact ends ((runSlots_both hua rfl goes huv goesV stays).trans ht)

/-- The instruction of an agent program's word that was fetched and decodes (R304). -/
theorem PWord.instr_of_decodes {w : PWord} {i : Instr} (fetched : w.fault = none) (decodes : decodeF w.bits.toNat = .ok i) :
    w.instr = some i := by
  simp [PWord.instr, fetched, decodes, Except.toOption]

/-- Settles O52: each move answers as its own event does, and is passed over when that refuses. -/
theorem stepRunsTheEvent : Obligations.StepRunsTheEvent := by
  unfold Obligations.StepRunsTheEvent
  intro s rest power s0
  refine ⟨fun i t agenda runs => ?_, fun i agenda waits => ?_, fun p w i u t agenda turn fetched decodes runs => ?_,
    fun n agenda => step_move power agenda, fun agenda => step_newCycle power agenda⟩
  · rw [step_move power agenda]
    exact congrArg (orPass s0) runs
  · rw [step_move power agenda]
    exact congrArg (orPass s0) waits
  · rw [step_move power agenda]
    have word : programMove exec p s0 = exec i u := by
      simp only [programMove, turn, PWord.instr_of_decodes fetched decodes]
    exact congrArg (orPass s0) (word.trans runs)

/-! ## What a committed bundle leaves (R15, R113) -/

/-- Where no word is in error, fetching ahead changes nothing (R86, R409). -/
theorem State.fetchAhead_state {s : State} (sound : s.wordErrors = []) (core slot : Nat) (th : Thread) (pc : Word) (n : Nat) :
    (s.fetchAhead core slot th pc n).2 = s := by
  induction n generalizing pc with
  | zero => rfl
  | succ n ih =>
    have same (w : Nat) (who : Word) : s.wordError w who = s := State.wordError_none (by rw [sound]; rfl)
    unfold State.fetchAhead
    simp only [same]
    split
    · split
      · rfl
      · split
        · rfl
        · exact ih (pc + 8)
    · rfl
theorem State.aheadAfter_state {s : State} (sound : s.wordErrors = []) (taken : Bool) (next : Word) : (s.aheadAfter taken next).2 = s := by
  unfold State.aheadAfter
  dsimp only
  split
  · rfl
  · exact State.fetchAhead_state sound ..

/-- A thread with nothing to wait for is left alone. -/
theorem State.pump_idle {s : State} {core slot : Nat} {th : Thread} (live : s.thread (tid core slot) = some th) (pend : th.pend = []) :
    s.pump core slot = s := by
  simp only [State.pump, live, pend]

/-- A thread put back stands in its slot. -/
theorem State.thread_endIssue (s : State) (th : Thread) : (s.endIssue th).thread (tid s.iss.core s.iss.slot) = some th :=
  (State.thread_setThread s _ _ th).trans (if_pos rfl)

/-- The thread that a bundle leaves which has taken effect and waits for nothing. -/
def Issue.committed (p : Plan) (s : State) (ahead : List (Word × Word)) : Thread :=
  { s.iss.live with
    sig := sigAfter p s, pc := s.iss.next, pend := [], exiting := false, ahead := ahead, prepaid := false, skipDest := none }

/-- A bundle that has taken effect and waits for nothing pays its charge and puts its thread back. -/
theorem State.commit_idle {s : State} {p : Plan} (waits : p.waits = false) (replay : p.replay = false) (captured : p.captured = none)
    (pend : s.iss.live.pend = []) (stays : s.iss.live.exiting = false) (unpaid : s.iss.snap.prepaid = false)
    (sound : s.wordErrors = []) : ∃ ahead, s.commit exec p = .next ((s.bump.modCore s.iss.core
      (fun k => { k with balance := k.balance - BitVec.ofNat 16 p.cost })).endIssue (Issue.committed p s ahead)) := by
  rcases h : s.aheadAfter (s.iss.taken || false) s.iss.next with ⟨ahead, t⟩
  obtain rfl : t = s := (congrArg Prod.snd h).symm.trans (State.aheadAfter_state sound _ _)
  refine ⟨ahead, ?_⟩
  simp only [State.commit, waits, replay, captured, unpaid, h, pend, stays, Bool.not_false, Bool.true_or, Bool.false_and,
    Bool.false_eq_true, if_false, if_true, List.map_nil, Rep.capture, ite_self]
  exact congrArg _ (State.pump_idle (State.thread_endIssue _ _) rfl)

/-- The signature of a bundle without SIG has taken the bundle in (R113). -/
theorem sigAfter_state {p : Plan} (h : p.a.isSig = false) (s : State) : (sigAfter p s).state =
    hashBundle s.iss.live.sig.state p.aw p.vw (s.iss.snap.predAt (oct p.aw.toNat 0)) s.iss.taken := by
  simp [sigAfter, h]
theorem sigAfter_sig {p : Plan} (h : p.a.isSig = true) (s : State) : sigAfter p s = s.iss.live.sig := by
  simp [sigAfter, h]

/-! ## Replay (R43, R44, R139) -/

theorem Rep.current_some {r : Rep} {w : Lane} {i : Instr} (act : r.act = true) (at' : r.code[r.pos]? = some w)
    (decodes : decodeV w.toNat = .ok i) : r.current = some (restrideInstr r.iter.toNat r.sd r.sa r.sb i) := by
  simp [Rep.current, act, at', decodes, Except.toOption]
theorem exec_replayIssue {s : State} {i : Instr} (active : s.iss.active = true) (current : s.iss.snap.rep.current = some i) :
    exec .replayIssue s = .next { s with iss := { s.iss with instr := i, word := vWord i, vslot := true } } := by
  change execReplayIssue s = _
  simp only [execReplayIssue, active, current]
/-- The last captured instruction of the last iteration ends the replay. -/
theorem exec_replayComplete {s : State} (active : s.iss.active = true) (act : s.iss.live.rep.act = true)
    (last : s.iss.live.rep.pos + 1 = s.iss.live.rep.code.length) (final : s.iss.live.rep.iter.toNat + 1 = s.iss.live.rep.count.toNat) :
    exec .replayComplete s = .next (live (fun th => { th with rep := { th.rep with pos := 0, iter := 0, act := false } }) s) := by
  have atEnd : s.iss.live.rep.atEnd = true := by simp [Rep.atEnd, act, last, final]
  have ended : s.iss.live.rep.advance = { s.iss.live.rep with pos := 0, iter := 0, act := false } := by
    simp [Rep.advance, last, final]
  change execReplayComplete s = _
  simp only [execReplayComplete, active, atEnd, and_self, if_true, live, ended]

/-- Settles O51: the thread that waits for nothing goes through `commit` unchanged, and replay steps its position. -/
theorem commitAndReplay : Obligations.CommitAndReplay := by
  unfold Obligations.CommitAndReplay
  refine ⟨fun s p waits replay captured pend stays unpaid sound => ?_, fun s w i active =>
    ⟨fun act at' decodes => exec_replayIssue active (Rep.current_some act at' decodes), exec_replayComplete active⟩⟩
  obtain ⟨ahead, done⟩ := State.commit_idle waits replay captured pend stays unpaid sound
  exact ⟨_, _, done, State.thread_endIssue _ _, rfl, rfl, rfl, rfl, rfl, rfl, rfl, rfl, rfl, fun sig => sigAfter_sig sig s,
    fun plain => sigAfter_state plain s, rfl, rfl,
    congrArg Core.balance (State.core_modCore_self s.bump s.iss.core (fun k => { k with balance := k.balance - BitVec.ofNat 16 p.cost }))⟩

/-! ## The guard of a word (R72, R91) -/

/-- The guard field of an A-slot word. -/
def guardOf : Enc → PReg
  | .a w _ => oct w.toNat 0
  | _ => 0
theorem oct_low {n : Nat} {g : PReg} (h : n % 8 = g.val) : oct (BitVec.ofNat 32 n).toNat 0 = g := by
  simp only [oct, BitVec.toNat_ofNat, pow_zero, Nat.div_one, Fin.ext_iff, Fin.ofNat_eq_cast, Fin.val_natCast]
  omega

/-! Every format of the A slot holds the guard in bits 2:0 (R72). -/

theorem guard_packAR (major : Nat) (d a b : Reg) (fn : Nat) (g : PReg) : guardOf (packAR major d a b fn g) = g := oct_low (by omega)
theorem guard_packAI (major d : Nat) (a : Reg) (f : Nat) (x : Option (BitVec 27)) (g : PReg) :
    guardOf (packAI major d a f x g) = g := oct_low (by omega)
theorem guard_packAW (major : Nat) (d : Reg) (f : Nat) (x : Option (BitVec 27)) (g : PReg) :
    guardOf (packAW major d f x g) = g := oct_low (by omega)
theorem guard_packAC (major : Nat) (pd : PReg) (a : Reg) (f : Nat) (x : Option (BitVec 27)) (g : PReg) :
    guardOf (packAC major pd a f x g) = g := oct_low (by omega)
theorem guard_packAP (pd pa pb : PReg) (fn : Nat) (g : PReg) : guardOf (packAP pd pa pb fn g) = g := oct_low (by omega)
theorem guard_packAB (major f : Nat) (x : Option (BitVec 27)) (g : PReg) : guardOf (packAB major f x g) = g := oct_low (by omega)

/-- An instruction that runs under the guard of its word does nothing when that guard reads false. -/
theorem skips {s : State} {f : State → State} {e : Enc} {w : BitVec 32} {x : Option (BitVec 27)} {g : PReg}
    (word : some e = some (.a w x)) (guard : guardOf e = g) (reads : s.iss.snap.predAt (oct w.toNat 0) = false) :
    (.next (guarded g f s) : Out) = .next s := by
  obtain rfl := Option.some.inj word
  obtain rfl : oct w.toNat 0 = g := guard
  rw [guarded_false reads]

/-- Under a false guard every A-slot instruction but SIG does nothing (R91): each runs under the guard that its format holds. -/
theorem exec_guard_false {s : State} {i : Instr} {w : BitVec 32} {x : Option (BitVec 27)} (word : encode i = some (.a w x))
    (plain : i.isSig = false) (reads : s.iss.snap.predAt (oct w.toNat 0) = false) : exec i s = .next s := by
  cases i with
  | nopA => rfl
  | sig => exact absurd plain nofun
  | add | sub | mul | mulh | mulhn | div | divn | rem | remn | and | andn | or | xor | shl | shr | shra | rol | min | max | minn
  | maxn | mov | clz | ctz | popc | sextS8 | sextS16 | sextS32 | zextN8 | zextN16 | zextN32 | sel | fadd | fsub | fmul | fma | fdiv
  | fsqrt | fmin | fmax | fclass | fence | put | arm | cpy | cpys | cpyd | spawn | mig | launch | bar | wlpush | wlpop | nred | rrec
  | emitToken | emitLogp | emitFault | tstate | tsetStop | tsetRun | tsetSetpc | tresumeRetry | tresumeSkip | tresumeGo
  | tresumeStop | tkill | tkillLaunch | fltrd | snuffDefine | snuffFence | snuffRelease | snuffRead | errlog | tlbfill
  | tlbinvPage | tlbinvAsn | tlbinvAll | mbxwait | preempt | savectx | restctx | enbud => exact skips word (guard_packAR ..) reads
  | addi | lea | fcvt | jmpr | callr | crr | crw | crx | ld | st | ldw | ldc | stf | ste | fest | feq | lrw | sch | rcan | twall
  | twany | tfirst | tclr => exact skips word (guard_packAI ..) reads
  | movi | movhi | addpc | loop => exact skips word (guard_packAW ..) reads
  | cmp | cmpi | fcmp => exact skips word (guard_packAC ..) reads
  | pand | por | pxor | pnot => exact skips word (guard_packAP ..) reads
  | br | jmp | call | ret | exit | stepend => exact skips word (guard_packAB ..) reads
  | hmov d src | hadd d a src | hsub d a src | hcmp c d a src => cases src <;> exact nomatch word
  | _ => exact nomatch word

/-! ## An absent source (R18, R91) -/

/-- One register of a list is absent, and every other is present. -/
structure OnlyAbsent (th : Thread) (r : Reg) (l : List Reg) : Prop where
  mem : r ∈ l
  absent : th.isPresent r = false
  others : ∀ q ∈ l, q ≠ r → th.isPresent q = true

theorem OnlyAbsent.of_mem_iff {th : Thread} {r : Reg} {l m : List Reg} (h : OnlyAbsent th r l) (same : ∀ q, q ∈ m ↔ q ∈ l) :
    OnlyAbsent th r m := ⟨(same r).mpr h.mem, h.absent, fun q hq => h.others q ((same q).mp hq)⟩
theorem OnlyAbsent.absentOf {th : Thread} {r : Reg} {l : List Reg} (h : OnlyAbsent th r l) : absentOf th l = some r := by
  obtain ⟨mem, absent, others⟩ := h
  induction l with
  | nil => simp at mem
  | cons q l ih =>
    by_cases e : q = r
    · subst e
      exact List.find?_cons_of_pos (by simp [absent])
    · have later : r ∈ l := by simpa [Ne.symm e] using mem
      refine (List.find?_cons_of_neg (by simp [others q (by simp) e])).trans ?_
      exact ih later (fun p hp => others p (by simp [hp]))

/-- An instruction whose guard reads true and that reads an absent register leaves its bundle unissued and its thread detached
until that register is present (R18). -/
theorem waits {s : State} {g : PReg} {r : Reg} {l : List Reg} {f : State → State} (on : s.iss.snap.predAt g = true)
    (only : OnlyAbsent s.iss.snap r l) :
    (.next (guarded g (needs l f) s) : Out) = .next (stopWait 3 (BitVec.ofNat 64 r.val) s) := by
  rw [guarded_true on, needs, only.absentOf]

/-- Settles O53: a false guard by the format that holds it, an absent source by the form of its instruction. -/
theorem guardsAndPresence : Obligations.GuardsAndPresence := by
  unfold Obligations.GuardsAndPresence
  refine ⟨fun s i w x _ word plain reads => exec_guard_false word plain reads, ?_⟩
  intro s d a b r pd p g t f x y rm c cr o sc i12 i17 i8 i3 full m tag i srcs on mem absent others form
  have only : OnlyAbsent s.iss.snap r srcs := ⟨mem, absent, others⟩
  rcases form with ⟨rfl, hi⟩ | ⟨rfl, hi⟩ | ⟨rfl, hi⟩ | ⟨rfl, hi⟩ | ⟨rfl, rfl⟩ | ⟨rfl, rfl⟩
  · fin_cases hi <;> exact waits on only
  · fin_cases hi <;> exact waits on only
  · have only := only.of_mem_iff (m := [a, d]) (by simp [or_comm])
    fin_cases hi <;> exact waits on only
  · simp only [List.mem_cons, List.not_mem_nil, or_false] at hi
    rcases hi with rfl | copy
    · exact waits on (only.of_mem_iff (m := [a, b, d]) (by simp [or_comm, or_left_comm]))
    · rcases copy with rfl | rfl | rfl <;> exact waits on only
  · exact waits on only
  · exact waits on only

/-! ## What an instruction changes as it issues (R15, R22, R173) -/

/-- A thread's general registers are kept, but for an instruction's destination and for the presence of the register that ARM
names. -/
def KeepsRegs (i : Instr) (th u : Thread) : Prop := ∀ r, i.gdest ≠ some r →
  u.reg r = th.reg r ∧ u.isPoisoned r = th.isPoisoned r ∧ ((∀ g, i ≠ .arm r g) → u.isPresent r = th.isPresent r)

theorem KeepsRegs.rfl {i : Instr} {th : Thread} : KeepsRegs i th th := fun _ _ => ⟨by rfl, by rfl, fun _ => by rfl⟩
theorem KeepsRegs.trans {i : Instr} {th u v : Thread} (h : KeepsRegs i th u) (k : KeepsRegs i u v) : KeepsRegs i th v := by
  intro r other
  obtain ⟨reg, poison, present⟩ := h r other
  obtain ⟨reg', poison', present'⟩ := k r other
  exact ⟨reg'.trans reg, poison'.trans poison, fun free => (present' free).trans (present free)⟩
/-- A thread with the same registers, presence and poison keeps them. -/
theorem KeepsRegs.same {i : Instr} {th u : Thread} (h : u.regs = th.regs ∧ u.present = th.present ∧ u.poison = th.poison) :
    KeepsRegs i th u := by
  obtain ⟨regs, present, poison⟩ := h
  intro r _
  simp only [Thread.reg, Thread.isPoisoned, Thread.isPresent, regs, present, poison, and_self, implies_true]
theorem keepsRegs_toTrap {i : Instr} (th : Thread) (cause : Nat) (took : Bool) : KeepsRegs i th (th.toTrap cause took) :=
  .same ⟨rfl, rfl, rfl⟩
theorem keepsRegs_setPred {i : Instr} (th : Thread) (p : PReg) (b : Bool) : KeepsRegs i th (th.setPred p b) := by
  unfold Thread.setPred
  split
  · exact .rfl
  · exact .same ⟨rfl, rfl, rfl⟩
/-- The destination made absent leaves every other register. -/
theorem keepsRegs_absent {i : Instr} {d : Reg} (dest : i.gdest = some d) (th : Thread) (x : Option Relaxed) :
    KeepsRegs i th { th with relaxed := x, present := setBit th.present d.val false } := by
  intro r other
  have ne : d.val ≠ r.val := fun e => other (Fin.ext e ▸ dest)
  exact ⟨Eq.refl _, Eq.refl _, fun _ => by simp only [Thread.isPresent, setBit_get, ne, and_false, ↓reduceIte]⟩
/-- ARM makes the register that it names absent (R190). -/
theorem keepsRegs_arm (d : Reg) (g : PReg) (th : Thread) :
    KeepsRegs (.arm d g) th { th with present := setBit th.present d.val false } := by
  intro r _
  refine ⟨Eq.refl _, Eq.refl _, fun other => ?_⟩
  have ne : d.val ≠ r.val := fun e => other g (Fin.ext e ▸ Eq.refl _)
  simp only [Thread.isPresent, setBit_get, ne, and_false, ↓reduceIte]
/-- The destination written leaves every other register. -/
theorem keepsRegs_setReg {i : Instr} {d : Reg} (dest : i.gdest = some d) (th : Thread) (v : Word) (p : Bool) :
    KeepsRegs i th (th.setReg d v p) := by
  intro r other
  have ne : d ≠ r := fun e => other (e ▸ dest)
  simp [ne]

/-- The second state differs from the first only in what an instruction may change as it issues: the issue in progress, with its
own thread, messages, cores and clusters, the moves of the cycle, and the counters of numbers; SIG alone may write the log. A word
in error, which MSEND may read (R246), is the one thing else that may change a word's state and the log. -/
structure AtIssue (i : Instr) (s t : State) : Prop where
  sound : s.wordErrors = [] → t.wordErrors = []
  mem : t.mem = s.mem
  marks : s.wordErrors = [] → t.marks = s.marks
  waiters : t.waiters = s.waiters
  threads : t.threads = s.threads
  districts : t.districts = s.districts
  launches : t.launches = s.launches
  chandler : t.chandler = s.chandler
  host : t.host = s.host
  mgmt : t.mgmt = s.mgmt
  ports : t.ports = s.ports
  cycle : t.cycle = s.cycle
  power : t.power = s.power
  snuffs : t.snuffs = s.snuffs
  log : s.wordErrors = [] → i.isSig = false → t.log = s.log
  snap : t.iss.snap = s.iss.snap
  pc : t.iss.pc = s.iss.pc
  core : t.iss.core = s.iss.core
  slot : t.iss.slot = s.iss.slot
  regs : ∀ th, KeepsRegs i th s.iss.snap → KeepsRegs i th s.iss.live → KeepsRegs i th t.iss.live

theorem AtIssue.trans {i : Instr} {s t u : State} (h : AtIssue i s t) (k : AtIssue i t u) : AtIssue i s u where
  sound sound := k.sound (h.sound sound)
  mem := k.mem.trans h.mem
  marks sound := (k.marks (h.sound sound)).trans (h.marks sound)
  waiters := k.waiters.trans h.waiters
  threads := k.threads.trans h.threads
  districts := k.districts.trans h.districts
  launches := k.launches.trans h.launches
  chandler := k.chandler.trans h.chandler
  host := k.host.trans h.host
  mgmt := k.mgmt.trans h.mgmt
  ports := k.ports.trans h.ports
  cycle := k.cycle.trans h.cycle
  power := k.power.trans h.power
  snuffs := k.snuffs.trans h.snuffs
  log sound plain := (k.log (h.sound sound) plain).trans (h.log sound plain)
  snap := k.snap.trans h.snap
  pc := k.pc.trans h.pc
  core := k.core.trans h.core
  slot := k.slot.trans h.slot
  regs th snap live := k.regs th (h.snap ▸ snap) (h.regs th snap live)

/-- A change beside the issue in progress: messages, cores, clusters, moves and counters. -/
theorem AtIssue.beside {i : Instr} {s t : State}
    (h : { t with
      agenda := s.agenda
      fresh := s.fresh
      nextId := s.nextId
      cores := s.cores
      clusters := s.clusters
      flight := s.flight } = s) : AtIssue i s t := by
  have iss : t.iss = s.iss := (congrArg State.iss h :)
  constructor
  case mem => exact (congrArg State.mem h :)
  case sound => exact fun sound => ((congrArg State.wordErrors h :) : t.wordErrors = s.wordErrors).trans sound
  case marks => exact fun _ => (congrArg State.marks h :)
  case waiters => exact (congrArg State.waiters h :)
  case threads => exact (congrArg State.threads h :)
  case districts => exact (congrArg State.districts h :)
  case launches => exact (congrArg State.launches h :)
  case chandler => exact (congrArg State.chandler h :)
  case host => exact (congrArg State.host h :)
  case mgmt => exact (congrArg State.mgmt h :)
  case ports => exact (congrArg State.ports h :)
  case cycle => exact (congrArg State.cycle h :)
  case power => exact (congrArg State.power h :)
  case snuffs => exact (congrArg State.snuffs h :)
  case log => exact fun _ _ => (congrArg State.log h :)
  case regs => exact fun _ _ live => iss ▸ live
  all_goals rw [iss]
/-- A change of the issue in progress that leaves the thread as the slots read it, and the place. -/
theorem AtIssue.issue {i : Instr} {s : State} {j : Issue} (h : j.snap = s.iss.snap ∧ j.pc = s.iss.pc ∧ j.core = s.iss.core ∧
    j.slot = s.iss.slot) (regs : ∀ th, KeepsRegs i th s.iss.snap → KeepsRegs i th s.iss.live → KeepsRegs i th j.live) :
    AtIssue i s { s with iss := j } := by
  obtain ⟨snap, pc, core, slot⟩ := h
  constructor
  case snap | pc | core | slot | regs => assumption
  case sound => exact id
  case log => exact fun _ _ => Eq.refl _
  case marks => exact fun _ => Eq.refl _
  all_goals exact Eq.refl _
theorem AtIssue.rfl {i : Instr} {s : State} : AtIssue i s s := .beside (Eq.refl s)
theorem AtIssue.ite {i : Instr} {s t u : State} {p : Prop} [Decidable p] (h : AtIssue i s t) (k : AtIssue i s u) :
    AtIssue i s (if p then t else u) := by
  split
  · exact h
  · exact k

/-! ### The operations of an issuing instruction -/

section
variable {i : Instr} {s : State}

theorem atIssue_live {f : Thread → Thread} (h : KeepsRegs i s.iss.live (f s.iss.live)) : AtIssue i s (live f s) :=
  .issue ⟨rfl, rfl, rfl, rfl⟩ fun _ _ live => live.trans h
/-- The issuing thread changed beside its general registers. -/
theorem atIssue_liveBeside {f : Thread → Thread} (h : (f s.iss.live).regs = s.iss.live.regs ∧
    (f s.iss.live).present = s.iss.live.present ∧ (f s.iss.live).poison = s.iss.live.poison) : AtIssue i s (live f s) :=
  atIssue_live (.same h)
theorem atIssue_writeReg {d : Reg} {v : Word} {p : Bool} (dest : i.gdest = some d) : AtIssue i s (writeReg d v p s) :=
  atIssue_live (keepsRegs_setReg dest _ v p)
theorem atIssue_raiseFlags {f : FlagBits} : AtIssue i s (raiseFlags f s) := atIssue_liveBeside ⟨rfl, rfl, rfl⟩
theorem atIssue_transfer {a : Word} : AtIssue i s (transfer a s) := .issue ⟨rfl, rfl, rfl, rfl⟩ fun _ _ live => live
theorem atIssue_detach {op : Op} {ph : Phase} : AtIssue i s (detach op ph s) := atIssue_liveBeside ⟨rfl, rfl, rfl⟩
theorem atIssue_stopWait {n : Nat} {w : Word} : AtIssue i s (stopWait n w s) :=
  .issue ⟨rfl, rfl, rfl, rfl⟩ fun _ snap _ => snap.trans (.same ⟨rfl, rfl, rfl⟩)
theorem atIssue_sendTrap {core slot : Nat} {gen : BitVec 12} {launch pc : Word} {took : Bool} {t : Trap} :
    AtIssue i s (s.sendTrap core slot gen launch pc took t) := by
  unfold State.sendTrap
  dsimp only
  split <;> exact .beside rfl
theorem atIssue_trap {t : Trap} : AtIssue i s (trap t s) :=
  atIssue_sendTrap.trans (.issue ⟨rfl, rfl, rfl, rfl⟩ fun _ snap _ => snap.trans (keepsRegs_toTrap _ _ _))
theorem atIssue_trapTook {t : Trap} : AtIssue i s (trapTook t s) :=
  atIssue_sendTrap.trans (.issue ⟨rfl, rfl, rfl, rfl⟩ fun _ _ live => live.trans (keepsRegs_toTrap _ _ _))
theorem atIssue_sendAccess {n : TName} {a : Access} : AtIssue i s (s.sendAccess n a) := .beside rfl
theorem atIssue_modCore {c : Nat} {f : Core → Core} : AtIssue i s (s.modCore c f) := .beside rfl
theorem atIssue_modCluster {c : Nat} {f : Cluster → Cluster} : AtIssue i s (s.modCluster c f) := .beside rfl
theorem atIssue_fresh {n : Nat} : AtIssue i s { s with fresh := n } := .beside rfl
theorem atIssue_bump : AtIssue i s s.bump := .beside rfl

/-! ### Bodies under conditions -/

theorem atIssue_guarded {g : PReg} {f : State → State} (h : AtIssue i s (f s)) : AtIssue i s (guarded g f s) := .ite h .rfl
theorem atIssue_needs {rs : List Reg} {f : State → State} (h : AtIssue i s (f s)) : AtIssue i s (needs rs f s) := by
  unfold needs
  split
  · exact atIssue_stopWait
  · exact h
theorem atIssue_clean {rs : List (Reg × Nat)} {f : State → State} (h : AtIssue i s (f s)) : AtIssue i s (clean rs f s) := by
  unfold clean
  split
  · exact atIssue_trap
  · exact h
theorem atIssue_supervisor {n : Nat} {f : State → State} (h : AtIssue i s (f s)) : AtIssue i s (supervisor n f s) := .ite h atIssue_trap
theorem atIssue_notBusy {f : State → State} (h : AtIssue i s (f s)) : AtIssue i s (notBusy f s) := by
  unfold notBusy
  split
  · exact atIssue_stopWait
  · exact h
theorem atIssue_granted {f : State → State} (h : AtIssue i s (f s)) : AtIssue i s (granted f s) := .ite atIssue_trap h
theorem atIssue_inStep {major : Nat} {v : Word} {f : Nat → Nat → State → State} (h : ∀ b q, AtIssue i s (f b q s)) :
    AtIssue i s (inStep major v f s) := by
  unfold inStep
  split
  · exact h _ _
  · exact atIssue_trap
theorem atIssue_withAddress {k : Kind} {va : Word} {f : Nat → State → State} (h : ∀ pa, AtIssue i s (f pa s)) :
    AtIssue i s (withAddress k va f s) := by
  unfold withAddress
  split
  · exact h _
  · exact atIssue_trap
  · refine AtIssue.trans ?_ atIssue_stopWait
    exact .beside rfl
theorem atIssue_accessAt {f : Form} {size : Nat} {va : Word} {body : Nat → State → State} (h : ∀ pa, AtIssue i s (body pa s)) :
    AtIssue i s (accessAt f size va body s) := by
  refine atIssue_notBusy (.ite atIssue_trap (atIssue_withAddress fun pa => ?_))
  dsimp only
  split
  · exact atIssue_trap
  · exact .ite atIssue_trap (.ite atIssue_trap (h pa))
  · exact .ite atIssue_trap (h pa)
theorem atIssue_withElems {k : Kind} {vas : List Word} {body : List Nat → State → State} (h : ∀ pas, AtIssue i s (body pas s)) :
    AtIssue i s (withElems k body vas s) := by
  induction vas generalizing body with
  | nil => exact h []
  | cons va r ih =>
    refine atIssue_withAddress fun pa => ?_
    split
    · exact atIssue_trap
    · exact .ite (ih fun pas => h (pa :: pas)) atIssue_trap
    · exact ih fun pas => h (pa :: pas)

/-! ### Instruction shapes -/

theorem atIssue_alu {d : Reg} {rs : List Reg} {g : PReg} {f : Thread → Word × FlagBits} (dest : i.gdest = some d) :
    AtIssue i s (alu d rs g f s) := atIssue_guarded (atIssue_needs ((atIssue_writeReg dest).trans atIssue_raiseFlags))
theorem atIssue_setPred {p : PReg} {b : Bool} : AtIssue i s (live (fun th => th.setPred p b) s) := atIssue_live (keepsRegs_setPred _ _ _)
theorem atIssue_compare {p : PReg} {rs : List Reg} {g : PReg} {f : Thread → Bool × FlagBits} :
    AtIssue i s (Machine.compare p rs g f s) := by
  refine atIssue_guarded (atIssue_needs ?_)
  have written := (atIssue_setPred (i := i) (s := s) (p := p) (b := (f s.iss.snap).1)).trans
    (atIssue_raiseFlags (f := (f s.iss.snap).2))
  dsimp only
  split
  · exact written.trans atIssue_trapTook
  · exact written
theorem atIssue_predOp {p : PReg} {g : PReg} {f : Thread → Bool} : AtIssue i s (predOp p g f s) := atIssue_guarded atIssue_setPred
theorem atIssue_jumpTo {a : Reg} {k : State → State} (h : AtIssue i s (k s)) : AtIssue i s (jumpTo a k s) :=
  atIssue_needs (atIssue_clean (.ite (h.trans atIssue_transfer) atIssue_trap))
theorem atIssue_cregWrite {c : Creg} {v : Word} : AtIssue i s (cregWrite c v s) := by
  unfold cregWrite
  cases c with
  | pred | flags | vl | waitbud | space | cpmbx | nrctl | chkid => exact atIssue_liveBeside ⟨rfl, rfl, rfl⟩
  | enctl | dpat | guard => exact atIssue_modCore
  | slot | threadgen | grant | present | poison | energy | repst | tags | netcap | sigst | launchid | mbxst => exact .rfl
theorem atIssue_cregGuarded {c : Creg} {a : Reg} {f : State → State} (h : AtIssue i s (f s)) : AtIssue i s (cregGuarded c a f s) :=
  .ite atIssue_trap (atIssue_clean h)
theorem atIssue_wordForm {f : Form} {a : Reg} {o : MemOrd} {sc : Scope} {off : Imm 3} {dest : Dest} {g : PReg} :
    AtIssue i s (wordForm f a o sc off dest g s) :=
  atIssue_guarded (atIssue_needs (atIssue_clean (atIssue_accessAt fun _ => atIssue_detach)))
theorem atIssue_wordStore {f : Form} {use : Nat} {d a : Reg} {o : MemOrd} {sc : Scope} {off : Imm 3} {dest : Dest} {g : PReg} :
    AtIssue i s (wordStore f use d a o sc off dest g s) :=
  atIssue_guarded (atIssue_needs (atIssue_clean (atIssue_accessAt fun _ => atIssue_detach)))
theorem atIssue_copyIssue {k : CopyKind} {m : CopyMode} {d a b : Reg} {useD useB : Nat} {tag : Fin 64} {g : PReg} :
    AtIssue i s (copyIssue k m d a b useD useB tag g s) :=
  atIssue_guarded (atIssue_needs (atIssue_clean (atIssue_notBusy atIssue_detach)))
theorem atIssue_tagWait {all : Bool} {first : Option Reg} {a : Reg} {g : PReg} (dest : ∀ d, first = some d → i.gdest = some d) :
    AtIssue i s (tagWait all first a g s) := by
  refine atIssue_guarded (atIssue_needs (atIssue_clean (.ite (atIssue_live ?_) atIssue_detach)))
  cases first with
  | none => exact .rfl
  | some d => exact keepsRegs_setReg (dest d rfl) _ _ _
theorem atIssue_emitOutput {a b : Reg} {g : PReg} : AtIssue i s (emitOutput a b g s) := by
  refine atIssue_guarded (atIssue_needs (atIssue_clean (atIssue_inStep fun bi q => .ite atIssue_trap ?_)))
  split
  · exact .ite atIssue_trap atIssue_detach
  · exact atIssue_trap
theorem atIssue_sysIssue {fn : Nat} {sup : Bool} {rs : List Reg} {g : PReg} {f : State → State} (h : AtIssue i s (f s)) :
    AtIssue i s (sysIssue fn sup rs g f s) := by
  refine atIssue_guarded (atIssue_needs (atIssue_clean ?_))
  cases sup with
  | true => exact atIssue_supervisor h
  | false => exact h
theorem atIssue_sysRequest {fn : Nat} {rs : List Reg} {g : PReg} {d : Option Reg} {bad : List Word → Option Nat}
    {op : List Word → SysOp × Word} : AtIssue i s (sysRequest fn rs g d bad op s) := by
  refine atIssue_sysIssue ?_
  dsimp only
  split
  · exact atIssue_trap
  · split
    · exact atIssue_notBusy atIssue_detach
    · exact atIssue_detach
theorem atIssue_matIssue {fn fmt : Nat} {t : Tile} {ops : List (Reg × Nat)} : AtIssue i s (matIssue fn fmt t ops s) :=
  atIssue_needs (atIssue_clean (atIssue_notBusy atIssue_detach))
theorem atIssue_writeVec {v : VReg} {d : VData} {f : FlagBits} : AtIssue i s (writeVec v d f s) := atIssue_liveBeside ⟨rfl, rfl, rfl⟩
theorem atIssue_vecOp {late : Bool} {d : VReg} {t : Ty} {n : Thread → Nat} {f : Thread → Nat → ElemRes} :
    AtIssue i s (vecOp late d t n f s) := atIssue_granted (.ite .rfl (.ite atIssue_detach atIssue_writeVec))
theorem atIssue_reduce {d a : VReg} {t : Ty} {index : Bool} {op : Nat × Nat × FlagBits → Nat × Nat × FlagBits → Nat × Nat × FlagBits} :
    AtIssue i s (reduce d a t index op s) := by
  refine atIssue_granted ?_
  dsimp only
  split
  · exact .rfl
  · exact atIssue_writeVec
theorem atIssue_vecAccess {store : Bool} {v : VReg} {g : Reg} {x : Option VReg} {t : Ty} {imm : BitVec 8} {offset : Thread → Nat → Word} :
    AtIssue i s (vecAccess store v g x t imm offset s) := by
  refine atIssue_granted (atIssue_needs (.ite .rfl (.ite atIssue_trap (.ite atIssue_trap ?_))))
  dsimp only
  split
  · exact atIssue_trap
  · exact .ite atIssue_trap (atIssue_notBusy (atIssue_withElems fun _ => atIssue_detach))
theorem atIssue_repMisuse : AtIssue i s (repMisuse s) :=
  atIssue_trap.trans (.issue ⟨rfl, rfl, rfl, rfl⟩ fun _ _ live => live.trans (.same ⟨rfl, rfl, rfl⟩))

/-- A word in error recorded: only the words' states and the log change beside the issue, and a word was in error. -/
theorem AtIssue.recorded {t : State} (unsound : s.wordErrors ≠ [])
    (h : { t with
      wordErrors := s.wordErrors
      marks := s.marks
      repairs := s.repairs
      log := s.log
      logSeq := s.logSeq
      logLost := s.logLost } = s) : AtIssue i s t := by
  have beside : AtIssue i s { t with
      wordErrors := s.wordErrors
      marks := s.marks
      repairs := s.repairs
      log := s.log
      logSeq := s.logSeq
      logLost := s.logLost } := h.symm ▸ .rfl
  exact { beside with
    sound := fun sound => absurd sound unsound
    marks := fun sound => absurd sound unsound
    log := fun sound => absurd sound unsound }
/-- A read of a word changes nothing beside its issue when the word is sound (R409). -/
theorem atIssue_wordError {w : Nat} {who : Word} : AtIssue i s (s.wordError w who) := by
  cases err : mget s.wordErrors w with
  | none => exact (State.wordError_none err).symm ▸ .rfl
  | some k =>
    have unsound : s.wordErrors ≠ [] := fun sound => nomatch (sound ▸ err : mget [] w = some k)
    unfold State.wordError
    rw [err]
    dsimp only
    split
    · exact .recorded unsound rfl
    · split <;> exact .recorded unsound rfl
theorem atIssue_wordErrors (base : Nat) (l : List Nat) :
    AtIssue i s (l.foldl (fun s k => s.wordError (base + 8 * k) s.issName.word) s) := by
  induction l generalizing s with
  | nil => exact .rfl
  | cons k r ih => exact atIssue_wordError.trans ih
theorem atIssue_msend {a b : Reg} : ∃ t, exec (.msend a b) s = .next t ∧ AtIssue i s t := by
  refine ⟨_, rfl, atIssue_needs (atIssue_clean (atIssue_notBusy (.ite atIssue_trap (.ite atIssue_trap ?_))))⟩
  refine (atIssue_wordErrors (tcmBase s.iss.core + (s.iss.snap.reg b).toNat) (List.range 4)).trans ?_
  exact .ite atIssue_trap atIssue_detach
/-- The log, which SIG alone may write. -/
theorem atIssue_logEntry {v c l : Nat} {r : Bool} {w x : Word} (isSig : i.isSig = true) : AtIssue i s (s.logEntry v r c l w x) := by
  constructor
  case sound => exact id
  case marks => exact fun _ => Eq.refl _
  case log => simp [isSig]
  case regs => exact fun _ _ live => live
  all_goals exact Eq.refl _
theorem atIssue_sig {sg : BitVec 22} {g : PReg} (isSig : i.isSig = true) : ∃ t, exec (.sig sg g) s = .next t ∧ AtIssue i s t := by
  have opened : AtIssue i s (live (fun th => { th with sig := ⟨0, sg, true⟩ }) s) := atIssue_liveBeside ⟨rfl, rfl, rfl⟩
  exact ⟨_, rfl, .ite (opened.trans ((atIssue_logEntry isSig).trans atIssue_trapTook)) opened⟩

/-! ### Every instruction of the two slots -/

/-- An instruction of either slot answers a next state, and changes nothing but what an instruction may as it issues. -/
theorem exec_atIssue {i : Instr} {e : Enc} {s : State} (word : encode i = some e) (slot : ∀ w, e ≠ .f w) :
    ∃ t, exec i s = .next t ∧ AtIssue i s t := by
  cases i with
  | nopA | nopV => exact ⟨_, rfl, .rfl⟩
  | add | sub | mul | mulh | mulhn | div | divn | rem | remn | and | andn | or | xor | shl | shr | shra | rol | min | max | minn
  | maxn | mov | clz | ctz | popc | sextS8 | sextS16 | sextS32 | zextN8 | zextN16 | zextN32 | addi | lea | movi | movhi | addpc
  | fadd | fsub | fmul | fma | fdiv | fsqrt | fmin | fmax | fclass | fcvt => exact ⟨_, rfl, atIssue_alu rfl⟩
  | cmp | cmpi | fcmp => exact ⟨_, rfl, atIssue_compare⟩
  | sel => exact ⟨_, rfl, atIssue_guarded (atIssue_needs (atIssue_writeReg rfl))⟩
  | pand | por | pxor | pnot => exact ⟨_, rfl, atIssue_predOp⟩
  | br | jmp => exact ⟨_, rfl, atIssue_guarded atIssue_transfer⟩
  | call => exact ⟨_, rfl, atIssue_guarded ((atIssue_writeReg rfl).trans atIssue_transfer)⟩
  | loop =>
    exact ⟨_, rfl, atIssue_guarded (atIssue_needs (atIssue_clean (.ite .rfl
      (.ite (atIssue_writeReg rfl) ((atIssue_writeReg rfl).trans atIssue_transfer)))))⟩
  | sig => exact atIssue_sig rfl
  | jmpr | ret => exact ⟨_, rfl, atIssue_guarded (atIssue_jumpTo .rfl)⟩
  | callr => exact ⟨_, rfl, atIssue_guarded (atIssue_jumpTo (atIssue_writeReg rfl))⟩
  | exit => exact ⟨_, rfl, atIssue_guarded (atIssue_notBusy (atIssue_liveBeside ⟨rfl, rfl, rfl⟩))⟩
  | crr => exact ⟨_, rfl, atIssue_guarded (atIssue_writeReg rfl)⟩
  | crw => exact ⟨_, rfl, atIssue_guarded (atIssue_needs (atIssue_cregGuarded atIssue_cregWrite))⟩
  | crx => exact ⟨_, rfl, atIssue_guarded (atIssue_needs (atIssue_cregGuarded (atIssue_cregWrite.trans (atIssue_writeReg rfl))))⟩
  | ld =>
    exact ⟨_, rfl, atIssue_guarded (atIssue_needs (atIssue_clean (atIssue_accessAt fun _ =>
      .ite (.trans (atIssue_live (keepsRegs_absent rfl _ _)) atIssue_sendAccess) atIssue_detach)))⟩
  | st => exact ⟨_, rfl, atIssue_guarded (atIssue_needs (atIssue_clean (atIssue_accessAt fun _ => .ite atIssue_sendAccess atIssue_detach)))⟩
  | ldw | ldc | fest | feq | lrw | rcan => exact ⟨_, rfl, atIssue_wordForm⟩
  | stf | ste | sch => exact ⟨_, rfl, atIssue_wordStore⟩
  | fence => exact ⟨_, rfl, atIssue_guarded (AtIssue.trans (atIssue_liveBeside ⟨rfl, rfl, rfl⟩) atIssue_detach)⟩
  | put => exact ⟨_, rfl, atIssue_guarded (atIssue_needs (atIssue_clean (.ite atIssue_trap (atIssue_notBusy atIssue_detach))))⟩
  | arm => exact ⟨_, rfl, atIssue_guarded (atIssue_live (keepsRegs_arm _ _ _))⟩
  | cpy | cpys | cpyd => exact ⟨_, rfl, atIssue_copyIssue⟩
  | twall | twany => exact ⟨_, rfl, atIssue_tagWait nofun⟩
  | tfirst d => exact ⟨_, rfl, atIssue_tagWait fun _ h => h⟩
  | tclr => exact ⟨_, rfl, atIssue_guarded (atIssue_needs (atIssue_clean atIssue_modCore))⟩
  | spawn =>
    exact ⟨_, rfl, atIssue_guarded (atIssue_needs (atIssue_clean
      (.ite atIssue_trap (.ite atIssue_trap (.ite atIssue_trap atIssue_detach)))))⟩
  | mig =>
    refine ⟨_, rfl, atIssue_guarded (atIssue_needs (atIssue_clean
      (.ite atIssue_trap (.ite atIssue_trap (.ite atIssue_trap (atIssue_notBusy ?_))))))⟩
    split
    · exact atIssue_trap
    · exact atIssue_detach
  | launch => exact ⟨_, rfl, atIssue_guarded (atIssue_needs (atIssue_clean (.ite atIssue_trap (atIssue_notBusy atIssue_detach))))⟩
  | bar => exact ⟨_, rfl, atIssue_guarded (atIssue_needs (atIssue_clean (.ite atIssue_trap atIssue_detach)))⟩
  | wlpush | nred => exact ⟨_, rfl, atIssue_guarded (atIssue_needs (.ite atIssue_trap atIssue_detach))⟩
  | wlpop => exact ⟨_, rfl, atIssue_guarded atIssue_detach⟩
  | rrec =>
    refine ⟨_, rfl, atIssue_guarded (atIssue_needs (atIssue_clean (atIssue_inStep fun _ _ => ?_)))⟩
    split
    · exact .ite atIssue_trap (atIssue_notBusy atIssue_detach)
    · exact atIssue_trap
  | emitToken | emitLogp | emitFault => exact ⟨_, rfl, atIssue_emitOutput⟩
  | stepend => exact ⟨_, rfl, atIssue_guarded (atIssue_inStep fun _ _ => atIssue_detach)⟩
  | tstate | tsetStop | tsetRun | tsetSetpc | tresumeRetry | tresumeSkip | tresumeGo | tresumeStop | tkill | tkillLaunch
  | snuffDefine | snuffFence | snuffRelease | snuffRead | errlog | tlbinvPage | tlbinvAsn | tlbinvAll | preempt | savectx | restctx
  | enbud => exact ⟨_, rfl, atIssue_sysRequest⟩
  | fltrd => exact ⟨_, rfl, atIssue_sysIssue (.ite atIssue_trap (atIssue_writeReg rfl))⟩
  | mbxwait => exact ⟨_, rfl, atIssue_sysIssue (.ite atIssue_trap (.ite (atIssue_writeReg rfl) atIssue_detach))⟩
  | tlbfill =>
    refine ⟨_, rfl, atIssue_sysIssue ?_⟩
    dsimp only
    split
    · exact atIssue_trap
    · exact .ite atIssue_trap (.ite atIssue_trap (atIssue_modCluster.trans (.trans (.ite atIssue_modCore .rfl) atIssue_bump)))
  | vadd | vsub | vmul | vmin | vmax | vabs | vneg | vfma3 | vfma4 | vdiv | vsqrt | vrcp | vrsq | vexp2 | vlog2 | vtanh | vand
  | vor | vxor | vshl | vshr | vshra | vcmp | vsel | vperm => exact ⟨_, rfl, atIssue_vecOp⟩
  | vbcast => exact ⟨_, rfl, atIssue_granted (atIssue_needs atIssue_vecOp)⟩
  | vext => exact ⟨_, rfl, atIssue_granted (.ite (atIssue_writeReg rfl) (atIssue_writeReg rfl))⟩
  | vcvt => exact ⟨_, rfl, atIssue_granted (.ite .rfl atIssue_writeVec)⟩
  | vredadd | vredmax | vargmax => exact ⟨_, rfl, atIssue_reduce⟩
  | vld | vst | vgather | vscatter => exact ⟨_, rfl, atIssue_vecAccess⟩
  | vclaim =>
    exact ⟨_, rfl, .trans (.trans (atIssue_liveBeside ⟨rfl, rfl, rfl⟩) atIssue_fresh) (atIssue_writeReg rfl)⟩
  | vyield => exact ⟨_, exec_vyield s, .ite .rfl (atIssue_liveBeside ⟨rfl, rfl, rfl⟩)⟩
  | rep => exact ⟨_, rfl, .ite atIssue_repMisuse (atIssue_liveBeside ⟨rfl, rfl, rfl⟩)⟩
  | repend => exact ⟨_, rfl, .ite (atIssue_liveBeside ⟨rfl, rfl, rfl⟩) atIssue_repMisuse⟩
  | repgo => exact ⟨_, rfl, .ite atIssue_repMisuse (atIssue_liveBeside ⟨rfl, rfl, rfl⟩)⟩
  | mma | mmaz | mclr | mst | mfmt | mscale | rmap => exact ⟨_, rfl, atIssue_matIssue⟩
  | mrd =>
    exact ⟨_, rfl, atIssue_needs (atIssue_clean
      (.ite atIssue_trap (.ite atIssue_stopWait (.trans (atIssue_writeReg rfl) atIssue_raiseFlags))))⟩
  | mwait => exact ⟨_, rfl, atIssue_needs (atIssue_clean (.ite atIssue_trap (.ite atIssue_detach .rfl)))⟩
  | mcap => exact ⟨_, rfl, atIssue_needs (atIssue_clean (.ite atIssue_trap (.ite atIssue_trap (atIssue_writeReg rfl))))⟩
  | msend => exact atIssue_msend
  | hmov _ src | hadd _ _ src | hsub _ _ src | hcmp _ _ _ src =>
    obtain rfl := Option.some.inj word
    cases src <;> exact absurd rfl (slot _)
  | halt | yield | cnew | cbind | cfork | cfree | cset | cget | cwait | trunc | append | gen | score | choose | beam | spec | post
  | recv | hbr | hjmp | hld | hst =>
    obtain rfl := Option.some.inj word
    exact absurd rfl (slot _)
  | _ => exact nomatch word

end

/-- Settles O54: each operation that an instruction's meaning is built of keeps the frame, so each instruction does. -/
theorem slotFrame : Obligations.SlotFrame := by
  intro s t i e _ word slot sound next
  obtain ⟨u, run, h⟩ := exec_atIssue (s := s) word slot
  obtain rfl : u = t := Host.Outcome.next.inj (run.symm.trans next)
  exact ⟨h.mem, h.marks sound, h.waiters, h.threads, h.districts, h.launches, h.chandler, h.host, h.mgmt, h.ports, h.cycle,
    h.power, h.snuffs, h.log sound, h.snap, h.pc, h.core, h.slot⟩

/-- Settles O55: by the same frame, which keeps every register but the destination in each operation. -/
theorem registerFrame : Obligations.RegisterFrame := by
  intro s t i e r _ word slot fresh next other
  obtain ⟨u, run, h⟩ := exec_atIssue (s := s) word slot
  obtain rfl : u = t := Host.Outcome.next.inj (run.symm.trans next)
  exact h.regs s.iss.live (fresh ▸ .rfl) .rfl r other

end Sys2Proof.Machine

namespace Sys2Proof.Machine

/-! ## Float operations (R49, R102, R103) -/

/-- Bits above a float's width do not count. -/
theorem Fty.val_bits (t : Fty) (n : Nat) : t.val (bits n 0 t.width) = t.val n := by
  have low : bits n 0 t.width = n % 2 ^ t.width := by simp [bits]
  have fields : 0 + (t.prec - 1) ≤ t.width ∧ t.prec - 1 + (t.width - t.prec) ≤ t.width ∧ t.width - 1 + 1 ≤ t.width ∧
      t.prec - 2 + 1 ≤ t.width := by cases t <;> decide
  obtain ⟨fraction, exponent, sign, quiet⟩ := fields
  simp only [Fty.val, low, ← bits_mod fraction, ← bits_mod exponent, ← bits_mod sign, ← bits_mod quiet]

/-! ### The order of the numbers -/

/-- A count of 2^q is the same number. -/
theorem scaled_mul (n : Bool) (m : Nat) {e q : Int} (h : q ≤ e) :
    (scaled n m e q : ℚ) * 2 ^ q = (if n then -1 else 1) * (m : ℚ) * 2 ^ e := by
  have power : (2 : ℚ) ^ e = 2 ^ (e - q).toNat * 2 ^ q := by
    rw [← zpow_natCast, Int.toNat_of_nonneg (by omega), ← zpow_add₀ two_ne_zero, sub_add_cancel]
  rw [power]
  cases n <;> simp [scaled] <;> ring
theorem scaled_zero (n : Bool) (e q : Int) : scaled n 0 e q = 0 := by simp [scaled]

theorem rank_fin_lt (n1 n2 : Bool) (m1 m2 : Nat) (e1 e2 : Int) :
    (Val.fin n1 m1 e1).rank < (Val.fin n2 m2 e2).rank ↔ scaled n1 m1 e1 (min e1 e2) < scaled n2 m2 e2 (min e1 e2) := by
  rw [Val.rank, Val.rank, ← scaled_mul n1 m1 (min_le_left e1 e2), ← scaled_mul n2 m2 (min_le_right e1 e2), WithBot.coe_lt_coe,
    WithTop.coe_lt_coe, mul_lt_mul_iff_left₀ (by positivity), Int.cast_lt]

/-- The model compares two numbers as their ranks stand. -/
theorem cmpVal_neg_iff {a b : Val} (ha : a.isNan = false) (hb : b.isNan = false) : cmpVal a b < 0 ↔ a.rank < b.rank := by
  match a, b, ha, hb with
  | .fin n1 m1 e1, .fin n2 m2 e2, _, _ => rw [rank_fin_lt, cmpVal, sub_neg]
  | .inf true, .inf true, _, _ | .inf true, .inf false, _, _ | .inf false, .inf true, _, _ | .inf false, .inf false, _, _ =>
    simp [cmpVal, Val.rank]
  | .inf true, .fin .., _, _ | .inf false, .fin .., _, _ | .fin .., .inf true, _, _ => simp [cmpVal, Val.rank]
  | .fin .., .inf false, _, _ => simp [cmpVal, Val.rank, -WithBot.coe_top, WithBot.coe_lt_coe]
theorem cmpVal_swap (a b : Val) : cmpVal b a = -cmpVal a b := by
  match a, b with
  | .fin .., .fin .. => simp [cmpVal, min_comm]
  | .inf true, .inf true | .inf true, .inf false | .inf false, .inf true | .inf false, .inf false | .inf true, .fin ..
  | .inf false, .fin .. | .fin .., .inf true | .fin .., .inf false | .inf true, .nan _ | .inf false, .nan _ | .nan _, .inf true
  | .nan _, .inf false | .fin .., .nan _ | .nan _, .fin .. | .nan _, .nan _ => rfl
theorem cmpVal_pos_iff {a b : Val} (ha : a.isNan = false) (hb : b.isNan = false) : 0 < cmpVal a b ↔ b.rank < a.rank := by
  rw [← cmpVal_neg_iff hb ha, cmpVal_swap a b, neg_lt_zero]
theorem Val.eq_zero_of_isZero {v : Val} (h : v.isZero = true) : ∃ n e, v = .fin n 0 e := by
  match v, h with
  | .fin n 0 e, _ => exact ⟨n, e, rfl⟩
theorem cmpVal_zeros {a b : Val} (ha : a.isZero = true) (hb : b.isZero = true) : cmpVal a b = 0 := by
  obtain ⟨n1, e1, rfl⟩ := Val.eq_zero_of_isZero ha
  obtain ⟨n2, e2, rfl⟩ := Val.eq_zero_of_isZero hb
  simp [cmpVal, scaled_zero]

/-! ### FMIN and FMAX (R103) -/

section
variable {t : Fty} {a b : Nat}

theorem pickMax_nan (m : Bool) (h : ((t.val a).isNan || (t.val b).isNan) = true) :
    pickMax t m a b = (t.qnan, flagIf ((t.val a).isSig || (t.val b).isSig) nvFlag) := if_pos h

variable (ha : (t.val a).isNan = false) (hb : (t.val b).isNan = false)
include ha hb

theorem pickMax_number (m : Bool) : pickMax t m a b = (bits (if (if cmpVal (t.val a) (t.val b) = 0 then (t.val a).neg != m
    else if m then decide (0 < cmpVal (t.val a) (t.val b)) else decide (cmpVal (t.val a) (t.val b) < 0)) then a else b) 0 t.width, 0) :=
  if_neg (by simp [ha, hb])
theorem pickMax_operand (m : Bool) : pickMax t m a b = (bits a 0 t.width, 0) ∨ pickMax t m a b = (bits b 0 t.width, 0) := by
  rw [pickMax_number ha hb]
  exact (ite_eq_or_eq _ a b).imp (congrArg fun n => (bits n 0 t.width, 0)) (congrArg fun n => (bits n 0 t.width, 0))
theorem pickMax_of_rank_lt (h : (t.val a).rank < (t.val b).rank) :
    pickMax t false a b = (bits a 0 t.width, 0) ∧ pickMax t true a b = (bits b 0 t.width, 0) := by
  have less := (cmpVal_neg_iff ha hb).mpr h
  simp [pickMax_number ha hb, less, less.ne, less.not_gt]
theorem pickMax_of_rank_gt (h : (t.val b).rank < (t.val a).rank) :
    pickMax t false a b = (bits b 0 t.width, 0) ∧ pickMax t true a b = (bits a 0 t.width, 0) := by
  have more := (cmpVal_pos_iff ha hb).mpr h
  simp [pickMax_number ha hb, more, more.ne', more.not_gt]
theorem pickMax_zeros (za : (t.val a).isZero = true) (zb : (t.val b).isZero = true) :
    pickMax t false a b = (bits (if (t.val a).neg then a else b) 0 t.width, 0) ∧
      pickMax t true a b = (bits (if (t.val a).neg then b else a) 0 t.width, 0) := by
  cases sign : (t.val a).neg <;> simp [pickMax_number ha hb, cmpVal_zeros za zb, sign]
end

/-! ### NaN operands (R49, R102) -/

/-- A NaN on one side or the other. -/
theorem nan_operand {P : Val → Val → Prop} (left : ∀ s b, P (.nan s) b) (right : ∀ a s, P a (.nan s)) {a b : Val}
    (h : a.isNan = true ∨ b.isNan = true) : P a b := by
  match a, b, h with
  | .nan s, b, _ => exact left s b
  | .inf n, .nan s, _ => exact right (.inf n) s
  | .fin n m e, .nan s, _ => exact right (.fin n m e) s
@[simp] theorem addRes_nan_right (rm : Rm) (a : Val) (s : Bool) : addRes rm a (.nan s) = .val (.nan false) := by cases a <;> rfl
@[simp] theorem mulRes_nan_right (a : Val) (s : Bool) : mulRes a (.nan s) = .val (.nan false) := by cases a <;> rfl
@[simp] theorem divRes_nan_right (p : Nat) (a : Val) (s : Bool) : divRes p a (.nan s) = .val (.nan false) := by cases a <;> rfl
theorem addRes_nan (rm : Rm) {a b : Val} (h : a.isNan = true ∨ b.isNan = true) : addRes rm a b = .val (.nan false) :=
  nan_operand (P := fun a b => addRes rm a b = .val (.nan false)) (fun _ _ => rfl) (addRes_nan_right rm) h
theorem mulRes_nan {a b : Val} (h : a.isNan = true ∨ b.isNan = true) : mulRes a b = .val (.nan false) :=
  nan_operand (P := fun a b => mulRes a b = .val (.nan false)) (fun _ _ => rfl) mulRes_nan_right h
theorem divRes_nan (p : Nat) {a b : Val} (h : a.isNan = true ∨ b.isNan = true) : divRes p a b = .val (.nan false) :=
  nan_operand (P := fun a b => divRes p a b = .val (.nan false)) (fun _ _ => rfl) (divRes_nan_right p) h
theorem fmaRes_nan (rm : Rm) {a b : Val} (c : Val) (h : a.isNan = true ∨ b.isNan = true) : fmaRes rm a b c = .val (.nan false) := by
  rw [fmaRes, mulRes_nan h]
  rfl
theorem sqrtRes_nan (p : Nat) {a : Val} (h : a.isNan = true) : sqrtRes p a = .val (.nan false) := by
  match a, h with
  | .nan s, _ => rfl
@[simp] theorem Val.isNan_negate (v : Val) : v.negate.isNan = v.isNan := by cases v <;> rfl
theorem finish_nan (t : Fty) (rm : Rm) (sig : Bool) : finish t rm sig (.val (.nan false)) = (t.qnan, if sig then nvFlag else 0) := by
  simp [finish, rndVal, flagIf]

/-- An infinity times zero (R102). -/
def InfTimesZero (a b : Val) : Prop :=
  (a = .inf true ∨ a = .inf false) ∧ b.isZero = true ∨ (b = .inf true ∨ b = .inf false) ∧ a.isZero = true
/-- A product is invalid only then. -/
theorem mulRes_cases (a b : Val) : InfTimesZero a b ∧ mulRes a b = .invalid ∨ ¬ InfTimesZero a b ∧ ∃ v, mulRes a b = .val v := by
  match a, b with
  | .nan s, b => exact .inr ⟨by simp [InfTimesZero, Val.isZero], _, rfl⟩
  | .inf n, .nan s | .fin n m e, .nan s => exact .inr ⟨by simp [InfTimesZero, Val.isZero], _, rfl⟩
  | .inf n, .inf k => exact .inr ⟨by simp [InfTimesZero, Val.isZero], _, rfl⟩
  | .fin n m e, .fin k l f => exact .inr ⟨by simp [InfTimesZero], _, rfl⟩
  | .inf n, .fin k 0 f | .fin k 0 f, .inf n => exact .inl ⟨by cases n <;> simp [InfTimesZero, Val.isZero], rfl⟩
  | .inf n, .fin k (l + 1) f | .fin k (l + 1) f, .inf n => exact .inr ⟨by simp [InfTimesZero, Val.isZero], _, rfl⟩
theorem fmaRes_nan_addend (rm : Rm) (a b : Val) {c : Val} (h : c.isNan = true) :
    InfTimesZero a b ∧ fmaRes rm a b c = .invalid ∨ ¬ InfTimesZero a b ∧ fmaRes rm a b c = .val (.nan false) := by
  obtain ⟨times, product⟩ | ⟨times, v, product⟩ := mulRes_cases a b
  · exact .inl ⟨times, by rw [fmaRes, product]⟩
  · exact .inr ⟨times, by rw [fmaRes, product]; exact addRes_nan rm (.inr h)⟩

/-! ### Sums and products commute -/

theorem addFin_comm (rm : Rm) (n1 n2 : Bool) (m1 m2 : Nat) (e1 e2 : Int) :
    addFin rm n1 m1 e1 n2 m2 e2 = addFin rm n2 m2 e2 n1 m1 e1 := by
  have zero : (if m1 = 0 && m2 = 0 && n1 == n2 then n1 else rm == .rdn) = (if m2 = 0 && m1 = 0 && n2 == n1 then n2 else rm == .rdn) := by
    by_cases same : n1 = n2
    · simp [same, and_comm]
    · simp [same, Ne.symm same]
  simp only [addFin, min_comm e2 e1, add_comm (scaled n2 _ _ _), zero]
theorem addRes_comm (rm : Rm) (a b : Val) : addRes rm a b = addRes rm b a := by
  match a, b with
  | .nan s, b => rw [addRes_nan_right]; rfl
  | .inf n, .nan s | .fin n m e, .nan s => rfl
  | .inf n, .inf k => cases n <;> cases k <;> rfl
  | .inf n, .fin .. | .fin .., .inf n => rfl
  | .fin .., .fin .. => exact congrArg Res.val (addFin_comm ..)
theorem mulRes_comm (a b : Val) : mulRes a b = mulRes b a := by
  match a, b with
  | .nan s, b => rw [mulRes_nan_right]; rfl
  | .inf n, .nan s | .fin n m e, .nan s => rfl
  | .inf n, .inf k | .inf n, .fin k .. | .fin n .., .inf k => simp only [mulRes, bne_comm]
  | .fin .., .fin .. => simp only [mulRes, bne_comm, Nat.mul_comm, Int.add_comm]
theorem fadd_comm (t : Fty) (rm : Rm) (a b : Nat) : fadd t rm a b = fadd t rm b a := by
  rw [fadd, fadd, addRes_comm, Bool.or_comm]
theorem fmul_comm (t : Fty) (rm : Rm) (a b : Nat) : fmul t rm a b = fmul t rm b a := by
  rw [fmul, fmul, mulRes_comm, Bool.or_comm]

/-- Settles O7: the numbers compare as their ranks do, a NaN operand gives a NaN result before rounding, and only an infinity
times zero is invalid beside a NaN addend. -/
theorem floatNanMinimumAndSymmetry : Obligations.FloatNanMinimumAndSymmetry := by
  unfold Obligations.FloatNanMinimumAndSymmetry
  refine ⟨fun t a b => ?_, fun t rm a b c => ?_⟩
  · intro va vb
    split
    next h => exact fun m => pickMax_nan m h
    next h =>
      obtain ⟨ha, hb⟩ : va.isNan = false ∧ vb.isNan = false := by simpa using h
      refine ⟨pickMax_operand ha hb, pickMax_of_rank_lt ha hb, pickMax_of_rank_gt ha hb, fun ⟨za, zb⟩ signs => ?_⟩
      obtain ⟨smaller, larger⟩ := pickMax_zeros ha hb za zb
      rw [smaller, larger, Fty.val_bits, Fty.val_bits, apply_ite t.val, apply_ite t.val]
      exact ⟨rfl, rfl⟩
  · intro va vb vc nan
    refine ⟨fun h => ?_, fun h => ?_, fun h => ?_, fadd_comm t rm a b, fmul_comm t rm a b⟩
    · have difference : va.isNan = true ∨ vb.negate.isNan = true := by rwa [Val.isNan_negate]
      refine ⟨?_, ?_, ?_, ?_, ?_⟩
      · rw [fadd, addRes_nan rm h, finish_nan]
      · rw [fsub, addRes_nan rm difference, finish_nan]
      · rw [fmul, mulRes_nan h, finish_nan]
      · rw [fdiv, divRes_nan _ h, finish_nan]
      · rw [ffma, fmaRes_nan rm _ h, finish_nan]
    · rw [fsqrt, sqrtRes_nan _ h, finish_nan]
    · intro times
      obtain ⟨invalid, fused⟩ | ⟨valid, fused⟩ := fmaRes_nan_addend rm va vb h
      · rw [ffma, fused, decide_eq_true (show times from invalid), Bool.or_true]
        rfl
      · rw [ffma, fused, decide_eq_false (show ¬ times from valid), Bool.or_false, finish_nan]

/-! ## Conversions between integer types (R54, R106) -/

/-- The integer classes are neither float nor LN. -/
theorem Ty.isInt_class {t : Ty} (int : t.isInt = true) : t.isFloat = false ∧ t.isLn = false := by
  cases t <;> simp [Ty.isInt, Ty.isFloat, Ty.isLn] at int ⊢
theorem Ty.width_pos (t : Ty) : 0 < t.width := by cases t <;> decide
theorem Ty.val_int {t : Ty} (int : t.isInt = true) (n : Nat) : t.val n = .fin (decide (t.int n < 0)) (t.int n).natAbs 0 := by
  simp [Ty.val, Ty.isInt_class int]

/-- An integer inside a type's range is what its low bits denote. -/
theorem Ty.int_emod {t : Ty} {v : Int} (low : rndInt.lo t ≤ v) (high : v ≤ rndInt.hi t) :
    t.int (v % (2 ^ t.width : Nat)).toNat = v := by
  have half : 2 ^ t.width = 2 * 2 ^ (t.width - 1) := by
    rw [Nat.mul_comm, Nat.two_pow_pred_mul_two (Ty.width_pos t)]
  have pos : 0 < 2 ^ (t.width - 1) := Nat.two_pow_pos _
  unfold rndInt.lo at low
  unfold rndInt.hi at high
  unfold Ty.int toSigned
  generalize 2 ^ (t.width - 1) = k at *
  rw [half] at high ⊢
  have bits : (((v % (2 * k : Nat)).toNat % (2 * k) : Nat) : Int) = v % (2 * k : Nat) := by
    have := Int.emod_nonneg v (show ((2 * k : Nat) : Int) ≠ 0 by omega)
    have := Int.emod_lt_of_pos v (show (0 : Int) < (2 * k : Nat) by omega)
    rw [Nat.mod_eq_of_lt (by omega), Int.toNat_of_nonneg (by omega)]
  by_cases signed : t.signed
  · simp only [if_pos signed] at *
    by_cases negative : v < 0
    · have wrapped : v % (2 * k : Nat) = v + (2 * k : Nat) := by
        rw [← Int.add_emod_right, Int.emod_eq_of_lt (by omega) (by omega)]
      rw [if_neg (by omega)]
      omega
    · rw [Int.emod_eq_of_lt (by omega) (by omega)] at *
      rw [if_pos (by omega)]
      omega
  · simp only [if_neg signed] at *
    rw [bits, Int.emod_eq_of_lt low (by omega)]

theorem rndInt.lo_le_hi (t : Ty) : rndInt.lo t ≤ rndInt.hi t := by
  have half : 0 < 2 ^ (t.width - 1) := Nat.two_pow_pos _
  have full : 0 < 2 ^ t.width := Nat.two_pow_pos _
  unfold rndInt.lo rndInt.hi
  split <;> omega

/-- An integer needs no rounding: it is kept, or saturates with SAT. -/
theorem convert_int {dst src : Ty} (rm : Rm) (a : Nat) (toInt : dst.isInt = true) (fromInt : src.isInt = true) :
    convert dst src rm a = (rndInt.clampTo dst (src.int a),
      flagIf (decide (src.int a < rndInt.lo dst) || decide (rndInt.hi dst < src.int a)) satFlag) := by
  have whole : (if src.int a < 0 then -|src.int a| else |src.int a|) = src.int a := by
    split
    · rw [abs_of_neg ‹_›, neg_neg]
    · rw [abs_of_nonneg (by omega)]
  simp [convert, Ty.isInt_class toInt, Ty.val_int fromInt, rndInt, roundAt, whole, flagIf]

/-- Settles O8: the integer converted is the one denoted, clamped to the new type's range, whose low bits denote it. -/
theorem integerConversionSaturates : Obligations.IntegerConversionSaturates := by
  unfold Obligations.IntegerConversionSaturates
  intro dst src rm a toInt fromInt v lo hi r
  have lo_eq : lo = rndInt.lo dst := by simp [lo, rndInt.lo]
  have hi_eq : hi = rndInt.hi dst := by simp [hi, rndInt.hi]
  have range := rndInt.lo_le_hi dst
  rw [lo_eq, hi_eq]
  simp only [r, convert_int rm a toInt fromInt, rndInt.clampTo]
  refine ⟨fun low high => ?_, fun below => ?_, fun above => ?_⟩
  · rw [if_neg low.not_gt, if_neg high.not_gt]
    exact ⟨Ty.int_emod low high, by simp [flagIf, low, high, v]⟩
  · rw [if_pos below]
    exact ⟨Ty.int_emod le_rfl range, by simp [flagIf, v, below]⟩
  · rw [if_neg (range.trans above.le).not_gt, if_pos above]
    exact ⟨Ty.int_emod range le_rfl, by simp [flagIf, above, v]⟩

/-! ## What the end of an issued instruction leaves -/

/-- The clusters, memory, its words' states and the tags of every core stay as they were. -/
structure KeepsUnits (s t : State) : Prop where
  clusters : t.clusters = s.clusters
  mem : t.mem = s.mem
  marks : t.marks = s.marks
  tags : ∀ c, (t.core c).tags = (s.core c).tags

/-- A change outside the cores, the clusters and memory. -/
theorem KeepsUnits.beside {s t : State}
    (h : t.clusters = s.clusters ∧ t.mem = s.mem ∧ t.marks = s.marks ∧ t.cores = s.cores) : KeepsUnits s t := by
  obtain ⟨clusters, mem, marks, cores⟩ := h
  exact ⟨clusters, mem, marks, fun c => by rw [State.core, cores, ← State.core]⟩
theorem KeepsUnits.rfl {s : State} : KeepsUnits s s := .beside ⟨by rfl, by rfl, by rfl, by rfl⟩
theorem KeepsUnits.trans {s t u : State} (h : KeepsUnits s t) (k : KeepsUnits t u) : KeepsUnits s u :=
  ⟨k.clusters.trans h.clusters, k.mem.trans h.mem, k.marks.trans h.marks, fun c => (k.tags c).trans (h.tags c)⟩
theorem KeepsUnits.ite {s t u : State} {p : Prop} [Decidable p] (h : KeepsUnits s t) (k : KeepsUnits s u) :
    KeepsUnits s (if p then t else u) := by
  split
  · exact h
  · exact k
theorem keepsUnits_foldl {α : Type} {f : State → α → State} (h : ∀ s x, KeepsUnits s (f s x)) (l : List α) (s : State) :
    KeepsUnits s (l.foldl f s) := by
  induction l generalizing s with
  | nil => exact .rfl
  | cons x l ih => exact (h s x).trans (ih _)

theorem keepsUnits_setCore {s : State} {c : Nat} {k : Core} (h : k.tags = (s.core c).tags) : KeepsUnits s (s.setCore c k) where
  clusters := rfl
  mem := rfl
  marks := rfl
  tags d := by
    rw [State.core_setCore]
    split
    next e => rw [h, e]
    next => rfl
theorem keepsUnits_send (s : State) (p : Nat) (m : Msg) : KeepsUnits s (s.send p m) := .beside ⟨rfl, rfl, rfl, rfl⟩
theorem keepsUnits_modThread (s : State) (t : Nat) (f : Thread → Thread) : KeepsUnits s (s.modThread t f) := by
  unfold State.modThread
  split
  · exact .beside ⟨rfl, rfl, rfl, rfl⟩
  · exact .rfl
theorem keepsUnits_popPend (s : State) (t : Nat) (f : Thread → Thread) : KeepsUnits s (s.popPend t f) := keepsUnits_modThread ..
theorem keepsUnits_modLaunch (s : State) (l : Nat) (f : Launch → Launch) : KeepsUnits s (s.modLaunch l f) := by
  unfold State.modLaunch
  split
  · exact .beside ⟨rfl, rfl, rfl, rfl⟩
  · exact .rfl
theorem keepsUnits_launchFlags (s : State) (l : Word) (f : FlagBits) : KeepsUnits s (s.launchFlags l f) := by
  unfold State.launchFlags
  split
  · exact keepsUnits_modLaunch ..
  · exact .rfl

theorem keepsUnits_markFault (s : State) (l : Word) : KeepsUnits s (s.markFault l) := by
  unfold State.markFault
  split
  · exact keepsUnits_modLaunch ..
  · exact .rfl

theorem keepsUnits_release (s : State) (n : TName) : KeepsUnits s (s.release n) := by
  unfold State.release
  split
  · split
    · exact keepsUnits_popPend ..
    · exact .rfl
  · exact .rfl
theorem keepsUnits_settleBars (s : State) (launch : Word) : KeepsUnits s (s.settleBars launch) := by
  unfold State.settleBars
  split
  · exact .rfl
  · refine .ite .rfl (.trans ?_ (keepsUnits_foldl (fun s (e : Episode) => keepsUnits_foldl keepsUnits_release e.arrived s) _ _))
    exact (keepsUnits_modLaunch s _ _).trans (.beside ⟨rfl, rfl, rfl, rfl⟩)
theorem keepsUnits_settlePops (s : State) (launch : Word) : KeepsUnits s (s.settlePops launch) := by
  unfold State.settlePops
  refine .ite (keepsUnits_foldl (fun s p => ?_) _ _) .rfl
  split
  · exact keepsUnits_popPend ..
  · exact .rfl
theorem keepsUnits_slotFreed (s : State) (core slot : Nat) : KeepsUnits s (s.slotFreed core slot) := by
  simp only [State.slotFreed]
  split
  · exact .rfl
  · exact (keepsUnits_setCore (by rfl)).trans (keepsUnits_send ..)
theorem keepsUnits_afterLeaving (s : State) (core slot : Nat) (launch : Word) : KeepsUnits s (s.afterLeaving core slot launch) :=
  (keepsUnits_setCore (by rfl)).trans ((keepsUnits_slotFreed _ core slot).trans
    ((keepsUnits_settleBars _ launch).trans (keepsUnits_settlePops _ launch)))
theorem keepsUnits_dropThread (s : State) (t : Nat) : KeepsUnits s (s.dropThread t) := .beside ⟨rfl, rfl, rfl, rfl⟩
theorem keepsUnits_endThread (s : State) (core slot : Nat) : KeepsUnits s (s.endThread core slot) := by
  unfold State.endThread
  split
  · exact .rfl
  · exact (keepsUnits_launchFlags s _ _).trans ((keepsUnits_dropThread _ _).trans (keepsUnits_afterLeaving ..))
theorem keepsUnits_finish (s : State) (t : Nat) (f : Thread → Thread) : KeepsUnits s (s.finish t f) := by
  refine (keepsUnits_popPend s t f).trans ?_
  rw [State.finish]
  split
  · exact .ite (keepsUnits_endThread ..) .rfl
  · exact .rfl
/-- The waits on TAGS that are over end; the tags stay (R200). -/
theorem keepsUnits_checkTags (s : State) (core : Nat) : KeepsUnits s (s.checkTags core) := by
  refine keepsUnits_foldl (fun s slot => ?_) _ _
  split
  · split
    · exact .ite (keepsUnits_finish ..) .rfl
    · exact .rfl
  · exact .rfl

/-! ## The copy engine (R69, R191, R193, R198) -/

theorem State.cluster_eq {s t : State} (h : t.clusters = s.clusters) (c : Nat) : t.cluster c = s.cluster c := by
  rw [State.cluster, h, ← State.cluster]
theorem State.modCopy_eq (s : State) (cl : Nat) (f : CopyEngine → CopyEngine) :
    s.modCopy cl f = s.setCluster cl { s.cluster cl with copy := f (s.cluster cl).copy } := rfl
@[simp] theorem State.copy_modCopy (s : State) (cl : Nat) (f : CopyEngine → CopyEngine) :
    ((s.modCopy cl f).cluster cl).copy = f (s.cluster cl).copy := by
  simp [State.modCopy_eq]
@[simp] theorem State.copy_setCopyRun (s : State) (cl : Nat) (r : CopyRun) :
    ((s.setCopyRun cl r).cluster cl).copy = { (s.cluster cl).copy with run := some r } := State.copy_modCopy ..
@[simp] theorem State.segWord_setCopyRun (s : State) (cl n : Nat) (r : CopyRun) :
    (s.setCopyRun cl r).segWord cl n = s.segWord cl n := by
  simp [State.segWord, State.setCopyRun, State.modCopy_eq]

/-! ### Acceptance and start (R193) -/

/-- Whether a message is a kick of a cluster's copy engine. -/
def kicks (cl : Nat) (m : Msg) : Bool :=
  match m with
  | .copyKick x => clusterOf x.name.core == cl
  | _ => false

theorem execCopyAccept_free {s : State} {id cl : Nat} {c : CopyCmd} {spa dpa : Nat} (msg : s.msg? id = some (.copyKick c))
    (home : clusterOf c.name.core = cl) (first : s.firstArrived (kicks cl) = some id) (sound : (s.cluster cl).copy.marked = false)
    (room : (s.cluster cl).copy.queue.length + b2n (s.cluster cl).copy.run.isSome < 16)
    (drained : s.inFlightStores c.name .system = false)
    (source : if c.srcLen = 0 then spa = 0 else
      s.translateEngine c.name.core c.space c.sup (if c.mode = .fr then .store else .load) c.src = (.ok spa, s))
    (dest : if c.kind = .cpyd ∨ c.srcLen = 0 then dpa = 0 else
      s.translateEngine c.name.core c.space c.sup .store c.dest = (.ok dpa, s))
    (within : s.copyRefused { c with spa := spa, dpa := dpa } = none)
    (settled : ∀ p ∈ s.copySegs { c with spa := spa, dpa := dpa }, ∀ x ∈ (s.cluster p.1).segWait, x.seg ≠ p.2) :
    exec (.copyAccept id) s = .next (((s.take id).modCopy cl
      (fun e => { e with queue := e.queue ++ [{ c with spa := spa, dpa := dpa }] })).accepted c.name) := by
  have spaOf : (if decide (c.srcLen ≠ 0) = true then
      s.translateEngine c.name.core c.space c.sup (if c.mode = .fr then .store else .load) c.src else (.ok 0, s)) = (.ok spa, s) := by
    by_cases empty : c.srcLen = 0
    · rw [if_pos empty] at source
      simp [empty, source]
    · rw [if_neg empty] at source
      simp [empty, source]
  have dpaOf : (if decide (c.kind ≠ .cpyd ∧ c.srcLen ≠ 0) = true then
      s.translateEngine c.name.core c.space c.sup .store c.dest else (.ok 0, s)) = (.ok dpa, s) := by
    by_cases unused : c.kind = .cpyd ∨ c.srcLen = 0
    · rw [if_pos unused] at dest
      rw [if_neg (by simpa [imp_iff_not_or] using unused), dest]
    · rw [if_neg unused] at dest
      rw [if_pos (by simpa using unused), dest]
  have waits : (s.copySegs { c with spa := spa, dpa := dpa }).any
      (fun p => (s.cluster p.1).segWait.any (fun w => w.seg == p.2)) = false := by simpa using settled
  have free : (decide (16 ≤ (s.cluster cl).copy.queue.length + b2n (s.cluster cl).copy.run.isSome) ||
      s.inFlightStores c.name .system) = false := by simp [drained, room]
  change execCopyAccept id s = _
  simp only [execCopyAccept, msg, home]
  refine (if_neg (not_not_intro first)).trans ?_
  simp only [sound, free, spaOf, dpaOf, within, waits, Bool.false_eq_true, if_false]

theorem execCopyStart_oldest {s : State} {cl : Nat} {c : CopyCmd} {q : List CopyCmd} (unit : cl < 2048)
    (idle : (s.cluster cl).copy.run = none) (queue : (s.cluster cl).copy.queue = c :: q) :
    exec (.copyStart cl) s = .next (s.modCopy cl (fun e => { e with
      queue := q
      run := some ⟨c, 0, 0, 2 ^ 20, none, [], [], false, decide (s.dstLen c = 0), false, none⟩ })) := by
  change execCopyStart cl s = _
  simp [execCopyStart, show ¬ 2048 ≤ cl by omega, idle, queue]

/-! ### Completion (R198) -/

theorem copy_endCopy (s : State) (cl : Nat) (r : CopyRun) :
    ((s.endCopy cl r).cluster cl).copy = { (s.cluster cl).copy with run := none, cdone := (s.cluster cl).copy.cdone + 1 } := by
  rw [State.endCopy, State.cluster_eq (keepsUnits_launchFlags _ _ _).clusters, State.copy_modCopy]
theorem mem_endCopy (s : State) (cl : Nat) (r : CopyRun) : (s.endCopy cl r).mem = s.mem := (keepsUnits_launchFlags _ _ _).mem
theorem tags_endCopy (s : State) (cl : Nat) (r : CopyRun) (c : Nat) : ((s.endCopy cl r).core c).tags = (s.core c).tags :=
  (keepsUnits_launchFlags _ _ _).tags c
theorem tags_setTags (s : State) (core : Nat) (mask : Word) : ((s.setTags core mask).core core).tags = (s.core core).tags ||| mask := by
  rw [State.setTags, (keepsUnits_checkTags _ _).tags, State.core_modCore_self]

/-- The tag of a command that has not set it yet is set. -/
def State.tagCopy (s : State) (r : CopyRun) : State :=
  if r.tagged then s else s.setTags r.cmd.name.core (BitVec.twoPow 64 r.cmd.tag.val)
theorem State.tagCopy_cluster (s : State) (r : CopyRun) (cl : Nat) : (s.tagCopy r).cluster cl = s.cluster cl := by
  unfold State.tagCopy
  split
  · rfl
  · exact State.cluster_eq (keepsUnits_checkTags (s.modCore _ _) _).clusters cl
theorem State.tagCopy_mem (s : State) (r : CopyRun) : (s.tagCopy r).mem = s.mem := by
  unfold State.tagCopy
  split
  · rfl
  · exact (keepsUnits_checkTags (s.modCore _ _) _).mem
theorem State.tagCopy_tags {s : State} {r : CopyRun} (h : r.tagged = false) :
    ((s.tagCopy r).core r.cmd.name.core).tags.getLsbD r.cmd.tag.val = true := by
  rw [State.tagCopy, if_neg (by simp [h]), tags_setTags]
  simp

theorem execCopyComplete_moved {s : State} {cl : Nat} {r : CopyRun} (unit : cl < 2048) (run : (s.cluster cl).copy.run = some r)
    (moved : r.moved = true) (held : r.held = none) (parked : r.parked = none)
    (performed : s.postedBy (.engine cl) (fun _ => true) = false) (mailbox : bit r.cmd.cpmbx 0 = false) :
    exec (.copyComplete cl) s = .next ((s.tagCopy r).endCopy cl { r with tagged := true }) := by
  change execCopyComplete cl s = _
  simp [execCopyComplete, show ¬ 2048 ≤ cl by omega, run, moved, held, parked, performed, mailbox, State.tagCopy]

/-! ### Scaled chunks (R69) -/

/-- The field replaced reads as the value given, modulo its width. -/
theorem bits_setFld (w : Word) {lo n : Nat} (v : Nat) (h : lo + n ≤ 64) : bits (setFld w lo n v).toNat lo n = v % 2 ^ n := by
  rw [setFld, BitVec.toNat_ofNat, ← bits_mod h, bits]
  rw [bits, replaced_div _ _ _ (Nat.two_pow_pos _), Nat.mul_add_mod, Nat.mod_mod]

/-- A pairing fault holds the command and writes nothing. -/
theorem pairingFault_frame (s : State) (cl : Nat) (r : CopyRun) (seg next seq pseq j : Nat) (va : Word) :
    KeepsUnits (s.setCopyRun cl { r with held := some ⟨0x16, 0, va⟩ }) (s.pairingFault cl r seg next seq pseq j va) :=
  (keepsUnits_markFault _ r.cmd.launch).trans (keepsUnits_send ..)

/-- The state of a cluster after its segment's NEXTSEQ is set to a number. -/
def State.setNextSeq (s : State) (cl dn : Nat) (w : Word) (v : Nat) : State :=
  s.modCluster cl (fun k => { k with segfmt := if h : dn < 16 then k.segfmt.set dn (setFld w 32 16 v) else k.segfmt })
theorem State.segWord_setNextSeq (s : State) (cl : Nat) {dn : Nat} (w : Word) (v : Nat) (h : dn < 16) :
    (s.setNextSeq cl dn w v).segWord cl dn = setFld w 32 16 v := by
  simp [State.segWord, State.setNextSeq, State.modCluster, h]

section
variable {s : State} {cl pa dn off : Nat} {r : CopyRun} {pseq : BitVec 16} (unit : cl < 2048)
  (run : (s.cluster cl).copy.run = some r) (kind : r.cmd.kind = .cpys) (held : r.held = none) (parked : r.parked = none)
  (moved : r.moved = false) (more : r.done / 4096 < r.cmd.chunks)
  (dest : s.copyAddress r.cmd .store (r.cmd.dest + BitVec.ofNat 64 (r.done / 4096 * 4096)) r.cmd.dest r.cmd.dpa = (.ok pa, s))
  (seg : segOf pa = some (cl, dn, off))
include unit run kind held parked moved more dest seg

theorem execScaledChunkArrival_refused (next : pseq.toNat ≠ fld (s.segWord cl dn) 47 32) :
    exec (.scaledChunkArrival cl pseq) s = .next (s.pairingFault cl r dn (fld (s.segWord cl dn) 47 32)
      ((fld r.cmd.count 47 32 + r.done / 4096) % 2 ^ 16) pseq.toNat (r.done / 4096)
      (r.cmd.dest + BitVec.ofNat 64 (r.done / 4096 * 4096))) := by
  change execScaledChunkArrival cl pseq s = _
  have out : off % 4096 ≠ 0 ∨ (fld r.cmd.count 47 32 + r.done / 4096) % 2 ^ 16 ≠ pseq.toNat ∨
      (fld r.cmd.count 47 32 + r.done / 4096) % 2 ^ 16 ≠ fld (s.segWord cl dn) 47 32 := by omega
  simp only [execScaledChunkArrival, if_neg (show ¬ 2048 ≤ cl by omega), run, kind, held, parked, moved,
    if_neg (show ¬ r.cmd.chunks ≤ r.done / 4096 by omega), dest, seg, if_pos out]
  rfl

/-- A chunk in sequence is written, in a state that the rest of the arrival only counts it in. -/
theorem execScaledChunkArrival_taken (aligned : off % 4096 = 0) (next : pseq.toNat = fld (s.segWord cl dn) 47 32)
    (seq : (fld r.cmd.count 47 32 + r.done / 4096) % 2 ^ 16 = pseq.toNat) {s1 : State} {r1 : CopyRun}
    (fetched : fetchBytes cl (r.cmd.src.toNat + r.done / 4096 * (if r.cmd.fromSeg then 4096 else 4224))
      (if r.cmd.fromSeg then 4096 else 4224) (none, s, r) = (none, s1, r1)) :
    ∃ u : State, exec (.scaledChunkArrival cl pseq) s = .next ((u.setNextSeq cl dn (s.segWord cl dn) (pseq.toNat + 1)).setCopyRun cl
      { r1 with
        done := r1.done + 4096
        srcw := []
        repark := false
        moved := decide (r.cmd.chunks ≤ r.done / 4096 + 1) }) := by
  change ∃ u : State, execScaledChunkArrival cl pseq s = _
  have agree : ¬ (off % 4096 ≠ 0 ∨ (fld r.cmd.count 47 32 + r.done / 4096) % 2 ^ 16 ≠ pseq.toNat ∨
      (fld r.cmd.count 47 32 + r.done / 4096) % 2 ^ 16 ≠ fld (s.segWord cl dn) 47 32) := by omega
  simp only [execScaledChunkArrival, if_neg (show ¬ 2048 ≤ cl by omega), run, kind, held, parked, moved,
    if_neg (show ¬ r.cmd.chunks ≤ r.done / 4096 by omega), dest, seg, if_neg agree, fetched]
  simp only [seq]
  exact ⟨_, rfl⟩
end

/-- Settles O32: each step runs on the premises to one update of the engine, and nothing the steps do besides touches the clusters,
memory or the tags. -/
theorem copyEngineSteps : Obligations.CopyEngineSteps := by
  unfold Obligations.CopyEngineSteps
  intro s id cl c r q spa dpa pa dn off pseq unit e ends
  refine ⟨fun msg home first sound room drained source dest within settled => ?_, fun idle queue => ?_,
    fun run moved held parked performed mailbox => ?_, fun run kind held parked moved more dest seg dnlt => ⟨fun next => ?_, ?_⟩⟩
  · exact execCopyAccept_free msg home first sound room drained source dest within settled
  · exact ⟨_, _, execCopyStart_oldest unit idle queue, State.copy_modCopy .., rfl, rfl, rfl, rfl⟩
  · refine ⟨_, execCopyComplete_moved unit run moved held parked performed mailbox, ?_, ?_, fun untagged => ?_⟩
    · rw [copy_endCopy, State.tagCopy_cluster]
    · rw [mem_endCopy, State.tagCopy_mem]
    · rw [tags_endCopy, State.tagCopy_tags untagged]
  · have frame := pairingFault_frame s cl r dn (fld (s.segWord cl dn) 47 32) ((fld r.cmd.count 47 32 + r.done / 4096) % 2 ^ 16)
      pseq.toNat (r.done / 4096) (r.cmd.dest + BitVec.ofNat 64 (r.done / 4096 * 4096))
    refine ⟨_, execScaledChunkArrival_refused unit run kind held parked moved more dest seg next, frame.mem, frame.marks, ?_⟩
    rw [State.cluster_eq frame.clusters, State.copy_setCopyRun]
    rfl
  · intro aligned next seq s1 r1 fetched
    obtain ⟨u, taken⟩ := execScaledChunkArrival_taken unit run kind held parked moved more dest seg aligned next seq fetched
    refine ⟨_, _, taken, congrArg CopyEngine.run (State.copy_setCopyRun ..), rfl, ?_⟩
    rw [State.segWord_setCopyRun, State.segWord_setNextSeq _ _ _ _ dnlt]
    exact bits_setFld _ _ (by omega)

end Sys2Proof.Machine

namespace Sys2Proof.Machine

/-! ## Fields of words put together (R3) -/

theorem fld_or (v w : Word) (hi lo : Nat) : fld (v ||| w) hi lo = fld v hi lo ||| fld w hi lo := by
  simp only [fld, bits, BitVec.toNat_or, Nat.or_div_two_pow, Nat.or_mod_two_pow]
theorem fld_low {w : Word} {hi n : Nat} (width : hi + 1 = n) : fld w hi 0 = w.toNat % 2 ^ n := by
  simp [fld, bits, width]
/-- A field from a bit up is 0 in a number below that bit's power. -/
theorem fld_high_zero {w : Word} {hi lo : Nat} (h : w.toNat < 2 ^ lo) : fld w hi lo = 0 := by
  rw [fld, bits, Nat.div_eq_of_lt h, Nat.zero_mod]
/-- A number placed above a field is not seen in it. -/
theorem fld_place_above {n hi lo k : Nat} (field : lo ≤ hi) (word : hi < 64) (h : hi < k) : fld (place n k) hi lo = 0 := by
  have multiple : n * 2 ^ k % 2 ^ 64 % 2 ^ (hi + 1) = 0 := by
    rw [Nat.mod_mod_of_dvd _ (Nat.pow_dvd_pow 2 word)]
    exact Nat.mod_eq_zero_of_dvd ((Nat.pow_dvd_pow 2 h).mul_left n)
  rw [fld, place, BitVec.toNat_ofNat, bits_mod (c := hi + 1) (by omega), multiple]
  simp [bits]
/-- A number that ends below a field is not seen in it. -/
theorem fld_place_below {n hi lo k : Nat} (h : n * 2 ^ k < 2 ^ lo) : fld (place n k) hi lo = 0 := by
  have short : n * 2 ^ k % 2 ^ 64 < 2 ^ lo := (Nat.mod_le _ _).trans_lt h
  rw [fld, place, BitVec.toNat_ofNat, bits, Nat.div_eq_of_lt short, Nat.zero_mod]
/-- A number placed in a field reads as itself. -/
theorem fld_place_self {n hi lo : Nat} (field : lo ≤ hi) (word : hi < 64) (h : n < 2 ^ (hi + 1 - lo)) : fld (place n lo) hi lo = n := by
  have fits : n * 2 ^ lo < 2 ^ 64 := by
    calc n * 2 ^ lo < 2 ^ (hi + 1 - lo) * 2 ^ lo := Nat.mul_lt_mul_of_pos_right h (Nat.two_pow_pos _)
      _ = 2 ^ (hi + 1) := by rw [← Nat.pow_add, Nat.sub_add_cancel (by omega)]
      _ ≤ 2 ^ 64 := Nat.pow_le_pow_right (by omega) word
  rw [fld, place, BitVec.toNat_ofNat, Nat.mod_eq_of_lt fits, bits, Nat.mul_div_cancel _ (Nat.two_pow_pos _), Nat.mod_eq_of_lt h]
/-- A word with a field replaced, as a number. -/
theorem setFld_toNat (w : Word) {lo n : Nat} (v : Nat) (h : lo + n ≤ 64) :
    (setFld w lo n v).toNat = w.toNat - bits w.toNat lo n * 2 ^ lo + v % 2 ^ n * 2 ^ lo := by
  rw [setFld, BitVec.toNat_ofNat, Nat.mod_eq_of_lt]
  have top : 2 ^ 64 = 2 ^ (64 - lo - n) * 2 ^ n * 2 ^ lo := by rw [← Nat.pow_add, ← Nat.pow_add]; congr 1; omega
  have word := w.isLt
  rw [top, ← Nat.div_lt_iff_lt_mul (Nat.two_pow_pos _), ← Nat.div_lt_iff_lt_mul (Nat.two_pow_pos _)] at word ⊢
  rwa [bits, replaced_above _ (Nat.two_pow_pos _) (Nat.mod_lt _ (Nat.two_pow_pos _))]
/-- What lies below the field and above it stays, and the field reads as the value (R76, R107). -/
theorem setFld_parts (w : Word) {lo n v : Nat} (h : lo + n ≤ 64) (fits : v < 2 ^ n) :
    (setFld w lo n v).toNat % 2 ^ lo = w.toNat % 2 ^ lo ∧ (setFld w lo n v).toNat / 2 ^ lo % 2 ^ n = v ∧
      (setFld w lo n v).toNat / 2 ^ (lo + n) = w.toNat / 2 ^ (lo + n) := by
  refine ⟨?_, (bits_setFld w v h).trans (Nat.mod_eq_of_lt fits), ?_⟩
  · rw [setFld_toNat w v h]
    exact replaced_mod ..
  · rw [setFld_toNat w v h, Nat.pow_add, ← Nat.div_div_eq_div_mul, ← Nat.div_div_eq_div_mul, Nat.mod_eq_of_lt fits]
    exact replaced_above _ (Nat.two_pow_pos _) fits

/-! ## Bodies of issuing instructions (R18, R20, R91, R401) -/

/-- With their operands present and clean the body of the two checks runs. -/
theorem needs_clean {s : State} {g : PReg} {rs : List Reg} {ops : List (Reg × Nat)} {f : State → State} (h : s.readyClean g rs)
    (operands : ∀ p ∈ ops, p.1 ∈ rs) : needs rs (clean ops f) s = f s :=
  (needs_ready h.1).trans (clean_clean fun p hp => h.2 p.1 (operands p hp))
/-- No access outstanding: the body runs (R18, R20). -/
theorem notBusy_idle {s : State} {f : State → State} (idle : s.iss.snap.relaxed = none) : notBusy f s = f s := by
  simp [notBusy, busyWith, idle]

/-! ### Instructions that read registers and write one (R23, R91) -/

/-- With its registers present under a true guard the instruction writes its value and ORs its flags. -/
theorem next_alu {s : State} {d : Reg} {rs : List Reg} {g : PReg} {f : Thread → Word × FlagBits} {r : Word × FlagBits} {p : Bool}
    (h : s.ready g rs) (value : f s.iss.snap = r) (poison : anyPoison s.iss.snap rs = p) :
    (.next (alu d rs g f s) : Out) = .next (raiseFlags r.2 (writeReg d r.1 p s)) := by
  rw [alu_ready h, value, poison]
/-- Without flags it writes its value alone. -/
theorem next_alu_quiet {s : State} {d : Reg} {rs : List Reg} {g : PReg} {f : Thread → Word × FlagBits} {v : Word} {p : Bool}
    (h : s.ready g rs) (value : f s.iss.snap = (v, 0)) (poison : anyPoison s.iss.snap rs = p) :
    (.next (alu d rs g f s) : Out) = .next (writeReg d v p s) :=
  (next_alu h value poison).trans (by rw [raiseFlags_zero])
theorem anyPoison_one (th : Thread) (a : Reg) : anyPoison th [a] = th.isPoisoned a := Bool.or_false _
theorem anyPoison_two (th : Thread) (a b : Reg) : anyPoison th [a, b] = (th.isPoisoned a || th.isPoisoned b) := by
  simp [anyPoison]

/-! ## Taking an exception (R92, R395, R398) -/

theorem le_foldl_max (l : List Nat) (n : Nat) : n ≤ l.foldl Nat.max n := by
  induction l generalizing n with
  | nil => exact le_rfl
  | cons x l ih => exact (Nat.le_max_left n x).trans (ih _)
/-- A message arrives in a later cycle than it is sent in (R141). -/
theorem State.send_later (s : State) (p : Nat) (m : Msg) :
    ∃ due, s.cycle < due ∧ (s.send p m).flight = s.flight ++ [⟨s.nextId, due, p, m⟩] :=
  ⟨_, (show s.cycle < s.cycle + 1 + Config.delay s.nextId by omega).trans_le (le_foldl_max _ _), rfl⟩

/-- The fields of a trap's record when no region is fenced with it (R398). -/
def State.trapFields (s : State) (core slot : Nat) (gen : BitVec 12) (launch pc : Word) (took : Bool) (t : Trap) : RecordFields :=
  { cls := 1, cause := t.cause, detail := t.detail, svc := isSvc core, took := took, name := TName.bits ⟨core, slot, gen⟩, pc := pc,
    va := t.va, vb := t.vb, launch := launch, time := s.cycle, vc := t.vc }
/-- A trap that fences no region sends its record and does nothing else. -/
theorem State.sendTrap_unfenced {s : State} {core slot : Nat} {gen : BitVec 12} {launch pc : Word} {took : Bool} {t : Trap}
    (open' : t.cause = 0x10 → s.autoRegion (clusterOf core) = none) : s.sendTrap core slot gen launch pc took t =
      s.sendRecord (svcBase + districtOf core) (s.trapFields core slot gen launch pc took t).record := by
  have region : (if t.cause = 0x10 then s.autoRegion (clusterOf core) else none) = none := by
    split
    next poison => exact open' poison
    next => rfl
  simp only [State.sendTrap, region]
  rfl

/-- Word 0 of a record as its fields read (R395). -/
theorem RecordFields.head_fields {f : RecordFields} (cls : f.cls < 16) (cause : f.cause < 256) (detail : f.detail < 2 ^ 16)
    (name : f.name < 2 ^ 29) : fld f.record[0] 63 60 = f.cls ∧ fld f.record[0] 59 52 = f.cause ∧ fld f.record[0] 51 36 = f.detail ∧
      fld f.record[0] 35 34 = 2 * b2n f.eng + b2n f.svc ∧ fld f.record[0] 30 29 = 2 * b2n f.fenced + b2n f.took ∧
      fld f.record[0] 28 0 = f.name := by
  have flag : ∀ b, b2n b ≤ 1 := by decide
  have eng := flag f.eng
  have svc := flag f.svc
  have fenced := flag f.fenced
  have took := flag f.took
  have units : ∀ a b, fld (place (b2n a) 35) 35 34 ||| fld (place (b2n b) 34) 35 34 = 2 * b2n a + b2n b := by decide
  have state : ∀ a b, fld (place (b2n a) 30) 30 29 ||| fld (place (b2n b) 29) 30 29 = 2 * b2n a + b2n b := by decide
  simp only [RecordFields.record_head, fld_or, Nat.mod_eq_of_lt detail, Nat.mod_eq_of_lt name]
  refine ⟨?_, ?_, ?_, ?_, ?_, ?_⟩
  · simp (disch := omega) only [fld_place_self, fld_place_below, Nat.or_zero]
  · simp (disch := omega) only [fld_place_above, fld_place_self, fld_place_below, Nat.or_zero, Nat.zero_or]
  · simp (disch := omega) only [fld_place_above, fld_place_self, fld_place_below, Nat.or_zero, Nat.zero_or]
  · simp (disch := omega) only [fld_place_above, fld_place_below, Nat.or_zero, Nat.zero_or, units]
  · simp (disch := omega) only [fld_place_above, fld_place_below, Nat.or_zero, Nat.zero_or, state]
  · simp (disch := omega) only [fld_place_above, fld_place_self, Nat.zero_or]

theorem isSvc_core {core : Nat} (unit : core < 16384) : isSvc core = false := decide_eq_false (Nat.not_le.mpr unit)
/-- The name of a thread of a compute core: its generation, its core and its slot (R188). -/
theorem TName.bits_core {core slot : Nat} (gen : BitVec 12) (unit : core < 16384) :
    TName.bits ⟨core, slot, gen⟩ = gen.toNat * 2 ^ 17 + core * 8 + slot := by
  simp [TName.bits, coreField, isSvc_core unit]

/-- The record that a trap at issue sends, due in a later cycle. -/
theorem trap_record {t : Trap} {s : State} (open' : t.cause = 0x10 → s.autoRegion (clusterOf s.iss.core) = none) :
    ∃ due, s.cycle < due ∧ (trap t s).flight = s.flight ++ [⟨s.nextId, due, path 1 (svcBase + districtOf s.iss.core) 0,
      .record (svcBase + districtOf s.iss.core)
        (s.trapFields s.iss.core s.iss.slot s.iss.snap.gen s.iss.snap.launchid s.iss.pc false t).record⟩] := by
  have message : (trap t s).flight =
      (s.sendTrap s.iss.core s.iss.slot s.iss.snap.gen s.iss.snap.launchid s.iss.pc false t).flight := rfl
  rw [message, State.sendTrap_unfenced open']
  exact State.send_later ..

/-- Settles O25: the frame of a trap at issue, and the record its message carries, read field by field. -/
theorem takingAnException : Obligations.TakingAnException := by
  unfold Obligations.TakingAnException
  intro s x cause detail unit slot open' t th
  have compute := isSvc_core unit
  have district : districtOf s.iss.core = s.iss.core / 128 := by simp [districtOf, compute]
  have name := TName.bits_core (slot := s.iss.slot) th.gen unit
  have short : TName.bits ⟨s.iss.core, s.iss.slot, th.gen⟩ < 2 ^ 29 := by
    have gen := th.gen.isLt
    omega
  obtain ⟨iss, mem, marks, threads, cores, -, -⟩ := trap_frame x s
  obtain ⟨due, later, sent⟩ := trap_record open'
  obtain ⟨cls, code, what, units, flags, who⟩ := RecordFields.head_fields
    (f := s.trapFields s.iss.core s.iss.slot th.gen th.launchid s.iss.pc false x) (show 1 < 16 by decide) cause detail short
  refine ⟨by rw [iss], by rw [iss]; rfl, by rw [iss], threads, mem, marks, cores, _, _, sent, later, by rw [district], cls, code, what,
    ?_, flags, who.trans name, rfl, rfl, rfl, rfl, rfl, rfl, rfl⟩
  rw [units, State.trapFields, compute]
  rfl

/-! ## The integer group (R94) -/

theorem shAmount_eq (y : Word) : shAmount y = y.toNat % 64 := by simp [shAmount, fld, bits]
theorem shiftLeft_value (x : Word) (n : Nat) : x <<< n = BitVec.ofNat 64 (x.toNat * 2 ^ n) :=
  BitVec.eq_of_toNat_eq (by simp [Nat.shiftLeft_eq])
theorem ushiftRight_value (x : Word) (n : Nat) : x >>> n = BitVec.ofNat 64 (x.toNat / 2 ^ n) :=
  BitVec.eq_of_toNat_eq (by
    rw [BitVec.toNat_ushiftRight, Nat.shiftRight_eq_div_pow, BitVec.toNat_ofNat,
      Nat.mod_eq_of_lt ((Nat.div_le_self _ _).trans_lt x.isLt)])
theorem sshiftRight_value (x : Word) (n : Nat) : x.sshiftRight n = BitVec.ofInt 64 (x.toInt / 2 ^ n) := by
  rw [BitVec.sshiftRight, Int.shiftRight_eq_div_pow]
  norm_cast
theorem rotateLeft_value (x : Word) {n : Nat} (h : n < 64) :
    x.rotateLeft n = BitVec.ofNat 64 (x.toNat * 2 ^ n) ||| BitVec.ofNat 64 (x.toNat / 2 ^ (64 - n)) := by
  rw [BitVec.rotateLeft_eq_rotateLeftAux_of_lt h, BitVec.rotateLeftAux, shiftLeft_value, ushiftRight_value]

/-- The count of leading zeros: the number is below the power it leaves, and has the bit below that. -/
theorem clzBelow_spec (x : Word) (n : Nat) : clzBelow x n ≤ n ∧ x.toNat % 2 ^ n < 2 ^ (n - clzBelow x n) ∧
    (clzBelow x n < n → 2 ^ (n - 1 - clzBelow x n) ≤ x.toNat % 2 ^ n) := by
  induction n with
  | zero => simp [clzBelow, Nat.mod_one]
  | succ n ih =>
    obtain ⟨count, below, above⟩ := ih
    rw [clzBelow, Nat.mod_pow_succ, ← Nat.toNat_testBit, BitVec.testBit_toNat]
    cases x.getLsbD n with
    | true =>
      have low : x.toNat % 2 ^ n < 2 ^ n := Nat.mod_lt _ (Nat.two_pow_pos _)
      simp only [if_true, Bool.toNat_true, Nat.mul_one, Nat.sub_zero, Nat.add_sub_cancel, Nat.pow_succ]
      omega
    | false =>
      simp only [Bool.false_eq_true, if_false, Bool.toNat_false, Nat.mul_zero, Nat.add_zero, Nat.add_sub_add_right, Nat.add_sub_cancel]
      exact ⟨Nat.succ_le_succ count, below, fun inside => by
        simpa [Nat.sub_sub, Nat.add_comm 1] using above (Nat.lt_of_succ_lt_succ inside)⟩
/-- The count of trailing zeros: the bits it counts are 0, the next one is 1. -/
theorem ctzFrom_spec (x : Word) (k n : Nat) : ctzFrom x k n ≤ n ∧ (∀ i, i < ctzFrom x k n → x.getLsbD (k + i) = false) ∧
    (ctzFrom x k n < n → x.getLsbD (k + ctzFrom x k n) = true) := by
  induction n generalizing k with
  | zero => simp [ctzFrom]
  | succ n ih =>
    obtain ⟨count, zeros, one⟩ := ih (k + 1)
    rw [ctzFrom]
    split
    next bit => simpa using bit
    next bit =>
      refine ⟨Nat.succ_le_succ count, fun i hi => ?_, fun inside => ?_⟩
      · cases i with
        | zero => simpa using bit
        | succ i => simpa [Nat.add_assoc, Nat.add_comm 1] using zeros i (Nat.lt_of_succ_lt_succ hi)
      · simpa [Nat.add_assoc, Nat.add_comm 1] using one (Nat.lt_of_succ_lt_succ inside)
theorem mod_two_pow_eq_zero {x : Word} {n : Nat} (zeros : ∀ i, i < n → x.getLsbD i = false) : x.toNat % 2 ^ n = 0 := by
  refine Nat.eq_of_testBit_eq fun i => ?_
  rw [Nat.testBit_mod_two_pow, Nat.zero_testBit, BitVec.testBit_toNat]
  by_cases h : i < n
  · simp [zeros i h]
  · simp [h]
theorem popBelow_eq (x : Word) (n : Nat) : popBelow x n = (List.range n).countP (fun i => x.getLsbD i) := by
  induction n with
  | zero => rfl
  | succ n ih =>
    rw [popBelow, ih, List.range_succ, List.countP_append, Nat.add_comm]
    cases h : x.getLsbD n <;> simp [b2n, h]

/-- A number read as two's complement is its low bits read so. -/
theorem toSigned_setWidth (x : Word) (n : Nat) : toSigned x.toNat n = (x.setWidth n).toInt := by
  rw [toSigned, BitVec.toInt_eq_toNat_cond, BitVec.toNat_setWidth]
  cases n with
  | zero => simp [Nat.mod_one]
  | succ n => simp only [Nat.add_sub_cancel, Nat.pow_succ']; congr 1; simp
theorem extend_signed {t : Ty} (x : Word) (signed : t.signed = true) : t.extend x.toNat = (x.setWidth t.width).signExtend 64 := by
  rw [Ty.extend, if_pos signed, toSigned_setWidth, BitVec.signExtend, wordOf]
theorem extend_unsigned {t : Ty} (x : Word) (unsigned : t.signed = false) : t.extend x.toNat = (x.setWidth t.width).setWidth 64 := by
  rw [Ty.extend, unsigned, if_neg Bool.false_ne_true]
  exact BitVec.eq_of_toNat_eq (by simp)

/-- Settles O1: each instruction's value, in the words of R94. -/
theorem integerGroupResults : Obligations.IntegerGroupResults := by
  unfold Obligations.IntegerGroupResults
  intro s d a b g h x y sh two one
  have first : s.ready g [a] := h.mono (by simp)
  have shift : shAmount y = sh := shAmount_eq y
  have short : shAmount y < 64 := shift ▸ Nat.mod_lt _ (by decide)
  have both {f : Thread → Word × FlagBits} {v : Word} (value : f s.iss.snap = (v, 0)) : (.next (alu d [a, b] g f s) : Out) = two v :=
    next_alu_quiet h value (anyPoison_two ..)
  have single {f : Thread → Word × FlagBits} {v : Word} (value : f s.iss.snap = (v, 0)) : (.next (alu d [a] g f s) : Out) = one v :=
    next_alu_quiet first value (anyPoison_one ..)
  have word {u v : Word} (same : u = v) : ((u, 0) : Word × FlagBits) = (v, 0) := congrArg (·, 0) same
  have whole : x.toNat % 2 ^ 64 = x.toNat := Nat.mod_eq_of_lt x.isLt
  refine ⟨both rfl, both rfl, both rfl, both rfl, both rfl, both rfl, both rfl, both rfl, both rfl, ?_, ?_, ?_, ?_, both rfl, both rfl,
    both rfl, both rfl, single rfl, ?_, ?_, ?_, ?_, ?_, ?_, ?_, ?_, ?_⟩
  · exact both (word (shift ▸ shiftLeft_value x _))
  · exact both (word (shift ▸ ushiftRight_value x _))
  · exact both (word (shift ▸ sshiftRight_value x _))
  · exact both (word (shift ▸ rotateLeft_value x short))
  · obtain ⟨count, below, above⟩ := clzBelow_spec x 64
    rw [whole] at below above
    exact ⟨_, single rfl, count, below, above⟩
  · obtain ⟨count, zeros, one⟩ := ctzFrom_spec x 0 64
    simp only [Nat.zero_add] at zeros one
    exact ⟨_, single rfl, count, mod_two_pow_eq_zero zeros, one⟩
  · exact single (word (congrArg (BitVec.ofNat 64) (popBelow_eq x 64)))
  · exact single (word (extend_signed (t := .s8) x rfl))
  · exact single (word (extend_signed (t := .s16) x rfl))
  · exact single (word (extend_signed (t := .s32) x rfl))
  · exact single (word (extend_unsigned (t := .n8) x rfl))
  · exact single (word (extend_unsigned (t := .n16) x rfl))
  · exact single (word (extend_unsigned (t := .n32) x rfl))

/-! ## Division (R95) -/

theorem tmod_value (x y : Word) : wordOf (x.toInt - x.toInt.tdiv y.toInt * y.toInt) = BitVec.ofInt 64 (x.toInt.tmod y.toInt) := by
  rw [wordOf, Int.tmod_def, Int.mul_comm]

/-- Settles O2: the model's quotient and remainder, split as R95 splits them. -/
theorem divisionResults : Obligations.DivisionResults := by
  unfold Obligations.DivisionResults
  intro s d a b g h x y wrote
  have writes {f : Thread → Word × FlagBits} {v : Word} {fl : FlagBits} (value : f s.iss.snap = (v, fl)) :
      (.next (alu d [a, b] g f s) : Out) = wrote v fl := next_alu h value (anyPoison_two ..)
  split
  next zero =>
    have signed : divSigned x y = ((0, dzFlag), (x, dzFlag)) := if_pos zero
    have unsigned : divUnsigned x y = ((0, dzFlag), (x, dzFlag)) := if_pos zero
    exact ⟨writes (congrArg Prod.fst signed), writes (congrArg Prod.fst unsigned), writes (congrArg Prod.snd signed),
      writes (congrArg Prod.snd unsigned)⟩
  next nonzero =>
    have unsigned : divUnsigned x y = ((BitVec.ofNat 64 (x.toNat / y.toNat), 0), (BitVec.ofNat 64 (x.toNat % y.toNat), 0)) :=
      if_neg nonzero
    refine ⟨writes (congrArg Prod.fst unsigned), writes (congrArg Prod.snd unsigned), ?_⟩
    split
    next overflow =>
      have signed : divSigned x y = ((BitVec.ofNat 64 (2 ^ 63 - 1), satFlag), (0, 0)) := (if_neg nonzero).trans (if_pos overflow)
      exact ⟨writes (congrArg Prod.fst signed), writes (congrArg Prod.snd signed)⟩
    next fits =>
      have signed : divSigned x y = ((wordOf (x.toInt.tdiv y.toInt), 0), (wordOf (x.toInt - x.toInt.tdiv y.toInt * y.toInt), 0)) :=
        (if_neg nonzero).trans (if_neg fits)
      rw [tmod_value] at signed
      exact ⟨writes (congrArg Prod.fst signed), writes (congrArg Prod.snd signed)⟩

/-! ## Constants, addresses, SEL and the predicate instructions (R96, R99, R100) -/

/-- MOVHI: the immediate above the low 20 bits of the old value. -/
theorem movhiValue_eq (old imm : Word) :
    movhiValue old imm = imm * BitVec.ofNat 64 (2 ^ 20) + BitVec.ofNat 64 (old.toNat % 2 ^ 20) := by
  simp [movhiValue, place, fld, bits]
theorem execSel_ready {s : State} {d a b : Reg} {p g : PReg} (h : s.ready g [a, b]) : exec (.sel d a b p g) s = .next
    (if s.iss.snap.predAt p then writeReg d (s.iss.snap.reg a) (s.iss.snap.isPoisoned a) s
      else writeReg d (s.iss.snap.reg b) (s.iss.snap.isPoisoned b) s) := by
  refine congrArg _ ((guarded_ready h).trans ((needs_ready h).trans ?_))
  cases choice : s.iss.snap.predAt p <;> simp [choice]
theorem next_predOp {s : State} {pd g : PReg} {f : Thread → Bool} {v : Bool} (h : s.ready g []) (value : f s.iss.snap = v) :
    (.next (predOp pd g f s) : Out) = .next (live (fun th => th.setPred pd v) s) := by
  rw [predOp, guarded_ready h, value]
/-- A write to p0 is discarded (R24). -/
theorem Thread.setPred_eq (th : Thread) (pd : PReg) (v : Bool) :
    th.setPred pd v = if pd = 0 then th else { th with pred := setBit th.pred pd.val v } :=
  if_congr (Fin.ext_iff (b := 0)).symm rfl rfl

/-- Settles O3: the value of each, by its own equation. -/
theorem immediateSelectAndPredicateResults : Obligations.ImmediateSelectAndPredicateResults := by
  unfold Obligations.ImmediateSelectAndPredicateResults
  refine ⟨fun s d a i j g h => ?_, fun s d a b p pd pa pb g => ⟨execSel_ready, fun h => ?_⟩⟩
  · intro wrote
    have source : s.ready g [a] := h.mono (by simp)
    have old : s.ready g [d] := h.mono (by simp)
    have none : s.ready g [] := h.mono (by simp)
    exact ⟨next_alu_quiet source rfl (anyPoison_one ..), next_alu_quiet source rfl (anyPoison_one ..), next_alu_quiet none rfl rfl,
      next_alu_quiet old (congrArg (·, 0) (movhiValue_eq ..)) (anyPoison_one ..), next_alu_quiet none rfl rfl⟩
  · intro x y wrote
    have writes {f : Thread → Bool} {v : Bool} (value : f s.iss.snap = v) : wrote v (.next (predOp pd g f s)) := by
      rw [next_predOp h value, live, Thread.setPred_eq]
    exact ⟨writes rfl, writes rfl, writes rfl, writes rfl⟩

/-! ## Comparisons (R97, R98, R105) -/

/-- The first poisoned operand among registers of one use is the first poisoned register. -/
theorem poisonOf_use (th : Thread) (rs : List Reg) (use : Nat) :
    poisonOf th (rs.map fun r => (r, use)) = (rs.find? fun r => th.isPoisoned r).map fun r => (r, use) := List.find?_map ..
/-- A comparison writes its predicate and flags; with a poisoned source the thread then detaches, naming the first (R98). -/
theorem next_compare {s : State} {pd : PReg} {rs : List Reg} {g : PReg} {f : Thread → Bool × FlagBits} {r : Bool × FlagBits} {u : State}
    (h : s.ready g rs) (value : f s.iss.snap = r) (after : raiseFlags r.2 (live (fun th => th.setPred pd r.1) s) = u) :
    (.next (Machine.compare pd rs g f s) : Out) = .next ((rs.find? fun r => s.iss.snap.isPoisoned r).elim u
      fun r => trapTook { cause := 0x10, detail := r.val + 32 } u) := by
  rw [compare_ready h, poisonOf_use, value, after]
  cases rs.find? fun r => s.iss.snap.isPoisoned r <;> rfl

/-- Settles O4: the condition on the difference is that on the two integers. -/
theorem comparisonResults : Obligations.ComparisonResults := by
  unfold Obligations.ComparisonResults
  intro s pd a b t i g h cut x wrote ends c legal holds
  have condition (x y : Int) : condHolds c (x - y) = holds x y := by
    cases c with
    | un => exact absurd rfl legal
    | eq => simp [condHolds, holds, sub_eq_zero, Bool.beq_eq_decide_eq]
    | ne => simp [condHolds, holds, sub_eq_zero, bne, Bool.beq_eq_decide_eq]
    | lt | le | gt | ge => simp [condHolds, holds]
  have compares {rs : List Reg} {f : Thread → Bool × FlagBits} {v : Bool} (ready : s.ready g rs) (value : f s.iss.snap = (v, 0)) :
      (.next (Machine.compare pd rs g f s) : Out) = ends rs (wrote v) := by
    rw [next_compare ready value (raiseFlags_zero _)]
    simp only [ends]
    cases rs.find? fun r => s.iss.snap.isPoisoned r <;> rfl
  exact ⟨compares h (congrArg (·, 0) (condition ..)), compares (h.mono (by simp)) (congrArg (·, 0) (condition ..))⟩

/-! ## The scalar float instructions (R101 to R106) -/

/-- Settles O5: each is an instruction that reads registers and writes one, with the format's operation for its value. -/
theorem floatResults : Obligations.FloatResults := by
  unfold Obligations.FloatResults
  intro s d a b rm t dst src g h x y wrote
  have one : s.ready g [a] := h.mono (by simp)
  have two : s.ready g [a, b] := h.mono (by simp +contextual)
  exact ⟨next_alu two rfl rfl, next_alu two rfl rfl, next_alu two rfl rfl, next_alu two rfl rfl, next_alu h rfl rfl, next_alu one rfl rfl,
    next_alu two rfl rfl, next_alu two rfl rfl, next_alu one rfl (anyPoison_one ..)⟩

theorem cmpVal_zero_iff {a b : Val} (ha : a.isNan = false) (hb : b.isNan = false) : cmpVal a b = 0 ↔ a.rank = b.rank := by
  have less := cmpVal_neg_iff ha hb
  have more := cmpVal_pos_iff ha hb
  constructor
  · intro h
    exact le_antisymm (not_lt.mp fun k => (more.mpr k).ne' h) (not_lt.mp fun k => (less.mpr k).ne h)
  · intro h
    exact le_antisymm (not_lt.mp fun k => (more.mp k).ne' h) (not_lt.mp fun k => (less.mp k).ne h)
theorem Val.isSig_of_number {v : Val} (h : v.isNan = false) : v.isSig = false := by cases v <;> simp_all [Val.isNan, Val.isSig]

/-- A comparison follows the order of the numbers (R105). -/
theorem condHolds_cmpVal {a b : Val} (c : Cond) (ha : a.isNan = false) (hb : b.isNan = false) : condHolds c (cmpVal a b) =
    match c with
    | .eq => decide (a.rank = b.rank)
    | .ne => decide (a.rank ≠ b.rank)
    | .lt => decide (a.rank < b.rank)
    | .le => decide (a.rank ≤ b.rank)
    | .gt => decide (a.rank > b.rank)
    | .ge => decide (a.rank ≥ b.rank)
    | .un => false := by
  have equal := cmpVal_zero_iff ha hb
  have less := cmpVal_neg_iff ha hb
  have more := cmpVal_pos_iff ha hb
  cases c with
  | eq => exact decide_eq_decide.mpr equal
  | ne => exact decide_eq_decide.mpr equal.not
  | lt => exact decide_eq_decide.mpr less
  | le => exact decide_eq_decide.mpr (not_lt.symm.trans (more.not.trans not_lt))
  | gt => exact decide_eq_decide.mpr more
  | ge => exact decide_eq_decide.mpr (not_lt.symm.trans (less.not.trans not_lt))
  | un => rfl

/-- With a NaN operand only `ne` and `un` hold; a signaling one, or any under an ordering, raises NV (R105). -/
theorem fcmp_nan {t : Fty} {c : Cond} {a b : Nat} (h : ((t.val a).isNan || (t.val b).isNan) = true) : fcmp t c a b =
    (c == .ne || c == .un, flagIf (c != .eq && c != .ne && c != .un || ((t.val a).isSig || (t.val b).isSig)) nvFlag) := by
  refine (if_pos h).trans ?_
  cases c <;> rfl
theorem fcmp_number {t : Fty} {c : Cond} {a b : Nat} (ha : (t.val a).isNan = false) (hb : (t.val b).isNan = false) :
    fcmp t c a b = (condHolds c (cmpVal (t.val a) (t.val b)), 0) := if_neg (by simp [ha, hb])

/-- Settles O6: the class by the fields that give the value, the comparison by whether an operand is a NaN. -/
theorem fclassAndFcmp : Obligations.FclassAndFcmp := by
  unfold Obligations.FclassAndFcmp
  refine ⟨fun s d a t g h => ?_, fun s pd a b c t g h => ?_⟩
  · intro x sign expo frac n
    have below : frac < 2 ^ (t.prec - 1) := Nat.mod_lt _ (Nat.two_pow_pos _)
    have value : t.val x = if expo = 2 * t.bias + 1 then
        if frac = 0 then .inf (decide sign) else .nan (bits x (t.prec - 2) 1 == 0)
      else if expo = 0 then .fin (decide sign) frac (2 - (t.bias : Int) - t.prec)
      else .fin (decide sign) (2 ^ (t.prec - 1) + frac) ((expo : Int) - t.bias - t.prec + 1) := rfl
    have cls : fclass t x = n := by
      rw [fclass, value]
      clear_value expo frac
      by_cases special : expo = 2 * t.bias + 1
      · by_cases infinite : frac = 0 <;> simp [n, special, infinite]
      · by_cases subnormal : expo = 0
        · subst subnormal
          simp [n, below]
        · simp [n, special, subnormal]
    exact next_alu_quiet h (congrArg (fun k => (BitVec.ofNat 64 (2 ^ k), 0)) cls) (anyPoison_one ..)
  · intro va vb un sig v nv u
    have value : fcmp t c (s.iss.snap.num a) (s.iss.snap.num b) = (v, if nv then nvFlag else 0) := by
      by_cases nan : un = true
      · refine (fcmp_nan nan).trans ?_
        change (c == .ne || c == .un, flagIf (c != .eq && c != .ne && c != .un || sig) nvFlag) = _
        cases c <;> simp [v, nv, nan, flagIf]
      · have number : va.isNan = false ∧ vb.isNan = false := by simpa [un] using nan
        obtain ⟨ha, hb⟩ := number
        have quiet : sig = false := by simp [sig, Val.isSig_of_number ha, Val.isSig_of_number hb]
        have ordered : un = false := Bool.eq_false_iff.mpr nan
        refine (fcmp_number ha hb).trans ((congrArg (·, 0) (condHolds_cmpVal c ha hb)).trans ?_)
        cases c <;> simp [v, nv, quiet, ordered]
    refine (next_compare h value rfl).trans (congrArg _ ?_)
    cases [a, b].find? fun r => s.iss.snap.isPoisoned r <;> rfl

/-! ## Transfers (R107 to R110, R112) -/

theorem next_jumpTo_aligned {s : State} {g : PReg} {a : Reg} {k : State → State} (h : s.readyClean g [a])
    (aligned : (s.iss.snap.reg a).toNat % 8 = 0) :
    (.next (guarded g (jumpTo a k) s) : Out) = .next (transfer (s.iss.snap.reg a) (k s)) :=
  congrArg _ ((guarded_ready h.1).trans ((needs_clean h (by simp)).trans (if_pos ((fld_low rfl).trans aligned))))
theorem next_jumpTo_misaligned {s : State} {g : PReg} {a : Reg} {k : State → State} (h : s.readyClean g [a])
    (misaligned : (s.iss.snap.reg a).toNat % 8 ≠ 0) :
    (.next (guarded g (jumpTo a k) s) : Out) = .next (trap { cause := 0x11, va := s.iss.snap.reg a } s) :=
  congrArg _ ((guarded_ready h.1).trans ((needs_clean h (by simp)).trans (if_neg ((fld_low rfl).symm ▸ misaligned))))
theorem execLoop_ready {s : State} {a : Reg} {off : Imm 17} {g : PReg} (h : s.readyClean g [a]) : exec (.loop a off g) s = .next (
    if s.iss.snap.reg a = 0 then s
    else if s.iss.snap.reg a = 1 then writeReg a 0 false s
    else transfer (relTarget s.iss.pc off) (writeReg a (s.iss.snap.reg a - 1) false s)) := by
  refine congrArg _ ((guarded_ready h.1).trans ((needs_clean h (by simp)).trans ?_))
  have last : s.iss.snap.reg a - 1 = 0 ↔ s.iss.snap.reg a = 1 := sub_eq_zero
  simp only [last]
  split
  next => rfl
  next =>
    split
    next one => rw [one]; rfl
    next => rfl

/-- Settles O9: the relative targets by definition, JMP by the field it replaces, the jumps by whether the target is aligned. -/
theorem transfers : Obligations.Transfers := by
  unfold Obligations.Transfers
  refine ⟨fun s a off back g h => ?_, fun s a g h => ?_⟩
  · have ready := h.1
    intro n at4
    refine ⟨rfl, congrArg _ (guarded_ready ready), congrArg _ (guarded_ready ready),
      ⟨jmpTarget s.iss.pc off, congrArg _ (guarded_ready ready), ?_⟩, execLoop_ready h⟩
    obtain ⟨ext, field⟩ := off
    cases ext with
    | none => exact setFld_parts s.iss.pc (lo := 3) (n := 22) (by decide) field.isLt
    | some x => exact setFld_parts s.iss.pc (lo := 3) (n := 49) (by decide) (x ++ field).isLt
  · intro target link missed
    have named : s.readyClean g [a] := h.mono (by simp)
    have linked : s.readyClean g [linkReg] := h.mono (by simp [linkReg])
    refine ⟨fun aligned => ⟨next_jumpTo_aligned named aligned, next_jumpTo_aligned named aligned⟩,
      fun misaligned => ⟨next_jumpTo_misaligned named misaligned, next_jumpTo_misaligned named misaligned⟩, ?_⟩
    split
    next aligned => exact next_jumpTo_aligned linked aligned
    next misaligned => exact next_jumpTo_misaligned linked misaligned

/-! ## Block signatures (R114) -/

/-- CAUSE of an error-log entry (R414). -/
theorem logEntry_cause (s : State) {sev cause : Nat} (repair : Bool) (loc : Nat) (who what : Word) (small : cause < 256) :
    ∃ e, (s.logEntry sev repair cause loc who what).log = mset s.log (s.logSeq % 4096) e ∧ fld e[0] 59 52 = cause := by
  refine ⟨_, rfl, ?_⟩
  have below : loc % 2 ^ 32 * 2 ^ 0 < 2 ^ 52 := by omega
  change fld (place 1 63 ||| place sev 61 ||| place (b2n repair) 60 ||| place cause 52 ||| place (loc % 2 ^ 32) 0) 59 52 = cause
  simp (disch := omega) only [fld_or, fld_place_above, fld_place_self, fld_place_below, Nat.or_zero, Nat.zero_or]

/-- A trap after its bundle took effect leaves the thread TRAPPED with TOOK, and memory and the log as they were (R98, R114). -/
theorem trapTook_frame (t : Trap) (s : State) :
    (trapTook t s).iss = { s.iss with live := s.iss.live.toTrap t.cause true } ∧ (trapTook t s).mem = s.mem ∧
      (trapTook t s).marks = s.marks ∧ (trapTook t s).log = s.log := by
  simp only [trapTook, State.sendTrap]
  split <;> simp [State.sendRecord]

theorem sigComputed_eq (st : BitVec 32) : sigComputed st = (st ^^^ (st >>> 22)).setWidth 22 := BitVec.ofNat_toNat ..

/-- Settles O10: SIG opens the block first; a mismatch then logs and traps, which leave the block open. -/
theorem sigChecksTheBlock : Obligations.SigChecksTheBlock := by
  unfold Obligations.SigChecksTheBlock
  intro s sg g old computed t
  have value : sigComputed old.state = computed := sigComputed_eq _
  refine ⟨fun agrees => ?_, fun pending differs => ?_⟩
  · have passes : ¬ (old.pv && sigComputed old.state != old.exp) = true := by
      rw [value]
      rcases agrees with idle | equal <;> simp [*]
    exact congrArg _ (if_neg passes)
  · have fails : (old.pv && sigComputed old.state != old.exp) = true := by simp [value, pending, differs]
    obtain ⟨e, entry, cause⟩ := logEntry_cause t (sev := 2) (cause := 0x13) false (coreLoc s.iss.core) s.issName.word s.iss.pc (by decide)
    refine ⟨_, congrArg Host.Outcome.next (if_pos fails), ?_⟩
    obtain ⟨iss, mem, marks, log⟩ := trapTook_frame
      { cause := 0x13, va := place old.exp.toNat 0, vb := place (sigComputed old.state).toNat 0 }
      (t.logEntry 2 false 0x13 (coreLoc s.iss.core) s.issName.word s.iss.pc)
    exact ⟨by rw [iss]; rfl, by rw [iss]; rfl, mem, marks, e, log.trans entry, cause⟩

/-! ## Launches as they issue (R111, R267, R269 to R274) -/

theorem vecOf_get {α : Type} {n : Nat} (f : Nat → α) (i : Nat) (h : i < n) : (vecOf n f)[i] = f i := by
  simp [vecOf]

/-- What SPAWN and MIG carry is the issuing thread's, with the launch's SPACE (R270). -/
theorem issCarried_fields (mig : Bool) (a b : Word) (s : State) :
    (∀ i (h : i < 10), (issCarried mig a b s).regs[i] = s.iss.snap.regs[i]) ∧
      (∀ i, i < 10 → (issCarried mig a b s).present.getLsbD i = s.iss.snap.present.getLsbD i ∧
        (issCarried mig a b s).poison.getLsbD i = s.iss.snap.poison.getLsbD i) ∧
      (issCarried mig a b s).words.length = if mig then fld a 22 16 else 0 := by
  refine ⟨fun i h => ?_, fun i h => ?_, List.length_replicate ..⟩
  · refine (vecOf_get _ i h).trans ?_
    simp [Thread.reg, show i % 32 = i by omega]
  · simp [issCarried, h]

/-- A carry none of whose words is denied (R146). -/
theorem deniedCarry_none {s : State} {off n : Nat} (allowed : s.iss.snap.priv = true ∨
    ∀ i, i < n → guardAllows (s.core s.iss.core).guards .load (off + 8 * i) = true) : deniedCarry s off n = none := by
  rw [deniedCarry]
  split
  next => rfl
  next user =>
    have allowed := allowed.resolve_left user
    simpa using allowed

/-- The limits of MIG's ga: reserved fields 0, and at most 64 carry words that lie inside the TCM (R270). -/
def MigLimits (x : Word) : Prop := fld x 63 49 = 0 ∧ fld x 31 23 = 0 ∧ fld x 15 14 = 0 ∧ fld x 48 32 % 8 = 0 ∧ fld x 22 16 ≤ 64 ∧
  fld x 48 32 + 8 * fld x 22 16 ≤ 0x18000

section
variable {s : State} {a b : Reg} {g : PReg}

theorem execSpawn_ready (h : s.readyClean g [a, b]) (target : (s.iss.snap.reg a).toNat < 2 ^ 14)
    (entry : (s.iss.snap.reg b).toNat < 2 ^ 56) (aligned : (s.iss.snap.reg b).toNat % 8 = 0) : exec (.spawn a b g) s =
      .next (detach (.spawn (issCarried false (s.iss.snap.reg a) (s.iss.snap.reg b) s)) .drain s) := by
  refine congrArg _ ((guarded_ready h.1).trans ((needs_clean h (by simp)).trans ?_))
  simp [fld_high_zero target, fld_high_zero entry, fld_low (hi := 2) rfl, aligned]
theorem execMig_ready (h : s.readyClean g [a, b]) (limits : MigLimits (s.iss.snap.reg a)) (entry : (s.iss.snap.reg b).toNat < 2 ^ 56)
    (aligned : (s.iss.snap.reg b).toNat % 8 = 0) (idle : s.iss.snap.relaxed = none)
    (allowed : deniedCarry s (fld (s.iss.snap.reg a) 48 32) (fld (s.iss.snap.reg a) 22 16) = none) : exec (.mig a b g) s =
      .next (detach (.mig (issCarried true (s.iss.snap.reg a) (s.iss.snap.reg b) s)) .drain s) := by
  refine congrArg _ ((guarded_ready h.1).trans ((needs_clean h (by simp)).trans ?_))
  obtain ⟨high, middle, low, words, count, inside⟩ := limits
  simp [high, middle, low, words, count.not_gt, inside.not_gt, fld_high_zero entry, fld_low (hi := 2) rfl, aligned, notBusy_idle idle,
    allowed]
theorem execLaunch_ready (h : s.readyClean g [a]) (aligned : (s.iss.snap.reg a).toNat % 64 = 0) (idle : s.iss.snap.relaxed = none) :
    exec (.launch a g) s = .next (detach (.launch (s.iss.snap.reg a) []) .drain s) := by
  refine congrArg _ ((guarded_ready h.1).trans ((needs_clean h (by simp)).trans ?_))
  simp [aligned, notBusy_idle idle]
theorem execBar_ready {sc : Scope} (h : s.readyClean g [a]) (id : (s.iss.snap.reg a).toNat < 2 ^ 16) :
    exec (.bar sc a g) s = .next (detach (.bar sc (BitVec.ofNat 16 (s.iss.snap.reg a).toNat)) .drain s) := by
  refine congrArg _ ((guarded_ready h.1).trans ((needs_clean h (by simp)).trans ?_))
  simp [fld_high_zero id]
theorem execWlpush_ready (h : s.ready g [a]) (entry : s.iss.snap.reg a ≠ 0) :
    exec (.wlpush a g) s = .next (detach (.wlpush (s.iss.snap.reg a) (s.iss.snap.isPoisoned a)) .drain s) := by
  refine congrArg _ ((guarded_ready h).trans ((needs_ready h).trans ?_))
  exact if_neg entry
theorem execNred_ready {sc : Scope} (h : s.ready g [a, b]) (count : fld s.iss.snap.nrctl 55 40 ≠ 0)
    (reg : fld s.iss.snap.nrctl 36 32 ≠ 31) (owner : fld s.iss.snap.nrctl 2 0 ≠ 7) : exec (.nred sc a b g) s =
      .next (detach (.nred sc (s.iss.snap.reg a) (s.iss.snap.reg b) (s.iss.snap.isPoisoned a || s.iss.snap.isPoisoned b)
        s.iss.snap.nrctl) .drain s) := by
  refine congrArg _ ((guarded_ready h).trans ((needs_ready h).trans ?_))
  exact if_neg (by simp [keyCount, keyReg, keyOwner, count, reg, owner])
end

/-- Settles O36: each instruction past its limits, and what the two that send a thread carry. -/
theorem launchInstructionsIssue : Obligations.LaunchInstructionsIssue := by
  unfold Obligations.LaunchInstructionsIssue
  intro s d a b sc g h clean th x y waits carried
  have source : s.ready g [a] := h.mono (by simp)
  have target : fld x 13 0 = x.toNat % 2 ^ 14 := fld_low rfl
  refine ⟨fun clean low entry aligned => ?_, fun clean high middle low words count inside entry aligned idle allowed => ?_,
    fun clean aligned idle => ?_, fun clean id => ?_, fun entry => ?_, ?_, fun count reg owner => ?_, fun idle => ?_⟩
  · obtain ⟨regs, flags, length⟩ := issCarried_fields false x y s
    exact ⟨_, execSpawn_ready clean low entry aligned, rfl, target, rfl, regs, flags, rfl, rfl, rfl, rfl, rfl, length, rfl, rfl, rfl⟩
  · obtain ⟨regs, flags, length⟩ := issCarried_fields true x y s
    exact ⟨_, execMig_ready clean ⟨high, middle, low, words, count, inside⟩ entry aligned idle (deniedCarry_none allowed), rfl,
      target, rfl, regs, flags, rfl, rfl, rfl, rfl, rfl, length, rfl, rfl, rfl⟩
  · exact execLaunch_ready (clean.mono (by simp)) aligned idle
  · exact execBar_ready (clean.mono (by simp)) id
  · exact execWlpush_ready source entry
  · exact congrArg _ (guarded_ready h)
  · exact execNred_ready h count reg owner
  · exact congrArg _ ((guarded_ready h).trans (notBusy_idle idle))

end Sys2Proof.Machine

namespace Sys2Proof.Machine

/-! ## Vector instructions under a grant (R27, R119 to R121) -/

/-- With lanes granted the body runs. -/
theorem granted_some {s : State} {f : State → State} (h : s.iss.snap.grant ≠ 0) : granted f s = f s := if_neg h

section
variable {s : State} {d : VReg} {t : Ty} {f : Thread → Nat → ElemRes} {e : Nat → ElemRes} (grant : s.iss.snap.grant ≠ 0)
  (count : vcount t s.iss.snap ≠ 0) (elements : f s.iss.snap = e)
include grant count elements

/-- An instruction with elements to act on writes them with their flags, all taken from the thread as it stood at issue. -/
theorem vecOp_writes : vecOp false d t (vcount t) f s = writeVec d (mapElems t (vcount t s.iss.snap) (s.iss.snap.vget d) e).1
    (mapElems t (vcount t s.iss.snap) (s.iss.snap.vget d) e).2 s := by
  subst elements
  exact (granted_some grant).trans (if_neg count)
/-- A long-latency one detaches on the unit that holds them. -/
theorem vecOp_waits : vecOp true d t (vcount t) f s =
    detach (.unit ⟨d, (mapElems t (vcount t s.iss.snap) (s.iss.snap.vget d) e).1.lanes,
      (mapElems t (vcount t s.iss.snap) (s.iss.snap.vget d) e).1.poison,
      (mapElems t (vcount t s.iss.snap) (s.iss.snap.vget d) e).2⟩) .drain s := by
  subst elements
  exact (granted_some grant).trans (if_neg count)
end

/-- Settles O15: each is a vector operation that a unit performs, with the format's operation on its elements. -/
theorem longLatencyVectorIssue : Obligations.LongLatencyVectorIssue := by
  unfold Obligations.LongLatencyVectorIssue
  intro s d a b t rm grant count th waits x p one
  have late {f : Thread → Nat → ElemRes} {e : Nat → ElemRes} (elements : f s.iss.snap = e) :
      (.next (vecOp true d t (vcount t) f s) : Out) = waits e := congrArg _ (vecOp_waits grant count.ne' elements)
  exact ⟨late rfl, late rfl, late rfl, late rfl, late rfl, late rfl, late rfl⟩

/-- Settles O13: each is a vector operation performed at once; VSEL chooses between elements where the model chooses between
registers, and VPERM and the arithmetic shift are the model's in other words. -/
theorem vectorElementwiseResults : Obligations.VectorElementwiseResults := by
  unfold Obligations.VectorElementwiseResults
  intro s d a b c r t rm cond grant present count th e p wrote one two three
  have writes {f : Thread → Nat → ElemRes} {g : Nat → ElemRes} (elements : f s.iss.snap = g) :
      (.next (vecOp false d t (vcount t) f s) : Out) = wrote g := congrArg _ (vecOp_writes grant count.ne' elements)
  refine ⟨writes rfl, writes rfl, writes rfl, writes rfl, writes rfl, writes rfl, writes rfl, writes rfl, writes rfl, writes rfl,
    writes rfl, writes rfl, writes rfl, writes rfl, writes ?_, writes rfl, writes ?_, writes ?_, ?_⟩
  · funext i
    simp [vshAmount, e, p, th]
  · funext i
    by_cases zero : (s.iss.snap.vget c).elem t i = 0 <;> simp [zero, e, p, th]
  · funext i
    by_cases inside : (s.iss.snap.vget b).elem t i < vcount t s.iss.snap <;> simp [inside, e, p, th]
  · exact (congrArg _ ((granted_some grant).trans (needs_present (by simpa using present)))).trans (writes rfl)

/-! ## Vector memory (R135, R136) -/

/-- An element that reaches memory goes on to the next (R138). -/
theorem withElems_cons {k : Kind} {va : Word} {pa : Nat} {vas : List Word} {body : List Nat → State → State} {s : State}
    (there : s.exists false pa)
    (mapped : s.translate s.iss.core s.iss.slot s.iss.snap.space s.iss.snap.priv k va = .ok pa) :
    withElems k body (va :: vas) s = withElems k (fun l => body (pa :: l)) vas s := by
  rw [withElems, withAddress_ok mapped]
  unfold State.exists at there
  cases region : regionOf pa with
  | absent => simp only [region] at there
  | peer p =>
    simp only [region] at there ⊢
    exact if_pos there.2
  | hbm | lpddr | host | sram | scratch | tcm | districtCtl | clusterCtl => rfl
/-- When every element reaches memory the body has their addresses. -/
theorem withElems_reached {k : Kind} {vas : List Word} {size : Nat} {pas : List Nat} {body : List Nat → State → State} {s : State}
    (reached : List.Forall₂ (fun (va : Word) pa => va.toNat % size = 0 ∧ s.exists false pa ∧
      s.translate s.iss.core s.iss.slot s.iss.snap.space s.iss.snap.priv k va = .ok pa) vas pas) :
    withElems k body vas s = body pas s := by
  induction reached generalizing body with
  | nil => rfl
  | cons element _ ih => rw [withElems_cons element.2.1 element.2.2, ih]

theorem State.reachesAll.aligned {s : State} {k : Kind} {vas : List Word} {size : Nat} {pas : List Nat}
    (h : s.reachesAll k vas size pas) : vas.find? (fun a => decide (a.toNat % size ≠ 0)) = none := by
  obtain ⟨-, reached⟩ := h
  induction reached with
  | nil => rfl
  | cons element _ ih => simpa [element.1] using ih

/-- The elements of a vector access as the thread waits on them: each index with its addresses, and the bits to store. -/
def accessElems (store : Bool) (d : VData) (t : Ty) (n : Nat) (vas : List Word) (pas : List Nat) : List Elem :=
  ((List.range n).zip (vas.zip pas)).map fun p => ⟨p.1, p.2.1, p.2.2, if store then BitVec.ofNat 64 (d.elem t p.1) else 0, false⟩

/-- An access whose base, offsets and stored elements are clean, and whose elements all reach memory, waits with them. -/
theorem vecAccess_waits {s : State} {store : Bool} {v : VReg} {g : Reg} {x : Option VReg} {t : Ty} {imm : BitVec 8}
    {offset : Thread → Nat → Word} {vas : List Word} {pas : List Nat} (grant : s.iss.snap.grant ≠ 0)
    (count : vcount t s.iss.snap ≠ 0) (present : s.iss.snap.isPresent g = true) (base : s.iss.snap.isPoisoned g = false)
    (addresses : (List.range (vcount t s.iss.snap)).map
      (fun i => s.iss.snap.reg g + imm.signExtend 64 * 16 + offset s.iss.snap i) = vas)
    (offsets : ∀ y ∈ x, ∀ i, i < vcount t s.iss.snap → (s.iss.snap.vget y).elemPoison t i = false)
    (stored : store = true → ∀ i, i < vcount t s.iss.snap → (s.iss.snap.vget v).elemPoison t i = false)
    (reached : s.reachesAll (if store then .store else .load) vas (t.store / 8) pas) :
    vecAccess store v g x t imm offset s =
      detach (.vector store v t (accessElems store (s.iss.snap.vget v) t (vcount t s.iss.snap) vas pas) []) .drain s := by
  subst addresses
  have clean {y : VReg} (h : ∀ i, i < vcount t s.iss.snap → (s.iss.snap.vget y).elemPoison t i = false) :
      (List.range (vcount t s.iss.snap)).any ((s.iss.snap.vget y).elemPoison t) = false := by simpa using h
  have data : (store && (List.range (vcount t s.iss.snap)).any ((s.iss.snap.vget v).elemPoison t)) = false := by
    cases store with
    | false => rfl
    | true => exact clean (stored rfl)
  refine (granted_some grant).trans ((needs_present (by simpa using present)).trans ((if_neg count).trans
    ((if_neg (Bool.eq_false_iff.mp base)).trans ((if_neg ?index).trans ?_))))
  case index =>
    cases x with
    | none => exact Bool.false_ne_true
    | some y => exact Bool.eq_false_iff.mp (clean (offsets y rfl))
  simp only [reached.aligned, data, Bool.false_eq_true, if_false, notBusy_idle reached.1]
  exact withElems_reached reached.2

/-- Settles O20: each form is the one vector access, with its offsets. -/
theorem vectorMemoryIssue : Obligations.VectorMemoryIssue := by
  unfold Obligations.VectorMemoryIssue
  intro s v x g t imm pas th n size base plain indexed elems waits grant count present clean
  have loads {x' : Option VReg} {offset : Thread → Nat → Word} {vas : List Word}
      (addresses : (List.range n).map (fun i => base + offset s.iss.snap i) = vas)
      (offsets : ∀ y ∈ x', ∀ i, i < n → (th.vget y).elemPoison t i = false) (reached : s.reachesAll .load vas size pas) :
      (.next (vecAccess false v g x' t imm offset s) : Out) = waits false vas :=
    congrArg _ (vecAccess_waits grant count.ne' present clean addresses offsets nofun reached)
  have stores {x' : Option VReg} {offset : Thread → Nat → Word} {vas : List Word}
      (addresses : (List.range n).map (fun i => base + offset s.iss.snap i) = vas)
      (offsets : ∀ y ∈ x', ∀ i, i < n → (th.vget y).elemPoison t i = false) (reached : s.reachesAll .store vas size pas)
      (stored : ∀ i, i < n → (th.vget v).elemPoison t i = false) :
      (.next (vecAccess true v g x' t imm offset s) : Out) = waits true vas :=
    congrArg _ (vecAccess_waits grant count.ne' present clean addresses offsets (fun _ => stored) reached)
  refine ⟨fun reached => loads rfl nofun reached, fun reached stored => stores rfl nofun reached stored,
    fun reached offsets => loads rfl (by simpa using offsets) reached,
    fun reached offsets stored => stores rfl (by simpa using offsets) reached stored⟩

/-! ## Combination by pairs (R64) -/

section
variable {α β : Type} {op : α → α → α} {P : List β → α → Prop}

theorem pairLevel_length (op : α → α → α) : ∀ l : List α, (pairLevel op l).length = (l.length + 1) / 2
  | [] | [_] => by simp [pairLevel]
  | _ :: _ :: l => by
    rw [pairLevel, List.length_cons, pairLevel_length op l]
    simp only [List.length_cons]
    omega

variable (join : ∀ {l r : List β} {a b : α}, P l a → P r b → P (l ++ r) (op a b))
include join

/-- When each value of a list speaks for a segment, the values of the next level speak for the segments joined in order. -/
theorem pairLevel_segments : ∀ {segs : List (List β)} {l : List α}, List.Forall₂ P segs l →
    ∃ joined, joined.flatten = segs.flatten ∧ List.Forall₂ P joined (pairLevel op l)
  | _, _, .nil => ⟨[], rfl, .nil⟩
  | _, _, .cons h .nil => ⟨[_], rfl, .cons h .nil⟩
  | _, _, .cons h (.cons k rest) =>
    have ⟨joined, same, all⟩ := pairLevel_segments rest
    ⟨_ :: joined, by simp [same], .cons (join h k) all⟩

/-- A tree of enough levels ends in one value, which speaks for all the segments joined. -/
theorem pairtree_segments {n : Nat} {segs : List (List β)} {l : List α} (h : List.Forall₂ P segs l) (nonempty : 0 < l.length)
    (levels : l.length ≤ 2 ^ n) : ∃ r, pairtree op n l = .some r ∧ P segs.flatten r := by
  induction n generalizing segs l with
  | zero =>
    match h with
    | .nil => exact absurd nonempty (lt_irrefl 0)
    | .cons one .nil => exact ⟨_, rfl, by simpa using one⟩
    | .cons _ (.cons _ _) => simp at levels
  | succ n ih =>
    match h with
    | .nil => exact absurd nonempty (lt_irrefl 0)
    | .cons one .nil => exact ⟨_, rfl, by simpa using one⟩
    | .cons (b := a) one (.cons (b := b) (l₂ := l) two rest) =>
      obtain ⟨joined, same, all⟩ := pairLevel_segments join (.cons one (.cons two rest))
      rw [← same]
      have length : (pairLevel op (a :: b :: l)).length = (l.length + 2 + 1) / 2 := pairLevel_length op _
      refine ih all ?_ ?_
      · omega
      · simp only [List.length_cons, Nat.pow_succ] at levels
        omega
end

/-- The tree over elements 0 to n − 1: what holds of each element, and of two neighbouring runs joined, holds of them all. -/
theorem pairtree_range {α : Type} {op : α → α → α} {P : List Nat → α → Prop} {n : Nat} {g : Nat → α} {v : α}
    (join : ∀ {l r : List Nat} {a b : α}, P l a → P r b → P (l ++ r) (op a b)) (leaf : ∀ i, i < n → P [i] (g i))
    (tree : pairtree op 9 ((List.range n).map g) = some v) (levels : n ≤ 2 ^ 9) : P (List.range n) v := by
  have leaves : List.Forall₂ P ((List.range n).map fun i => [i]) ((List.range n).map g) := by
    simpa [List.forall₂_map_left_iff, List.forall₂_map_right_iff, List.forall₂_same] using leaf
  have flat : ((List.range n).map fun i => [i]).flatten = List.range n := by
    rw [← List.flatMap_def, List.flatMap_singleton']
  have nonempty : 0 < n := by
    rcases Nat.eq_zero_or_pos n with rfl | pos
    · cases tree
    · exact pos
  obtain ⟨r, run, holds⟩ := pairtree_segments (n := 9) join leaves (by simpa using nonempty) (by simpa using levels)
  rw [tree] at run
  rw [flat] at holds
  exact Option.some.inj run ▸ holds
/-- There is a value to every tree that is not empty. -/
theorem pairtree_range_some {α : Type} (op : α → α → α) {n : Nat} (g : Nat → α) (nonempty : 0 < n) (levels : n ≤ 2 ^ 9) :
    ∃ v, pairtree op 9 ((List.range n).map g) = .some v := by
  have leaves : List.Forall₂ (fun (_ : List Nat) (_ : α) => True) ((List.range n).map fun i => [i]) ((List.range n).map g) := by
    simp [List.forall₂_map_left_iff, List.forall₂_map_right_iff, List.forall₂_same]
  obtain ⟨r, run, -⟩ := pairtree_segments (n := 9) (op := op) (fun _ _ => trivial) leaves (by simpa using nonempty)
    (by simpa using levels)
  exact ⟨r, run⟩

section
variable {α β : Type} {op : α → α → α} {op' : β → β → β} {f : α → β} (hom : ∀ a b, f (op a b) = op' (f a) (f b))
include hom

theorem pairLevel_map : ∀ l : List α, pairLevel op' (l.map f) = (pairLevel op l).map f
  | [] | [_] => rfl
  | a :: b :: l => by
    simp only [List.map_cons, pairLevel, hom, pairLevel_map l]
/-- What a map keeps of each combination it keeps of the tree. -/
theorem pairtree_map : ∀ (n : Nat) (l : List α), pairtree op' n (l.map f) = (pairtree op n l).map f
  | 0, [] | 0, [_] | 0, _ :: _ :: _ | _ + 1, [] | _ + 1, [_] => rfl
  | n + 1, a :: b :: l => (congrArg (pairtree op' n) (pairLevel_map hom (a :: b :: l))).trans (pairtree_map n _)
end

/-! ## Results of a float format fit its width (R54) -/

theorem b2n_le (b : Bool) : b2n b ≤ 1 := by cases b <;> decide
/-- Sign, exponent and fraction fill the width. -/
theorem Fty.fields_fill (t : Fty) : (2 * t.bias + 2) * 2 ^ (t.prec - 1) = 2 ^ (t.width - 1) ∧ 2 ^ t.width = 2 * 2 ^ (t.width - 1) ∧
    2 ^ t.prec = 2 * 2 ^ (t.prec - 1) ∧ 0 < 2 ^ (t.prec - 1) := by cases t <;> decide
theorem Fty.qnan_lt (t : Fty) : t.qnan < 2 ^ t.width := by cases t <;> decide
theorem Fty.val_qnan (t : Fty) : (t.val t.qnan).isNan = true := by cases t <;> decide
/-- Bits of a sign with a magnitude below half the width's range. -/
theorem Fty.signed_lt (t : Fty) (neg : Bool) {n : Nat} (h : n < 2 ^ (t.width - 1)) : b2n neg * 2 ^ (t.width - 1) + n < 2 ^ t.width := by
  have sign := Nat.mul_le_mul_right (2 ^ (t.width - 1)) (b2n_le neg)
  have width := (Fty.fields_fill t).2.1
  omega
theorem Fty.infBits_lt (t : Fty) (neg : Bool) : t.infBits neg < 2 ^ t.width := by
  obtain ⟨fill, -, -, unit⟩ := Fty.fields_fill t
  refine Fty.signed_lt t neg ?_
  rw [← fill]
  exact Nat.mul_lt_mul_of_pos_right (by omega) unit
theorem Fty.overflow_lt (t : Fty) (rm : Rm) (neg : Bool) : t.overflow rm neg < 2 ^ t.width := by
  have inf := Fty.infBits_lt t neg
  have max : t.maxBits neg < 2 ^ t.width := (Nat.sub_le _ _).trans_lt inf
  cases rm with
  | rne | rmm => exact inf
  | rtz => exact max
  | rdn | rup => cases neg <;> assumption

/-- A magnitude cut to `p` places below its leading bit rounds to at most 2^p of them. -/
theorem roundAt_le {rm : Rm} {neg : Bool} {m p : Nat} {e q : Int} {sticky : Bool} (places : e + Nat.log2 m - p + 1 ≤ q) :
    (roundAt rm neg m e q sticky).1 ≤ 2 ^ p := by
  have leading : m < 2 ^ (Nat.log2 m + 1) := Nat.lt_log2_self
  unfold roundAt
  split
  next finer =>
    calc m * 2 ^ (e - q).toNat ≤ 2 ^ (Nat.log2 m + 1) * 2 ^ (e - q).toNat := Nat.mul_le_mul_right _ leading.le
      _ = 2 ^ (Nat.log2 m + 1 + (e - q).toNat) := (Nat.pow_add ..).symm
      _ ≤ 2 ^ p := Nat.pow_le_pow_right (by decide) (by omega)
  next coarser =>
    have kept : m / 2 ^ (q - e).toNat < 2 ^ p := by
      rw [Nat.div_lt_iff_lt_mul (Nat.two_pow_pos _), ← Nat.pow_add]
      exact leading.trans_le (Nat.pow_le_pow_right (by decide) (by omega))
    have up := b2n_le (roundsUp rm neg (m / 2 ^ (q - e).toNat) (m % 2 ^ (q - e).toNat) (2 ^ ((q - e).toNat - 1)) sticky)
    dsimp only
    omega

/-- A significand of the format's precision, and its exponent, as bits: what rounding ends with. -/
theorem Fty.packed_lt (t : Fty) (rm : Rm) (neg : Bool) {k : Nat} {q : Int} {f g h : FlagBits} (short : k < 2 ^ t.prec) :
    (if k < 2 ^ (t.prec - 1) then (b2n neg * 2 ^ (t.width - 1) + k, f)
      else if (t.bias : Int) < q + t.prec - 1 then (t.overflow rm neg, g)
      else (b2n neg * 2 ^ (t.width - 1) + (q + t.prec - 1 + t.bias).toNat * 2 ^ (t.prec - 1) + (k - 2 ^ (t.prec - 1)), h)).1
      < 2 ^ t.width := by
  obtain ⟨fill, -, precision, unit⟩ := Fty.fields_fill t
  split
  next below =>
    refine Fty.signed_lt t neg (below.trans_le ?_)
    rw [← fill]
    exact Nat.le_mul_of_pos_left _ (by omega)
  next normal =>
    split
    · exact Fty.overflow_lt t rm neg
    next inside =>
      rw [Nat.add_assoc]
      refine Fty.signed_lt t neg ?_
      calc (q + t.prec - 1 + t.bias).toNat * 2 ^ (t.prec - 1) + (k - 2 ^ (t.prec - 1))
          < (q + t.prec - 1 + t.bias).toNat * 2 ^ (t.prec - 1) + 2 ^ (t.prec - 1) := by omega
        _ = ((q + t.prec - 1 + t.bias).toNat + 1) * 2 ^ (t.prec - 1) := (Nat.succ_mul ..).symm
        _ ≤ (2 * t.bias + 2) * 2 ^ (t.prec - 1) := Nat.mul_le_mul_right _ (by omega)
        _ = 2 ^ (t.width - 1) := fill

theorem rndFin_lt (t : Fty) (rm : Rm) (neg : Bool) (m : Nat) (e : Int) (sticky : Bool) : (rndFin t rm neg m e sticky).1 < 2 ^ t.width := by
  unfold rndFin
  split
  · exact Fty.signed_lt t neg (Nat.two_pow_pos _)
  next nonzero =>
    obtain ⟨-, -, precision, unit⟩ := Fty.fields_fill t
    have fits := roundAt_le (rm := rm) (neg := neg) (sticky := sticky) (m := m) (e := e) (p := t.prec)
      (le_max_left (e + Nat.log2 m - t.prec + 1) (1 - (t.bias : Int) - t.prec + 1))
    dsimp only
    generalize roundAt rm neg m e (max (e + Nat.log2 m - t.prec + 1) (1 - (t.bias : Int) - t.prec + 1)) sticky = r at *
    by_cases top : r.1 = 2 ^ t.prec
    · simp only [if_pos top]
      exact Fty.packed_lt t rm neg (by omega)
    · simp only [if_neg top]
      exact Fty.packed_lt t rm neg (by omega)

theorem finish_lt (t : Fty) (rm : Rm) (sig : Bool) (r : Res) : (finish t rm sig r).1 < 2 ^ t.width := by
  cases r with
  | val v =>
    cases v with
    | nan s => exact Fty.qnan_lt t
    | inf neg => exact Fty.infBits_lt t neg
    | fin neg m e => exact rndFin_lt ..
  | sticky neg m e => exact rndFin_lt ..
  | invalid => exact Fty.qnan_lt t
  | divZero neg => exact Fty.infBits_lt t neg

/-! ## Numbers in the order of a reduction (R64, R103) -/

/-- Zeros are the values that stand at 0. -/
theorem Val.isZero_iff {v : Val} : v.isZero = true ↔ v.rank = 0 := by
  match v with
  | .nan s => simp [Val.isZero, Val.rank]
  | .inf true => simp [Val.isZero, Val.rank]
  | .inf false => exact ⟨nofun, fun top => absurd (WithBot.coe_injective top) WithTop.top_ne_zero⟩
  | .fin n 0 e => simp [Val.isZero, Val.rank]
  | .fin n (m + 1) e =>
    have place : (if n then -1 else 1 : ℚ) * ((m + 1 : Nat) : ℚ) * 2 ^ e ≠ 0 := by
      cases n <;> positivity
    simpa [Val.isZero, Val.rank] using place

/-- The order of the largest number: by rank, and −0 below +0. -/
def Val.key (v : Val) : WithBot (WithTop ℚ) ×ₗ Bool := toLex (v.rank, !v.neg)
theorem Val.key_le {a b : Val} (h : Val.key a ≤ Val.key b) :
    a.rank ≤ b.rank ∧ (b.isZero = true → a.isZero = true → b.neg = true → a.neg = true) := by
  rw [Val.key, Val.key, Prod.Lex.toLex_le_toLex] at h
  obtain lower | ⟨same, signs⟩ := h
  · refine ⟨lower.le, fun zb za => ?_⟩
    rw [Val.isZero_iff] at za zb
    exact absurd lower (by rw [za, zb]; exact lt_irrefl _)
  · refine ⟨same.le, fun _ _ negative => ?_⟩
    cases h : a.neg with
    | true => rfl
    | false =>
      simp only [h, negative] at signs
      exact absurd signs (by decide)
/-- The order of VARGMAX: by rank, a NaN above every number. -/
def Val.argKey (v : Val) : WithTop (WithBot (WithTop ℚ)) := if v.isNan then ⊤ else v.rank
/-- What the order says of a NaN below, and of a number above. -/
theorem Val.argKey_le {a b : Val} (h : Val.argKey a ≤ Val.argKey b) :
    (a.isNan = true → b.isNan = true ∧ Val.argKey a = Val.argKey b) ∧
      (b.isNan = false → a.rank ≤ b.rank ∧ (a.rank = b.rank → Val.argKey a = Val.argKey b)) := by
  unfold Val.argKey at *
  by_cases na : a.isNan = true
  · by_cases nb : b.isNan = true
    · simp [na, nb]
    · simp [na, nb] at h
  · by_cases nb : b.isNan = true
    · simp [na, nb]
    · simpa [na, nb] using h

section
variable {t : Fty} {a b : Nat}

/-- The larger of two numbers is one of them, and the other is no larger. -/
theorem pickMax_largest (ha : (t.val a).isNan = false) (hb : (t.val b).isNan = false) :
    (pickMax t true a b).1 = bits a 0 t.width ∧ Val.key (t.val b) ≤ Val.key (t.val a) ∨
      (pickMax t true a b).1 = bits b 0 t.width ∧ Val.key (t.val a) ≤ Val.key (t.val b) := by
  simp only [Val.key, Prod.Lex.toLex_le_toLex]
  rcases lt_trichotomy (t.val a).rank (t.val b).rank with lt | same | gt
  · exact .inr ⟨by rw [(pickMax_of_rank_lt ha hb lt).2], .inl lt⟩
  · have equal := (cmpVal_zero_iff ha hb).mpr same
    rw [pickMax_number ha hb, if_pos equal]
    cases sign : (t.val a).neg with
    | true => exact .inr ⟨rfl, .inr ⟨same, by simp⟩⟩
    | false => exact .inl ⟨rfl, .inr ⟨same.symm, by simp⟩⟩
  · exact .inl ⟨by rw [(pickMax_of_rank_gt ha hb gt).2], .inl gt⟩
end

/-- The float classes are neither integer nor LN, and have their format's width. -/
theorem Ty.isFloat_class {t : Ty} (float : t.isFloat = true) : t.isInt = false ∧ t.isLn = false ∧ t.fty.width = t.width := by
  revert float
  cases t <;> decide

/-- A float's bits are larger in the order of VARGMAX. -/
theorem largerElem_float {t : Ty} (float : t.isFloat = true) (a b : Nat) :
    largerElem t a b = decide (Val.argKey (t.fty.val a) < Val.argKey (t.fty.val b)) := by
  obtain ⟨notInt, notLn, -⟩ := Ty.isFloat_class float
  simp only [largerElem, elemNan, notInt, notLn, Bool.false_eq_true, if_false, Val.argKey]
  by_cases ha : (t.fty.val a).isNan = true
  · simp [ha]
  · by_cases hb : (t.fty.val b).isNan = true
    · simp [ha, hb]
    · simp [ha, hb, cmpVal_neg_iff (Bool.eq_false_iff.mpr ha) (Bool.eq_false_iff.mpr hb)]
theorem largerElem_int {t : Ty} (int : t.isInt = true) (a b : Nat) : largerElem t a b = decide (t.int a < t.int b) := if_pos int

/-! ## The largest of some elements -/

section
variable {K : Type} [LinearOrder K] {key : Nat → K} {e : Nat → Nat}

/-- A value is an element of a run, and none is larger. -/
def Largest (key : Nat → K) (e : Nat → Nat) (run : List Nat) (v : Nat) : Prop :=
  ∃ i ∈ run, v = e i ∧ ∀ j ∈ run, key (e j) ≤ key (e i)
theorem largest_one (i : Nat) : Largest key e [i] (e i) := ⟨i, by simp, rfl, by simp⟩
/-- The larger of two is the largest of the runs joined. -/
theorem Largest.join {l r : List Nat} {a b v : Nat} (hl : Largest key e l a) (hr : Largest key e r b)
    (pick : v = a ∧ key b ≤ key a ∨ v = b ∧ key a ≤ key b) : Largest key e (l ++ r) v := by
  obtain ⟨i, hi, rfl, left⟩ := hl
  obtain ⟨k, hk, rfl, right⟩ := hr
  obtain ⟨rfl, order⟩ | ⟨rfl, order⟩ := pick
  · refine ⟨i, by simp [hi], rfl, fun j hj => ?_⟩
    exact (List.mem_append.mp hj).elim (left j) fun h => (right j h).trans order
  · refine ⟨k, by simp [hk], rfl, fun j hj => ?_⟩
    exact (List.mem_append.mp hj).elim (fun h => (left j h).trans order) (right j)

/-- An element with its index. -/
def Picked (e : Nat → Nat) (run : List Nat) (v : Nat × Nat × FlagBits) : Prop := v.2.1 ∈ run ∧ v.1 = e v.2.1
/-- No element of a run in ascending order is larger than the one at an index, and none equal to it comes before. -/
def FirstLargest (key : Nat → K) (e : Nat → Nat) (run : List Nat) (v : Nat × Nat × FlagBits) : Prop :=
  Picked e run v ∧ (run.Pairwise (· < ·) → ∀ j ∈ run, key (e j) ≤ key v.1 ∧ (key (e j) = key v.1 → v.2.1 ≤ j))
theorem firstLargest_one (i : Nat) (f : FlagBits) : FirstLargest key e [i] (e i, i, f) := ⟨⟨by simp, rfl⟩, by simp⟩
/-- The first stays unless the second is larger: the runs stand in order (R64). -/
theorem FirstLargest.join {l r : List Nat} {a b : Nat × Nat × FlagBits} (hl : FirstLargest key e l a) (hr : FirstLargest key e r b)
    {larger : Bool} (order : larger = decide (key a.1 < key b.1)) (f : FlagBits) :
    FirstLargest key e (l ++ r) ((if larger then b else a).1, (if larger then b else a).2.1, f) := by
  obtain ⟨⟨ai, ae⟩, left⟩ := hl
  obtain ⟨⟨bi, be⟩, right⟩ := hr
  by_cases less : key a.1 < key b.1
  · simp only [order, less, decide_true, if_true]
    refine ⟨⟨by simp [bi], be⟩, fun sorted j hj => ?_⟩
    obtain ⟨ls, rs, -⟩ := List.pairwise_append.mp sorted
    refine (List.mem_append.mp hj).elim (fun h => ?_) (right rs j)
    have below := ((left ls j h).1).trans_lt less
    exact ⟨below.le, fun same => absurd same below.ne⟩
  · simp only [order, less, decide_false, Bool.false_eq_true, if_false]
    refine ⟨⟨by simp [ai], ae⟩, fun sorted j hj => ?_⟩
    obtain ⟨ls, rs, across⟩ := List.pairwise_append.mp sorted
    refine (List.mem_append.mp hj).elim (left ls j) fun h => ?_
    exact ⟨((right rs j h).1).trans (not_lt.mp less), fun _ => (across _ ai _ h).le⟩
end

/-! ## Lanes and the elements in them (R25, R26) -/

/-- An element holds a value of its type's width. -/
theorem VData.elem_lt (d : VData) (t : Ty) (i : Nat) : d.elem t i < 2 ^ t.width := by
  unfold VData.elem
  split
  next wide =>
    have low := (laneAt d.lanes (2 * i)).isLt
    have high := (laneAt d.lanes (2 * i + 1)).isLt
    rw [Ty.wide_width wide]
    omega
  next => exact Nat.mod_lt _ (Nat.two_pow_pos _)

/-- The lane, or one of the two, that an element lies in. -/
def Ty.inLane (t : Ty) (i l : Nat) : Prop := if t.store = 64 then l = 2 * i ∨ l = 2 * i + 1 else l = i / t.perLane
theorem VData.elem_of_lanes {d d' : VData} {t : Ty} {i : Nat} (h : ∀ l, Ty.inLane t i l → laneAt d.lanes l = laneAt d'.lanes l) :
    d.elem t i = d'.elem t i := by
  unfold VData.elem
  unfold Ty.inLane at h
  split <;> simp_all
theorem VData.elemPoison_of_lanes {d d' : VData} {t : Ty} {i : Nat}
    (h : ∀ l, Ty.inLane t i l → d.poison.getLsbD l = d'.poison.getLsbD l) : d.elemPoison t i = d'.elemPoison t i := by
  unfold VData.elemPoison
  unfold Ty.inLane at h
  split <;> simp_all

/-- Only the bits of the type's width are written. -/
theorem VData.setElem_mod (d : VData) (t : Ty) (i v : Nat) (p : Bool) : d.setElem t i (v % 2 ^ t.width) p = d.setElem t i v p := by
  by_cases wide : t.store = 64
  · have low : BitVec.ofNat 32 (v % 2 ^ 64) = BitVec.ofNat 32 v := BitVec.eq_of_toNat_eq (by simp only [BitVec.toNat_ofNat]; omega)
    have high : BitVec.ofNat 32 (v % 2 ^ 64 / 2 ^ 32) = BitVec.ofNat 32 (v / 2 ^ 32) :=
      BitVec.eq_of_toNat_eq (by simp only [BitVec.toNat_ofNat]; omega)
    rw [VData.setElem_wide wide, VData.setElem_wide wide, Ty.wide_width wide, low, high]
  · rw [VData.setElem_narrow wide, VData.setElem_narrow wide, Nat.mod_mod]
/-- Every value fits once cut to the width, so elements written read as their low bits. -/
theorem mapElems_elem_mod {t : Ty} {n : Nat} {old : VData} {f : Nat → ElemRes} (hn : n ≤ t.count 64) {i : Nat} (hi : i < n) :
    (mapElems t n old f).1.elem t i = (f i).1 % 2 ^ t.width := by
  have cut : mapElems t n old f = mapElems t n old (fun i => ((f i).1 % 2 ^ t.width, (f i).2)) := by
    simp only [mapElems, VData.setElem_mod]
  rw [cut, mapElems_elem hn (fun i _ => Nat.mod_lt _ (Nat.two_pow_pos _)), if_pos hi]
theorem mapElems_flags (t : Ty) (n : Nat) (old : VData) (f : Nat → ElemRes) :
    (mapElems t n old f).2 = ((List.range n).map fun i => (f i).2.2).foldl (fun f g => f ||| g) 0 := by
  induction n with
  | zero => rfl
  | succ n ih =>
    rw [List.range_succ, List.map_append, List.foldl_append, ← ih, mapElems, List.range_succ, List.foldl_append]
    rfl
/-- An element of elements written is poisoned when one in its lane is. -/
theorem mapElems_elemPoison {t : Ty} {n : Nat} {old : VData} {f : Nat → ElemRes} (hn : n ≤ t.count 64) {i : Nat} (hi : i < n) :
    (mapElems t n old f).1.elemPoison t i = (List.range n).any (fun j =>
      j / (if t.store = 64 then 1 else t.perLane) == i / (if t.store = 64 then 1 else t.perLane) && (f j).2.1) := by
  by_cases wide : t.store = 64
  · rw [Ty.count_wide wide] at hn
    have own : (List.range n).any (fun j => j == i && (f j).2.1) = (f i).2.1 := by
      rw [Bool.eq_iff_iff]
      simp [hi]
    simp only [VData.elemPoison, if_pos wide, Nat.div_one, own]
    rw [mapElems_poison_wide wide _ (by omega), mapElems_poison_wide wide _ (by omega), if_pos (by omega), if_pos (by omega),
      show 2 * i / 2 = i by omega, show (2 * i + 1) / 2 = i by omega, Bool.or_self]
  · rw [Ty.count_narrow wide] at hn
    simp only [VData.elemPoison, if_neg wide]
    rw [mapElems_poison_narrow wide _ (Nat.div_lt_of_lt_mul (by rw [Nat.mul_comm]; omega)),
      if_pos ((Nat.div_mul_le_self _ _).trans_lt hi)]
    rfl

/-! ### Lanes cleared (R133) -/

/-- Lanes from one on cleared and unpoisoned. -/
def clearLanes (d : VData) (start n : Nat) : VData := (List.range n).foldl (fun d i => d.clearLane (start + i)) d
theorem clearLanes_succ (d : VData) (start n : Nat) : clearLanes d start (n + 1) = (clearLanes d start n).clearLane (start + n) := by
  simp [clearLanes, List.range_succ]
theorem laneAt_clearLane (d : VData) (l j : Nat) : laneAt (d.clearLane l).lanes j = if l = j ∧ l < 64 then 0 else laneAt d.lanes j :=
  laneAt_setLane ..
theorem poison_clearLane (d : VData) (l j : Nat) :
    (d.clearLane l).poison.getLsbD j = if j < 64 ∧ l = j then false else d.poison.getLsbD j := setBit_get ..
theorem clearLanes_inside {d : VData} {start n l : Nat} (low : start ≤ l) (high : l < start + n) (lane : l < 64) :
    laneAt (clearLanes d start n).lanes l = 0 ∧ (clearLanes d start n).poison.getLsbD l = false := by
  induction n with
  | zero => omega
  | succ n ih =>
    rw [clearLanes_succ, laneAt_clearLane, poison_clearLane]
    by_cases last : start + n = l
    · simp [last, lane]
    · simpa [last] using ih (by omega)
theorem clearLanes_outside {d : VData} {start n l : Nat} (low : l < start) :
    laneAt (clearLanes d start n).lanes l = laneAt d.lanes l ∧ (clearLanes d start n).poison.getLsbD l = d.poison.getLsbD l := by
  induction n with
  | zero => exact ⟨rfl, rfl⟩
  | succ n ih =>
    rw [clearLanes_succ, laneAt_clearLane, poison_clearLane]
    simpa [show start + n ≠ l by omega] using ih

/-! ## VCVT (R133) -/

/-- A register written: what it leaves of the thread, and of memory. -/
theorem writeVec_leaves (d : VReg) (x : VData) (f : FlagBits) (s : State) :
    (∀ v, v ≠ d → (writeVec d x f s).iss.live.vget v = s.iss.live.vget v) ∧ (writeVec d x f s).iss.live.regs = s.iss.live.regs ∧
      (writeVec d x f s).iss.live.pred = s.iss.live.pred ∧ s.sameMemory (writeVec d x f s) := by
  refine ⟨fun v other => ?_, rfl, rfl, fun a => rfl, fun a => rfl⟩
  have apart : d.val ≠ v.val := fun same => other (Fin.ext same.symm)
  simp [writeVec, live, Thread.raise, Thread.vget, Thread.vset, apart]
@[simp] theorem vget_writeVec (d : VReg) (x : VData) (f : FlagBits) (s : State) : (writeVec d x f s).iss.live.vget d = x := by
  simp [writeVec, live, Thread.raise, Thread.vget, Thread.vset]
theorem flags_writeVec (d : VReg) (x : VData) (f : FlagBits) (s : State) :
    (writeVec d x f s).iss.live.flags = s.iss.live.flags ||| f := rfl

theorem Ty.count_le {t : Ty} {vl : Nat} (h : vl ≤ 64) : t.count vl ≤ t.count 64 := by
  unfold Ty.count
  split
  · omega
  · exact Nat.mul_le_mul_right _ h
theorem Ty.count_max (t : Ty) : t.count 64 ≤ 2 ^ 8 := by cases t <;> decide

/-- The lanes that hold some first elements of a type. -/
def Ty.lanesOf (t : Ty) (n : Nat) : Nat := if t.store = 64 then 2 * n else (n + t.perLane - 1) / t.perLane
/-- The lanes that a type can use below a VL: not the top lane of an odd VL when it takes lanes in pairs. -/
def Ty.topOf (t : Ty) (vl : Nat) : Nat := if t.store = 64 then vl / 2 * 2 else vl
theorem Ty.inLane_lt {t : Ty} {i l n : Nat} (lane : Ty.inLane t i l) (hi : i < n) : l < Ty.lanesOf t n := by
  unfold Ty.inLane at lane
  unfold Ty.lanesOf
  split at lane
  next wide =>
    rw [if_pos wide]
    omega
  next narrow =>
    obtain ⟨-, pos, -⟩ := Ty.narrow_fields narrow
    rw [if_neg narrow, lane, Nat.lt_iff_add_one_le, Nat.le_div_iff_mul_le pos, Nat.succ_mul]
    have := Nat.div_mul_le_self i t.perLane
    omega
theorem Ty.lanesOf_le {t : Ty} {n l : Nat} (narrow : t.store ≠ 64) (h : n ≤ l * t.perLane) : Ty.lanesOf t n ≤ l := by
  obtain ⟨-, pos, -⟩ := Ty.narrow_fields narrow
  rw [Ty.lanesOf, if_neg narrow, Nat.div_le_iff_le_mul pos]
  omega
/-- A lane that R133 clears lies between those that hold results and the top. -/
theorem Ty.unused_lane {t : Ty} {vl n l : Nat} (h : if t.store = 64 then 2 * n ≤ l ∧ l < vl / 2 * 2
    else n ≤ l * (if t.store = 64 then 1 else t.perLane) ∧ l < vl) : Ty.lanesOf t n ≤ l ∧ l < Ty.topOf t vl := by
  by_cases wide : t.store = 64
  · rw [if_pos wide] at h
    exact ⟨(if_pos wide).trans_le h.1, h.2.trans_eq (if_pos wide).symm⟩
  · rw [if_neg wide, if_neg wide] at h
    exact ⟨Ty.lanesOf_le wide h.1, h.2.trans_eq (if_neg wide).symm⟩
theorem vl_ne_zero {t : Ty} {th : Thread} (count : 0 < vcount t th) : th.vl.toNat ≠ 0 := by
  intro none
  simp [vcount, Ty.count, none] at count

/-- An element's conversion, with its poison and flags. -/
def convertElem (dst src : Ty) (rm : Rm) (x : VData) (i : Nat) : ElemRes :=
  ((convert dst src rm (x.elem src i)).1, x.elemPoison src i, (convert dst src rm (x.elem src i)).2)
/-- The register that VCVT leaves, from its old value and its source. -/
def converted (dst src : Ty) (rm : Rm) (vl : Nat) (old x : VData) : VData :=
  let n := min (dst.count vl) (src.count vl)
  clearLanes (mapElems dst n old (convertElem dst src rm x)).1 (Ty.lanesOf dst n) (Ty.topOf dst vl - Ty.lanesOf dst n)
theorem execVcvt_some {s : State} {d a : VReg} {dst src : Ty} {rm : Rm} (grant : s.iss.snap.grant ≠ 0) (vl : s.iss.snap.vl.toNat ≠ 0) :
    exec (.vcvt d a dst src rm) s = .next (writeVec d
      (converted dst src rm s.iss.snap.vl.toNat (s.iss.snap.vget d) (s.iss.snap.vget a))
      (mapElems dst (min (vcount dst s.iss.snap) (vcount src s.iss.snap)) (s.iss.snap.vget d)
        (convertElem dst src rm (s.iss.snap.vget a))).2 s) := by
  refine congrArg _ ((granted_some grant).trans ?_)
  exact if_neg vl

section
variable {dst src : Ty} {rm : Rm} {vl : Nat} {old x : VData}

/-- A result lies below the lanes that are cleared. -/
theorem converted_below {i : Nat} (short : vl ≤ 64) (hi : i < min (dst.count vl) (src.count vl)) :
    (converted dst src rm vl old x).elem dst i = (convert dst src rm (x.elem src i)).1 % 2 ^ dst.width ∧
      (converted dst src rm vl old x).elemPoison dst i = (List.range (min (dst.count vl) (src.count vl))).any (fun j =>
        j / (if dst.store = 64 then 1 else dst.perLane) == i / (if dst.store = 64 then 1 else dst.perLane) && x.elemPoison src j) := by
  have inside : min (dst.count vl) (src.count vl) ≤ dst.count 64 := (min_le_left ..).trans (Ty.count_le short)
  exact ⟨(VData.elem_of_lanes fun _ lane => (clearLanes_outside (Ty.inLane_lt lane hi)).1).trans (mapElems_elem_mod inside hi),
    (VData.elemPoison_of_lanes fun _ lane => (clearLanes_outside (Ty.inLane_lt lane hi)).2).trans (mapElems_elemPoison inside hi)⟩
/-- A lane below VL that holds no result is cleared. -/
theorem converted_above {l : Nat} (short : vl ≤ 64) (low : Ty.lanesOf dst (min (dst.count vl) (src.count vl)) ≤ l)
    (high : l < Ty.topOf dst vl) :
    laneAt (converted dst src rm vl old x).lanes l = 0 ∧ (converted dst src rm vl old x).poison.getLsbD l = false := by
  refine clearLanes_inside low (by omega) ?_
  unfold Ty.topOf at high
  split at high <;> omega
end

/-! ## Reductions (R134) -/

/-- The lanes of one element. -/
def Ty.span (t : Ty) : Nat := if t.store = 64 then 2 else 1
/-- A result in element 0, the rest of its lane zero. -/
def withResult (old : VData) (t : Ty) (v : Nat) (p : Bool) : VData := (if t.store = 64 then old else old.clearLane 0).setElem t 0 v p
/-- An index in the lane after it. -/
def withIndex (d : VData) (t : Ty) (i : Nat) (p : Bool) : VData :=
  ⟨setLane d.lanes (Ty.span t) (BitVec.ofNat 32 i), setBit d.poison (Ty.span t) p⟩

theorem Ty.span_cases (t : Ty) : t.store = 64 ∧ Ty.span t = 2 ∨ t.store ≠ 64 ∧ Ty.span t = 1 := by
  by_cases wide : t.store = 64
  · exact .inl ⟨wide, if_pos wide⟩
  · exact .inr ⟨wide, if_neg wide⟩
/-- Element 0 lies in the lanes of one element. -/
theorem Ty.inLane_zero {t : Ty} {l : Nat} (lane : Ty.inLane t 0 l) : l < Ty.span t := by
  have first := Ty.inLane_lt lane Nat.one_pos
  unfold Ty.lanesOf at first
  unfold Ty.span
  split
  next wide => rwa [if_pos wide] at first
  next narrow =>
    obtain ⟨-, pos, -⟩ := Ty.narrow_fields narrow
    rwa [if_neg narrow, show 1 + t.perLane - 1 = t.perLane by omega, Nat.div_self pos] at first

section
variable {old : VData} {t : Ty} {v : Nat} {p : Bool}

theorem withResult_elem : (withResult old t v p).elem t 0 = v % 2 ^ t.width := by
  have place : 0 < t.count 64 := by cases t <;> decide
  rw [withResult, ← VData.setElem_mod, VData.elem_setElem place (Nat.mod_lt _ (Nat.two_pow_pos _)), if_pos rfl]
theorem withResult_poison {l : Nat} (hl : l < 64) :
    (withResult old t v p).poison.getLsbD l = if l < Ty.span t then p else old.poison.getLsbD l := by
  obtain ⟨wide, span⟩ | ⟨narrow, span⟩ := Ty.span_cases t
  · rw [withResult, if_pos wide, VData.poison_setElem_wide wide l hl, span]
    exact if_congr (by omega) rfl rfl
  · rw [withResult, if_neg narrow, VData.poison_setElem_narrow narrow l hl, span, poison_clearLane]
    by_cases first : l = 0
    · simp [first]
    · simp [first, Ne.symm first]
theorem withResult_elemPoison : (withResult old t v p).elemPoison t 0 = p := by
  unfold VData.elemPoison
  obtain ⟨wide, span⟩ | ⟨narrow, span⟩ := Ty.span_cases t
  · rw [if_pos wide, withResult_poison (by decide), withResult_poison (by decide), span]
    simp
  · rw [if_neg narrow, Nat.zero_div, withResult_poison (by decide), span]
    simp
theorem withResult_lane_above {l : Nat} (hl : Ty.span t ≤ l) : laneAt (withResult old t v p).lanes l = laneAt old.lanes l := by
  obtain ⟨wide, span⟩ | ⟨narrow, span⟩ := Ty.span_cases t
  · simp [withResult, if_pos wide, VData.setElem_wide wide, show (1 : Nat) ≠ l by omega, show (0 : Nat) ≠ l by omega]
  · simp [withResult, if_neg narrow, VData.setElem_narrow narrow, laneAt_clearLane, show (0 : Nat) ≠ l by omega]
/-- A narrow result is all there is in lane 0. -/
theorem withResult_lane_zero (narrow : t.store ≠ 64) : (laneAt (withResult old t v p).lanes 0).toNat = (withResult old t v p).elem t 0 := by
  have fits : v % 2 ^ t.width < 2 ^ 32 :=
    (Nat.mod_lt _ (Nat.two_pow_pos _)).trans_le (Nat.pow_le_pow_right (by decide) (by revert narrow; cases t <;> decide))
  rw [withResult_elem, withResult, if_neg narrow, VData.setElem_narrow narrow]
  simpa [laneAt_clearLane, replaceField, bits] using fits
end

section
variable {d : VData} {t : Ty} {i : Nat} {p : Bool}

theorem withIndex_lane {l : Nat} :
    laneAt (withIndex d t i p).lanes l = if l = Ty.span t then BitVec.ofNat 32 i else laneAt d.lanes l := by
  have lane : Ty.span t < 64 := by cases t <;> decide
  simp [withIndex, laneAt_setLane, lane, eq_comm]
theorem withIndex_poison {l : Nat} (hl : l < 64) :
    (withIndex d t i p).poison.getLsbD l = if l = Ty.span t then p else d.poison.getLsbD l := by
  exact (setBit_get ..).trans (if_congr (by simp [hl, eq_comm]) rfl rfl)
/-- The index stands outside the result. -/
theorem withIndex_elem : (withIndex d t i p).elem t 0 = d.elem t 0 ∧ (withIndex d t i p).elemPoison t 0 = d.elemPoison t 0 := by
  have apart {l : Nat} (lane : Ty.inLane t 0 l) : l ≠ Ty.span t ∧ l < 64 := by
    have below := Ty.inLane_zero lane
    have span : Ty.span t ≤ 2 := by cases t <;> decide
    omega
  exact ⟨VData.elem_of_lanes fun l lane => by rw [withIndex_lane, if_neg (apart lane).1],
    VData.elemPoison_of_lanes fun l lane => by rw [withIndex_poison (apart lane).2, if_neg (apart lane).1]⟩
end

/-- The register that a reduction leaves. -/
def reduced (old : VData) (t : Ty) (index : Bool) (v i : Nat) (p : Bool) : VData :=
  if index then withIndex (withResult old t (canonElem t v) p) t i p else withResult old t (canonElem t v) p

/-! ## What each reduction gives (R134) -/

/-- A leaf of a reduction's tree: an element, its index, and NV for a signaling NaN (R49). -/
def leafOf (t : Ty) (x : VData) (i : Nat) : Nat × Nat × FlagBits :=
  (x.elem t i, i, flagIf (t.isFloat && (t.fty.val (x.elem t i)).isSig) nvFlag)
/-- Whether some element is poisoned, as its reduction then is. -/
def anyElemPoison (t : Ty) (x : VData) (n : Nat) : Bool := (List.range n).any (x.elemPoison t)

theorem reduce_some {s : State} {d a : VReg} {t : Ty} {index : Bool}
    {op : Nat × Nat × FlagBits → Nat × Nat × FlagBits → Nat × Nat × FlagBits} {v i : Nat} {f : FlagBits}
    (grant : s.iss.snap.grant ≠ 0)
    (tree : pairtree op 9 ((List.range (vcount t s.iss.snap)).map (leafOf t (s.iss.snap.vget a))) = some (v, i, f)) :
    reduce d a t index op s = writeVec d (reduced (s.iss.snap.vget d) t index v i
      (anyElemPoison t (s.iss.snap.vget a) (vcount t s.iss.snap))) f s := by
  refine (granted_some grant).trans ?_
  unfold leafOf at tree
  simp only [tree]
  cases index <;> rfl

section
variable {old : VData} {t : Ty} {index : Bool} {v i : Nat} {p : Bool}

theorem reduced_elem : (reduced old t index v i p).elem t 0 = canonElem t v % 2 ^ t.width := by
  cases index with
  | false => exact withResult_elem
  | true => exact withIndex_elem.1.trans withResult_elem
/-- The poison of the result and of the index, and the lanes after them, which stay. -/
theorem reduced_lanes : (reduced old t index v i p).elemPoison t 0 = p ∧
    (t.store ≠ 64 → (laneAt (reduced old t index v i p).lanes 0).toNat = (reduced old t index v i p).elem t 0) ∧
    (index = true → (reduced old t index v i p).poison.getLsbD (Ty.span t) = p) ∧
    ∀ l, (if index then Ty.span t < l else Ty.span t ≤ l) → l < 64 →
      laneAt (reduced old t index v i p).lanes l = laneAt old.lanes l ∧
        (reduced old t index v i p).poison.getLsbD l = old.poison.getLsbD l := by
  have lane : 0 < Ty.span t ∧ Ty.span t < 64 := by cases t <;> decide
  cases index with
  | false =>
    refine ⟨withResult_elemPoison, withResult_lane_zero, nofun, fun l after hl => ⟨withResult_lane_above after, ?_⟩⟩
    exact (withResult_poison hl).trans (if_neg (not_lt.mpr after))
  | true =>
    refine ⟨withIndex_elem.2.trans withResult_elemPoison, fun narrow => ?_, fun _ => (withIndex_poison lane.2).trans (if_pos rfl),
      fun l after hl => ?_⟩
    · exact (congrArg BitVec.toNat (withIndex_lane.trans (if_neg lane.1.ne))).trans
        ((withResult_lane_zero narrow).trans withIndex_elem.1.symm)
    · have above : Ty.span t < l := after
      refine ⟨(withIndex_lane.trans (if_neg above.ne')).trans (withResult_lane_above above.le), ?_⟩
      exact ((withIndex_poison hl).trans (if_neg above.ne')).trans ((withResult_poison hl).trans (if_neg above.not_gt))
theorem reduced_index : laneAt (reduced old t true v i p).lanes (Ty.span t) = BitVec.ofNat 32 i := withIndex_lane.trans (if_pos rfl)

theorem canonElem_int (int : t.isInt = true) : canonElem t v = v := by simp [canonElem, Ty.isInt_class int]
theorem canonElem_float (float : t.isFloat = true) : canonElem t v = if (t.fty.val v).isNan then t.fty.qnan else v := by
  obtain ⟨notInt, notLn, -⟩ := Ty.isFloat_class float
  simp [canonElem, elemNan, float, notInt, notLn]
theorem reduced_int (int : t.isInt = true) : (reduced old t index v i p).elem t 0 = v % 2 ^ t.width := by
  rw [reduced_elem, canonElem_int int]
theorem reduced_nan (float : t.isFloat = true) (nan : (t.fty.val v).isNan = true) :
    (reduced old t index v i p).elem t 0 = t.fty.qnan := by
  rw [reduced_elem, canonElem_float float, if_pos nan, ← (Ty.isFloat_class float).2.2, Nat.mod_eq_of_lt (Fty.qnan_lt _)]
theorem reduced_number (float : t.isFloat = true) (number : (t.fty.val v).isNan = false) (hv : v < 2 ^ t.width) :
    (reduced old t index v i p).elem t 0 = v := by
  rw [reduced_elem, canonElem_float float, if_neg (Bool.eq_false_iff.mp number), Nat.mod_eq_of_lt hv]
theorem reduced_float (float : t.isFloat = true) (hv : v < 2 ^ t.width) :
    (reduced old t index v i p).elem t 0 = if (t.fty.val v).isNan then t.fty.qnan else v := by
  split
  next nan => exact reduced_nan float nan
  next number => exact reduced_number float (Bool.eq_false_iff.mpr number) hv
end

/-! ### Flags -/

/-- NV when some element of a run is a signaling NaN. -/
def signaling (t : Ty) (x : VData) (run : List Nat) : FlagBits :=
  flagIf (run.any fun i => t.isFloat && (t.fty.val (x.elem t i)).isSig) nvFlag
theorem signaling_append (t : Ty) (x : VData) (l r : List Nat) : signaling t x l ||| signaling t x r = signaling t x (l ++ r) := by
  unfold signaling
  rw [List.any_append]
  generalize l.any _ = a
  generalize r.any _ = b
  revert a b
  decide
theorem signaling_int {t : Ty} (x : VData) (run : List Nat) (int : t.isInt = true) : signaling t x run = 0 := by
  simp [signaling, Ty.isInt_class int, flagIf]
theorem signaling_float {t : Ty} (x : VData) (run : List Nat) (float : t.isFloat = true) :
    signaling t x run = if run.any (fun i => (t.fty.val (x.elem t i)).isSig) then nvFlag else 0 := by
  simp [signaling, float, flagIf]

section
variable {s : State} {d a : VReg} {t : Ty} {x : VData} {n : Nat}
  {op : Nat × Nat × FlagBits → Nat × Nat × FlagBits → Nat × Nat × FlagBits} {v : Nat × Nat × FlagBits}

/-- An operation that raises nothing of its own raises NV for the signaling NaNs alone. -/
theorem tree_signaling (quiet : ∀ a b, (op a b).2.2 = a.2.2 ||| b.2.2)
    (tree : pairtree op 9 ((List.range n).map (leafOf t x)) = some v) (levels : n ≤ 2 ^ 9) : v.2.2 = signaling t x (List.range n) := by
  refine pairtree_range (P := fun run v => v.2.2 = signaling t x run) (fun hl hr => ?_) (fun i _ => ?_) tree levels
  · rw [quiet, hl, hr, signaling_append]
  · simp [leafOf, signaling]

/-! ### VREDADD -/

/-- The combination of VREDADD. -/
def addPair (t : Ty) (rm : Rm) (p q : Nat × Nat × FlagBits) : Nat × Nat × FlagBits :=
  ((vaddE t rm p.1 q.1).1, 0, p.2.2 ||| q.2.2 ||| (vaddE t rm p.1 q.1).2)
theorem vaddE_int {rm : Rm} (int : t.isInt = true) (p q : Nat) : vaddE t rm p q = ((p + q) % 2 ^ t.width, 0) := if_pos int
theorem vaddE_float {rm : Rm} (float : t.isFloat = true) (p q : Nat) : vaddE t rm p q = fadd t.fty rm p q :=
  if_neg (Bool.eq_false_iff.mp (Ty.isFloat_class float).1)

theorem tree_sum {rm : Rm} (int : t.isInt = true) (tree : pairtree (addPair t rm) 9 ((List.range n).map (leafOf t x)) = some v)
    (levels : n ≤ 2 ^ 9) : v.1 % 2 ^ t.width = ((List.range n).map (x.elem t)).sum % 2 ^ t.width ∧ v.2.2 = 0 := by
  refine pairtree_range (P := fun run v => v.1 % 2 ^ t.width = (run.map (x.elem t)).sum % 2 ^ t.width ∧ v.2.2 = 0)
    (fun hl hr => ?_) (fun i _ => ?_) tree levels
  · simp only [addPair, vaddE_int int, hl.2, hr.2, List.map_append, List.sum_append, Nat.mod_mod]
    exact ⟨Nat.ModEq.add hl.1 hr.1, rfl⟩
  · simp [leafOf, Ty.isInt_class int, flagIf]
theorem tree_float_lt {rm : Rm} (float : t.isFloat = true) (tree : pairtree (addPair t rm) 9 ((List.range n).map (leafOf t x)) = some v)
    (levels : n ≤ 2 ^ 9) : v.1 < 2 ^ t.width := by
  refine pairtree_range (P := fun _ v => v.1 < 2 ^ t.width) (fun _ _ => ?_) (fun i _ => x.elem_lt t i) tree levels
  rw [addPair, vaddE_float float, ← (Ty.isFloat_class float).2.2]
  exact finish_lt ..
/-- That of a sum of floats, without the index that it does not use (R64). -/
def addFlagged (t : Fty) (rm : Rm) (p q : Nat × FlagBits) : Nat × FlagBits :=
  ((fadd t rm p.1 q.1).1, p.2 ||| q.2 ||| (fadd t rm p.1 q.1).2)
theorem tree_float_sum {rm : Rm} (float : t.isFloat = true) (tree : pairtree (addPair t rm) 9 ((List.range n).map (leafOf t x)) = some v) :
    pairtree (addFlagged t.fty rm) 9
      ((List.range n).map fun i => (x.elem t i, if (t.fty.val (x.elem t i)).isSig then nvFlag else 0)) = some (v.1, v.2.2) := by
  have mapped := pairtree_map (op := addPair t rm) (op' := addFlagged t.fty rm) (f := fun v => (v.1, v.2.2))
    (fun a b => by rw [addPair, vaddE_float float]; rfl) 9 ((List.range n).map (leafOf t x))
  rw [tree, List.map_map] at mapped
  simpa [Function.comp_def, leafOf, float, flagIf] using mapped

/-! ### VREDMAX -/

/-- The combination of VREDMAX. -/
def maxPair (t : Ty) (p q : Nat × Nat × FlagBits) : Nat × Nat × FlagBits := ((vpickE true t p.1 q.1).1, 0, p.2.2 ||| q.2.2)

theorem Largest.elem_lt {K : Type} [LinearOrder K] {key : Nat → K} {run : List Nat} {v : Nat} (h : Largest key (x.elem t) run v) :
    v < 2 ^ t.width := by
  obtain ⟨i, -, rfl, -⟩ := h
  exact x.elem_lt t i
theorem tree_max_int (int : t.isInt = true) (tree : pairtree (maxPair t) 9 ((List.range n).map (leafOf t x)) = some v)
    (levels : n ≤ 2 ^ 9) : Largest t.int (x.elem t) (List.range n) v.1 := by
  refine pairtree_range (P := fun run v => Largest t.int (x.elem t) run v.1) (fun {l r a b} hl hr => hl.join hr ?_)
    (fun i _ => largest_one i) tree levels
  rw [maxPair, (vpickE_int int (Largest.elem_lt hl) (Largest.elem_lt hr)).2]
  by_cases order : t.int a.1 ≤ t.int b.1
  · exact .inr ⟨if_pos order, order⟩
  · exact .inl ⟨if_neg order, (not_le.mp order).le⟩

/-- A NaN when a run has one, and its largest number when it has none. -/
def LargestNumber (t : Fty) (e : Nat → Nat) (run : List Nat) (v : Nat) : Prop :=
  (∃ i ∈ run, (t.val (e i)).isNan = true) ∧ (t.val v).isNan = true ∨
    (∀ i ∈ run, (t.val (e i)).isNan = false) ∧ (t.val v).isNan = false ∧ Largest (fun a => Val.key (t.val a)) e run v
theorem largestNumber_one (t : Fty) (e : Nat → Nat) (i : Nat) : LargestNumber t e [i] (e i) := by
  by_cases nan : (t.val (e i)).isNan = true
  · exact .inl ⟨⟨i, by simp, nan⟩, nan⟩
  · have number := Bool.eq_false_iff.mpr nan
    exact .inr ⟨by simpa using number, number, largest_one i⟩
theorem LargestNumber.join {l r : List Nat} {a b : Nat} (float : t.isFloat = true) (hl : LargestNumber t.fty (x.elem t) l a)
    (hr : LargestNumber t.fty (x.elem t) r b) : LargestNumber t.fty (x.elem t) (l ++ r) (pickMax t.fty true a b).1 := by
  have nan (found : ∃ i ∈ l ++ r, (t.fty.val (x.elem t i)).isNan = true) (operand : ((t.fty.val a).isNan || (t.fty.val b).isNan) = true) :
      LargestNumber t.fty (x.elem t) (l ++ r) (pickMax t.fty true a b).1 := by
    rw [pickMax_nan true operand]
    exact .inl ⟨found, Fty.val_qnan t.fty⟩
  obtain ⟨⟨i, hi, is⟩, na⟩ | ⟨left, na, la⟩ := hl
  · exact nan ⟨i, by simp [hi], is⟩ (by simp [na])
  obtain ⟨⟨i, hi, is⟩, nb⟩ | ⟨right, nb, lb⟩ := hr
  · exact nan ⟨i, by simp [hi], is⟩ (by simp [nb])
  have whole {v : Nat} (h : v < 2 ^ t.width) : bits v 0 t.fty.width = v := by
    simp [bits, (Ty.isFloat_class float).2.2, Nat.mod_eq_of_lt h]
  have larger := pickMax_largest na nb
  rw [whole (Largest.elem_lt la), whole (Largest.elem_lt lb)] at larger
  refine .inr ⟨fun i hi => (List.mem_append.mp hi).elim (left i) (right i), ?_, la.join lb larger⟩
  obtain ⟨same, -⟩ | ⟨same, -⟩ := larger <;> rwa [same]
theorem tree_max_float (float : t.isFloat = true) (tree : pairtree (maxPair t) 9 ((List.range n).map (leafOf t x)) = some v)
    (levels : n ≤ 2 ^ 9) : LargestNumber t.fty (x.elem t) (List.range n) v.1 := by
  refine pairtree_range (P := fun run v => LargestNumber t.fty (x.elem t) run v.1) (fun {l r a b} hl hr => ?_)
    (fun i _ => largestNumber_one t.fty _ i) tree levels
  obtain ⟨notInt, notLn, -⟩ := Ty.isFloat_class float
  have pick : vpickE true t a.1 b.1 = pickMax t.fty true a.1 b.1 := by simp [vpickE, notInt, notLn]
  rw [maxPair, pick]
  exact hl.join float hr

/-! ### VARGMAX -/

/-- The combination of VARGMAX. -/
def argmaxPair (t : Ty) (p q : Nat × Nat × FlagBits) : Nat × Nat × FlagBits :=
  ((if largerElem t p.1 q.1 then q else p).1, (if largerElem t p.1 q.1 then q else p).2.1, p.2.2 ||| q.2.2)

theorem tree_picked (tree : pairtree (argmaxPair t) 9 ((List.range n).map (leafOf t x)) = some v) (levels : n ≤ 2 ^ 9) :
    Picked (x.elem t) (List.range n) v := by
  refine pairtree_range (P := Picked (x.elem t)) (fun {l r a b} hl hr => ?_) (fun i _ => ⟨by simp [leafOf], rfl⟩) tree levels
  obtain ⟨ai, ae⟩ := hl
  obtain ⟨bi, be⟩ := hr
  unfold argmaxPair
  split
  · exact ⟨by simp [bi], be⟩
  · exact ⟨by simp [ai], ae⟩
theorem tree_first {K : Type} [LinearOrder K] {key : Nat → K} (order : ∀ a b, largerElem t a b = decide (key a < key b))
    (tree : pairtree (argmaxPair t) 9 ((List.range n).map (leafOf t x)) = some v) (levels : n ≤ 2 ^ 9) :
    ∀ j, j < n → key (x.elem t j) ≤ key v.1 ∧ (key (x.elem t j) = key v.1 → v.2.1 ≤ j) := by
  have first : FirstLargest key (x.elem t) (List.range n) v :=
    pairtree_range (fun hl hr => hl.join hr (order ..) _) (fun i _ => firstLargest_one i _) tree levels
  simpa using first.2 List.pairwise_lt_range
end

/-! ### The instructions -/

/-- The next state of a reduction whose tree ends in a value. -/
def reduction (d a : VReg) (t : Ty) (index : Bool) (v : Nat × Nat × FlagBits) (s : State) : State :=
  writeVec d (reduced (s.iss.snap.vget d) t index v.1 v.2.1 (anyElemPoison t (s.iss.snap.vget a) (vcount t s.iss.snap))) v.2.2 s

section
variable {s : State} {d a : VReg} {t : Ty} {v : Nat × Nat × FlagBits} (grant : s.iss.snap.grant ≠ 0)
include grant

theorem execVredadd_some {rm : Rm}
    (tree : pairtree (addPair t rm) 9 ((List.range (vcount t s.iss.snap)).map (leafOf t (s.iss.snap.vget a))) = some v) :
    exec (.vredadd d a t rm) s = .next (reduction d a t false v s) := congrArg _ (reduce_some grant tree)
theorem execVredmax_some
    (tree : pairtree (maxPair t) 9 ((List.range (vcount t s.iss.snap)).map (leafOf t (s.iss.snap.vget a))) = some v) :
    exec (.vredmax d a t) s = .next (reduction d a t false v s) := congrArg _ (reduce_some grant tree)
theorem execVargmax_some
    (tree : pairtree (argmaxPair t) 9 ((List.range (vcount t s.iss.snap)).map (leafOf t (s.iss.snap.vget a))) = some v) :
    exec (.vargmax d a t) s = .next (reduction d a t true v s) := congrArg _ (reduce_some grant tree)
end
theorem vget_reduction (d a : VReg) (t : Ty) (index : Bool) (v : Nat × Nat × FlagBits) (s : State) :
    (reduction d a t index v s).iss.live.vget d = reduced (s.iss.snap.vget d) t index v.1 v.2.1
      (anyElemPoison t (s.iss.snap.vget a) (vcount t s.iss.snap)) := vget_writeVec ..

/-- Settles O16: VCVT element by element and lane by lane; each reduction by what its tree keeps of the elements below each node. -/
theorem vectorExtractAndReduce : Obligations.VectorExtractAndReduce := by
  unfold Obligations.VectorExtractAndReduce
  intro s d a r t t2 rm idx grant count short th x n vl others val sig raises nv first
  have levels : n ≤ 2 ^ 9 := (Ty.count_le short).trans ((Ty.count_max t).trans (by decide))
  have firsts {index : Bool} {v : Nat × Nat × FlagBits} : first (reduction d a t index v s) index := by
    simp only [first, vget_reduction]
    exact reduced_lanes
  have raising {index : Bool} {v : Nat × Nat × FlagBits} {f : FlagBits} (flags : v.2.2 = f) :
      raises (reduction d a t index v s) f := congrArg (s.iss.live.flags ||| ·) flags
  refine ⟨congrArg _ (granted_some grant), ?vcvt, ?vredadd, ?vredmax, ?vargmax⟩
  case vcvt =>
    refine ⟨_, execVcvt_some grant (vl_ne_zero count), writeVec_leaves .., ?_⟩
    rw [vget_writeVec]
    intro y m per c
    refine ⟨congrArg (s.iss.live.flags ||| ·) (mapElems_flags ..), fun i hi => converted_below short hi, fun l hl => ?_⟩
    obtain ⟨low, high⟩ := Ty.unused_lane hl
    exact converted_above short low high
  case vredadd =>
    obtain ⟨v, tree⟩ := pairtree_range_some (addPair t rm) (leafOf t x) count levels
    refine ⟨_, execVredadd_some grant tree, writeVec_leaves .., firsts, fun int => ?_, fun float w g sum => ?_⟩
    · obtain ⟨total, quiet⟩ := tree_sum int tree levels
      refine ⟨raising quiet, ?_⟩
      rw [vget_reduction, reduced_int int]
      exact total
    · obtain ⟨rfl, rfl⟩ := Prod.mk.inj (Option.some.inj ((tree_float_sum float tree).symm.trans sum))
      refine ⟨rfl, ?_⟩
      rw [vget_reduction, reduced_float float (tree_float_lt float tree levels)]
  case vredmax =>
    obtain ⟨v, tree⟩ := pairtree_range_some (maxPair t) (leafOf t x) count levels
    have raised := tree_signaling (fun _ _ => rfl) tree levels
    refine ⟨_, execVredmax_some grant tree, writeVec_leaves .., firsts, fun int => ?_, fun float => ?_⟩
    all_goals rw [vget_reduction]
    · obtain ⟨i, hi, same, largest⟩ := tree_max_int int tree levels
      refine ⟨raising (raised.trans (signaling_int x _ int)), i, List.mem_range.mp hi, ?_, fun j hj => largest j (List.mem_range.mpr hj)⟩
      rw [reduced_int int, same, Nat.mod_eq_of_lt (x.elem_lt t i)]
    · refine ⟨raising (raised.trans (signaling_float x _ float)), ?_⟩
      obtain ⟨⟨k, hk, above⟩, nan⟩ | ⟨none, number, i, hi, same, largest⟩ := tree_max_float float tree levels
      · refine ⟨fun _ => reduced_nan float nan, fun none => ?_⟩
        exact absurd above (Bool.eq_false_iff.mp (none k (List.mem_range.mp hk)))
      · refine ⟨fun ⟨k, hk, above⟩ => absurd above (Bool.eq_false_iff.mp (none k (List.mem_range.mpr hk))), fun _ => ?_⟩
        refine ⟨i, List.mem_range.mp hi, ?_, fun j hj => Val.key_le (largest j (List.mem_range.mpr hj))⟩
        rw [reduced_number float number (same ▸ x.elem_lt t i), same]
  case vargmax =>
    obtain ⟨⟨e, i, f⟩, tree⟩ := pairtree_range_some (argmaxPair t) (leafOf t x) count levels
    have raised := tree_signaling (fun _ _ => rfl) tree levels
    obtain ⟨hi, same⟩ := tree_picked tree levels
    obtain rfl : e = x.elem t i := same
    refine ⟨_, execVargmax_some grant tree, writeVec_leaves .., firsts, i, List.mem_range.mp hi, ?_, fun int => ?_, fun float => ?_⟩
    all_goals rw [vget_reduction]
    · exact reduced_index
    · refine ⟨raising (raised.trans (signaling_int x _ int)), ?_, tree_first (largerElem_int int) tree levels⟩
      rw [reduced_int int, Nat.mod_eq_of_lt (x.elem_lt t i)]
    · refine ⟨raising (raised.trans (signaling_float x _ float)), reduced_float float (x.elem_lt t i), fun j hj => ?_⟩
      obtain ⟨order, earliest⟩ := tree_first (largerElem_float float) tree levels j hj
      obtain ⟨nan, number⟩ := Val.argKey_le order
      refine ⟨fun h => ?_, fun h => ?_⟩
      · obtain ⟨above, equal⟩ := nan h
        exact ⟨above, earliest equal⟩
      · obtain ⟨below, equal⟩ := number h
        exact ⟨below, fun tie => earliest (equal tie)⟩

end Sys2Proof.Machine

namespace Sys2Proof.Machine

/-! ## Memory in its canonical form, step by step (R140, R147)

One lemma for each function of the model that makes a state: it keeps the form because the functions it calls do. -/

/-! ### States whose memory stays in its canonical form -/

/-- The second state's memory is in its canonical form when the first one's is. -/
@[reducible] def KeepsForm (s t : State) : Prop := Memory.wf s.mem = true → Memory.wf t.mem = true
/-- A next state keeps the canonical form of the first one's memory. -/
@[reducible] def KeepsOut (s : State) (o : Out) : Prop := ∀ t, o = .next t → KeepsForm s t

theorem KeepsForm.rfl {s : State} : KeepsForm s s := id
theorem KeepsForm.trans {s t u : State} (h : KeepsForm s t) (k : KeepsForm t u) : KeepsForm s u := fun w => k (h w)
theorem KeepsForm.ite {s t u : State} {p : Prop} [Decidable p] (h : KeepsForm s t) (k : KeepsForm s u) :
    KeepsForm s (if p then t else u) := by
  split
  · exact h
  · exact k
theorem KeepsForm.snd {β : Type} {s t : State} {x : β × State} {b : β} (k : KeepsForm s x.2) (h : x = (b, t)) :
    KeepsForm s t := by
  subst h
  exact k
theorem KeepsOut.next {s t : State} (h : KeepsForm s t) : KeepsOut s (.next t) := fun _ e => Host.Outcome.next.inj e ▸ h
theorem KeepsOut.fault {s : State} {f : Fault} : KeepsOut s (.fault f) := fun _ e => nomatch e
theorem KeepsOut.refused {s : State} {r : Refusal} : KeepsOut s (.refused r) := fun _ e => nomatch e
theorem KeepsOut.of_keepsForm {s t : State} {o : Out} (h : KeepsForm s t) (k : KeepsOut t o) : KeepsOut s o :=
  fun u e => h.trans (k u e)
theorem keepsForm_foldl {α : Type} {f : State → α → State} (h : ∀ s x, KeepsForm s (f s x)) {l : List α} {s : State} :
    KeepsForm s (l.foldl f s) := by
  induction l generalizing s with
  | nil => exact .rfl
  | cons x l ih => exact (h s x).trans ih
theorem keepsForm_foldl_snd {α β : Type} {f : β × State → α → β × State} (h : ∀ p x, KeepsForm p.2 (f p x).2) {l : List α}
    {p : β × State} : KeepsForm p.2 (l.foldl f p).2 := by
  induction l generalizing p with
  | nil => exact .rfl
  | cons x l ih => exact (h p x).trans ih

/-! ### the state and its threads -/

theorem keepsForm_setCore {s : State} {c : Nat} {k : Core} : KeepsForm s (s.setCore c k) := id
theorem keepsForm_modCore {s : State} {c : Nat} {f : Core → Core} : KeepsForm s (s.modCore c f) := id
theorem keepsForm_setCluster {s : State} {c : Nat} {k : Cluster} : KeepsForm s (s.setCluster c k) := id
theorem keepsForm_modCluster {s : State} {c : Nat} {f : Cluster → Cluster} : KeepsForm s (s.modCluster c f) := id
theorem keepsForm_modDistrict {s : State} {d : Nat} {f : District → District} : KeepsForm s (s.modDistrict d f) :=
  (atBank_modDistrict ..).wf
theorem keepsForm_setThread {s : State} {t : Nat} {th : Thread} : KeepsForm s (s.setThread t th) := id
theorem keepsForm_modThread {s : State} {t : Nat} {f : Thread → Thread} : KeepsForm s (s.modThread t f) := by
  grind [State.modThread, keepsForm_setThread]
theorem keepsForm_dropThread {s : State} {t : Nat} : KeepsForm s (s.dropThread t) := id
theorem keepsForm_modNamed {s : State} {n : TName} {f : Thread → Thread} : KeepsForm s (s.modNamed n f) := (atBank_modNamed ..).wf
theorem keepsForm_modLaunch {s : State} {lid : Nat} {f : Launch → Launch} : KeepsForm s (s.modLaunch lid f) := by
  grind [State.modLaunch]
theorem keepsForm_launchFlags {s : State} {launchid : Word} {f : FlagBits} : KeepsForm s (s.launchFlags launchid f) := by
  grind [State.launchFlags, keepsForm_modLaunch]
theorem keepsForm_writeN {s : State} {a n v : Nat} : KeepsForm s (s.writeN a n v) := (atBank_writeN s a n v).wf
theorem keepsForm_send {s : State} {path : Nat} {m : Msg} : KeepsForm s (s.send path m) := (atBank_send ..).wf
theorem keepsForm_take {s : State} {id : Nat} : KeepsForm s (s.take id) := fun h => h
theorem keepsForm_bump {s : State} : KeepsForm s (s.bump) := id
theorem keepsForm_soon {s : State} {i : Instr} : KeepsForm s (s.soon i) := id
theorem keepsForm_later {s : State} {i : Instr} : KeepsForm s (s.later i) := id
theorem keepsForm_sendRecord {s : State} {core : Nat} {r : Record} : KeepsForm s (s.sendRecord core r) := id
theorem keepsForm_logEntry {s : State} {sev : Nat} {repair : Bool} {cause loc : Nat} {who what : Word} :
    KeepsForm s (s.logEntry sev repair cause loc who what) := id
theorem keepsForm_sendTrap {s : State} {core slot : Nat} {gen : BitVec 12} {launch pc : Word} {took : Bool} {t : Trap} :
    KeepsForm s (s.sendTrap core slot gen launch pc took t) := by
  grind [State.sendTrap, keepsForm_sendRecord, keepsForm_soon]
theorem keepsForm_trap {t : Trap} {s : State} : KeepsForm s (trap t s) := by grind [trap, keepsForm_sendTrap]
theorem keepsForm_trapPending {s : State} {core slot : Nat} {t : Trap} : KeepsForm s (s.trapPending core slot t) := by
  unfold State.trapPending
  grind [keepsForm_sendTrap, keepsForm_setThread]
theorem keepsForm_live {f : Thread → Thread} {s : State} : KeepsForm s (live f s) := id
theorem keepsForm_stopWait {wait : Nat} {object : Word} {s : State} : KeepsForm s (stopWait wait object s) := id
theorem keepsForm_detach {op : Op} {ph : Phase} {s : State} : KeepsForm s (detach op ph s) := id

/-! ### translation -/

theorem keepsForm_setMeta {s : State} {w : Nat} {m : Meta} : KeepsForm s (s.setMeta w m) := (atBank_setMeta ..).wf
theorem keepsForm_wordError {s : State} {w : Nat} {who : Word} : KeepsForm s (s.wordError w who) := by
  grind [State.wordError, keepsForm_logEntry, keepsForm_setMeta]
theorem keepsForm_touchFrom {va : Nat} {who : Word} {l : List (Nat × Nat)} {table : Nat} {s : State} :
    KeepsForm s (touchFrom va who l table s) := by
  induction l generalizing table s with
  | nil => exact .rfl
  | cons p l ih =>
    unfold touchFrom
    grind [keepsForm_wordError]
theorem keepsForm_touchWalk {s : State} {space : Word} {va : Nat} {who : Word} : KeepsForm s (s.touchWalk space va who) := by
  grind [State.touchWalk, keepsForm_touchFrom]
theorem keepsForm_fillTlbs {s : State} {core slot : Nat} {space : Word} {l : Leaf} :
    KeepsForm s (s.fillTlbs core slot space l) := id
theorem keepsForm_translateEngine {s : State} {core : Nat} {space : Word} {sup : Bool} {k : Kind} {va : Word} :
    KeepsForm s (s.translateEngine core space sup k va).2 := by
  grind [State.translateEngine, keepsForm_bump, keepsForm_modCluster, keepsForm_touchWalk]
theorem keepsForm_withAddress {k : Kind} {va : Word} {body : Nat → State → State} {s : State} (h : ∀ pa t, KeepsForm t
    (body pa t)) :
    KeepsForm s (withAddress k va body s) := by
  grind [withAddress, keepsForm_trap, keepsForm_modCore, keepsForm_stopWait]

/-! ### the banks -/

theorem keepsForm_busWrite {s : State} {pa n v : Nat} : KeepsForm s (s.busWrite pa n v) := (atBank_busWrite ..).wf
theorem keepsForm_storeWord {s : State} {w : Nat} {v : Word} : KeepsForm s (s.storeWord w v) := (atBank_storeWord ..).wf
theorem keepsForm_answer {s : State} {a : Access} {r : Reply} : KeepsForm s (s.answer a r) := (atBank_answer ..).wf
theorem keepsForm_refuse {s : State} {a : Access} {cause detail : Nat} {va vb vc : Word} :
    KeepsForm s (s.refuse a cause detail va vb vc) :=
  (atBank_refuse ..).wf
theorem keepsForm_refuseAt {s : State} {a : Access} {cause : Nat} : KeepsForm s (s.refuseAt a cause) := by
  grind [State.refuseAt, keepsForm_refuse]
theorem keepsForm_modPort {s : State} {p : Nat} {f : Port → Port} : KeepsForm s (s.modPort p f) := id
theorem keepsForm_park {s : State} {a : Access} : KeepsForm s (s.park a) := (atBank_park ..).wf
theorem keepsForm_afterHold {s : State} {w : Nat} {before : Meta} : KeepsForm s (s.afterHold w before) := (atBank_afterHold ..).wf
theorem keepsForm_effect {s : State} {a : Access} : KeepsForm s (s.effect a).1 := (atBank_effect ..).wf
theorem keepsForm_feserve {s : State} {w : Nat} : KeepsForm s (s.feserve w) := (atBank_feserve ..).wf
theorem keepsForm_perform {s : State} {a0 : Access} : KeepsForm s (s.perform a0) := (atBank_perform ..).wf
theorem keepsForm_dropWaiters {s : State} {w : Nat} {p : Waiter → Bool} : KeepsForm s (s.dropWaiters w p) :=
  (atBank_dropWaiters ..).wf
theorem keepsForm_passOut {s : State} {die : Nat} {a : Access} {b : Option Access} : KeepsForm s (s.passOut die a b) := by
  grind [State.passOut, keepsForm_bump, keepsForm_modNamed, keepsForm_send]
theorem keepsForm_answerJoined {s : State} {opened pa : Nat} {r : Reply} {word : Word} {l : List (Nat × Thread)} :
    KeepsForm s (s.answerJoined opened pa r word l) := by
  induction l generalizing s with
  | nil => exact .rfl
  | cons p l ih =>
    unfold State.answerJoined
    grind [keepsForm_modThread, keepsForm_send]
theorem keepsForm_passIn {s : State} {a : Access} {r : Reply} {word : Word} : KeepsForm s (s.passIn a r word) := by
  grind [State.passIn, keepsForm_answerJoined, keepsForm_send]
theorem keepsForm_passBridge {s : State} {id : Nat} : KeepsForm s (s.passBridge id) := by
  grind [State.passBridge, keepsForm_passIn, keepsForm_passOut, keepsForm_take]
theorem keepsForm_flushReplies {s : State} {die pa : Nat} : KeepsForm s (s.flushReplies die pa) := by
  unfold State.flushReplies
  grind [keepsForm_passBridge, keepsForm_foldl]
theorem keepsForm_closeReads {s : State} {die w : Nat} : KeepsForm s (s.closeReads die w) := id
theorem keepsForm_engineSees {s : State} {die pa : Nat} : KeepsForm s (s.engineSees die pa) := by
  unfold State.engineSees
  grind [keepsForm_flushReplies]
theorem keepsForm_engineTouches {s : State} {die pa : Nat} : KeepsForm s (s.engineTouches die pa) := by
  grind [State.engineTouches, keepsForm_closeReads, keepsForm_flushReplies]
theorem keepsForm_peerSays {s : State} {a : Access} : KeepsForm s (s.peerSays a).2 := by grind [State.peerSays, keepsForm_bump]
theorem keepsForm_readNow {s : State} {a0 : Access} : KeepsForm s (s.readNow a0).2 := by
  grind [State.readNow, keepsForm_effect, keepsForm_feserve, keepsForm_peerSays, keepsForm_wordError]
theorem keepsForm_storeNow {s : State} {a : Access} : KeepsForm s (s.storeNow a) := by
  grind [State.storeNow, keepsForm_perform, keepsForm_send, keepsForm_wordError]
theorem keepsForm_sendAccess {s : State} {t : TName} {a : Access} : KeepsForm s (s.sendAccess t a) := id
theorem keepsForm_sendEngine {s : State} {eng : Nat} {a : Access} {b : Option Access} : KeepsForm s (s.sendEngine eng a b) := id

/-! ### answers -/

theorem keepsForm_markFault {s : State} {launch : Word} : KeepsForm s (s.markFault launch) := by
  grind [State.markFault, keepsForm_modLaunch]
theorem keepsForm_sendAsync {s : State} {issuer : TName} {launch : Word} {f : RecordFields} :
    KeepsForm s (s.sendAsync issuer launch f) := by
  grind [State.sendAsync, keepsForm_logEntry, keepsForm_markFault, keepsForm_sendRecord]
theorem keepsForm_holdFault {s : State} {eng district op cause reason : Nat} {issuer : TName} {launch pc va vb vd : Word} :
    KeepsForm s (s.holdFault eng district op cause reason issuer launch pc va vb vd) := by
  grind [State.holdFault, keepsForm_markFault, keepsForm_sendRecord]
theorem keepsForm_markUnit {s : State} {locn : Nat} : KeepsForm s (s.markUnit locn).2 := by grind [State.markUnit]
theorem keepsForm_flare {s : State} {hop : Nat} {issuer : TName} {eng : Option Nat} {launch pc w2 w3 : Word} {rowp locn : Nat}
    {w7 : Word} : KeepsForm s (s.flare hop issuer eng launch pc w2 w3 rowp locn w7) := by
  grind [State.flare, keepsForm_logEntry, keepsForm_markFault, keepsForm_markUnit, keepsForm_sendAsync]
theorem keepsForm_notice {s : State} {core kind : Nat} {target : Word} {reg : Nat} :
    KeepsForm s (s.notice core kind target reg) := id

/-! ### threads -/

theorem keepsForm_allocate {s : State} {core slot : Nat} {launch space : Word} {priv : Bool} {pc : Word} {f : Thread → Thread} :
    KeepsForm s (s.allocate core slot launch space priv pc f) := id
theorem keepsForm_slotFreed {s : State} {core slot : Nat} : KeepsForm s (s.slotFreed core slot) := by
  grind [State.slotFreed, keepsForm_send, keepsForm_setCore]
theorem keepsForm_popPend {s : State} {t : Nat} {f : Thread → Thread} : KeepsForm s (s.popPend t f) := by
  grind [State.popPend, keepsForm_modThread]
theorem keepsForm_release {s : State} {n : TName} : KeepsForm s (s.release n) := by grind [State.release, keepsForm_popPend]
theorem keepsForm_settleBars {s : State} {launch : Word} : KeepsForm s (s.settleBars launch) := by
  unfold State.settleBars
  grind [keepsForm_modLaunch, keepsForm_release, keepsForm_foldl]
theorem keepsForm_barArrive {s : State} {name : TName} {launch : Word} {sc : Scope} {level : Nat} {n : BitVec 16} :
    KeepsForm s (s.barArrive name launch sc level n) := by
  grind [State.barArrive, keepsForm_modLaunch, keepsForm_modNamed, keepsForm_popPend, keepsForm_settleBars, keepsForm_trapPending]
theorem keepsForm_servePops {s : State} {core n : Nat} : KeepsForm s (s.servePops core n) := by
  induction n generalizing s with
  | zero => exact .rfl
  | succ n ih =>
    unfold State.servePops
    grind [keepsForm_modCore, keepsForm_popPend]
theorem keepsForm_pushEntry {s : State} {core : Nat} {v : Word} {x : Bool} : KeepsForm s (s.pushEntry core v x) := by
  grind [State.pushEntry, keepsForm_modCore, keepsForm_servePops]
theorem keepsForm_settlePops {s : State} {launch : Word} : KeepsForm s (s.settlePops launch) := by
  unfold State.settlePops
  grind [keepsForm_popPend, keepsForm_foldl]
theorem keepsForm_afterLeaving {s : State} {core slot : Nat} {launch : Word} : KeepsForm s (s.afterLeaving core slot launch) := by
  grind [State.afterLeaving, keepsForm_modCore, keepsForm_settleBars, keepsForm_settlePops, keepsForm_slotFreed]
theorem keepsForm_endThread {s : State} {core slot : Nat} : KeepsForm s (s.endThread core slot) := by
  unfold State.endThread
  grind [keepsForm_afterLeaving, keepsForm_dropThread, keepsForm_launchFlags]
theorem keepsForm_finish {s : State} {t : Nat} {f : Thread → Thread} : KeepsForm s (s.finish t f) := by
  grind [State.finish, keepsForm_endThread, keepsForm_popPend]
theorem keepsForm_dropSpawn {s : State} {sender seq : Nat} : KeepsForm s (s.dropSpawn sender seq) := id
theorem keepsForm_sendSpawn {s : State} {sender : Nat} {p : Nat × Carried} : KeepsForm s (s.sendSpawn sender p) := id
theorem keepsForm_deliverNred {s : State} {e : NredEntry} : KeepsForm s (s.deliverNred e) := by
  grind [State.deliverNred, keepsForm_modNamed, keepsForm_notice]
theorem keepsForm_deliverFull {s : State} {core : Nat} : KeepsForm s (s.deliverFull core) := by
  unfold State.deliverFull
  grind [keepsForm_deliverNred, keepsForm_modCore, keepsForm_foldl]

/-! ### copies -/

theorem keepsForm_checkTags {s : State} {core : Nat} : KeepsForm s (s.checkTags core) := by
  unfold State.checkTags
  grind [keepsForm_finish, keepsForm_foldl]
theorem keepsForm_setTags {s : State} {core : Nat} {mask : Word} : KeepsForm s (s.setTags core mask) := by
  unfold State.setTags
  grind [keepsForm_checkTags, keepsForm_modCore]
theorem keepsForm_copyAddress {s : State} {c : CopyCmd} {k : Kind} {va start : Word} {base : Nat} :
    KeepsForm s (s.copyAddress c k va start base).2 := by
  grind [State.copyAddress, keepsForm_translateEngine]
theorem keepsForm_fetchWord {eng w : Nat} {f : Fetch} : KeepsForm f.2.1 (fetchWord eng w f).2.1 := by
  unfold fetchWord
  grind [keepsForm_copyAddress, keepsForm_engineSees, keepsForm_readNow]
theorem keepsForm_fetchBytes {eng lo len : Nat} {f : Fetch} : KeepsForm f.2.1 (fetchBytes eng lo len f).2.1 := by
  unfold fetchBytes
  split
  · exact .rfl
  · generalize List.range _ = l
    induction l generalizing f with
    | nil => exact .rfl
    | cons i l ih => exact .trans keepsForm_fetchWord ih
theorem keepsForm_fetched {eng lo len : Nat} {s t : State} {r q : CopyRun} {e : Option CopyStop}
    (h : fetchBytes eng lo len (none, s, r) = (e, t, q)) : KeepsForm s t := by
  have fetched := @keepsForm_fetchBytes eng lo len (none, s, r)
  rw [h] at fetched
  exact fetched
theorem keepsForm_copyStore {s : State} {who : Who} {sup : Bool} {launch : Word} {mode : CopyMode} {pa n v : Nat} {f x : Bool} :
    KeepsForm s (s.copyStore who sup launch mode pa n v f x) := by
  grind [State.copyStore, keepsForm_storeNow]
theorem keepsForm_modCopy {s : State} {eng : Nat} {f : CopyEngine → CopyEngine} : KeepsForm s (s.modCopy eng f) := id
theorem keepsForm_setCopyRun {s : State} {eng : Nat} {r : CopyRun} : KeepsForm s (s.setCopyRun eng r) := id
theorem keepsForm_endCopy {s : State} {eng : Nat} {r : CopyRun} : KeepsForm s (s.endCopy eng r) := by
  grind [State.endCopy, keepsForm_launchFlags, keepsForm_modCopy]
theorem keepsForm_abortCopy {s : State} {eng : Nat} {why : Option HeldFault} : KeepsForm s (s.abortCopy eng why) := by
  unfold State.abortCopy
  grind [keepsForm_dropWaiters, keepsForm_endCopy, keepsForm_sendAsync, keepsForm_foldl]
theorem keepsForm_copyStop {s : State} {eng : Nat} {r : CopyRun} {x : CopyStop} : KeepsForm s (s.copyStop eng r x) := by
  unfold State.copyStop
  grind [keepsForm_abortCopy, keepsForm_holdFault, keepsForm_park, keepsForm_setCopyRun]
theorem keepsForm_destAddress {s : State} {c : CopyCmd} {i : Nat} : KeepsForm s (s.destAddress c i).2 := by
  grind [State.destAddress, keepsForm_copyAddress]
theorem keepsForm_copyWord {s : State} {eng : Nat} {r : CopyRun} : KeepsForm s (s.copyWord eng r) := by
  have fetched (lo len : Nat) := @keepsForm_fetchBytes eng lo len (none, s, r)
  unfold State.copyWord
  grind [keepsForm_setCopyRun, keepsForm_copyStop, keepsForm_destAddress, keepsForm_sendEngine]
theorem keepsForm_execCopyStart {eng : Nat} {s : State} : KeepsOut s (execCopyStart eng s) := by
  grind [execCopyStart, keepsForm_copyWord, keepsForm_modCopy]
theorem keepsForm_writeChunk {eng : Nat} {c : CopyCmd} {r : CopyRun} {lo pa n : Nat} {s : State} :
    KeepsForm s (writeChunk eng c r lo pa n s) := by
  induction n generalizing s with
  | zero => exact .rfl
  | succ n ih => exact .trans keepsForm_engineTouches (.trans keepsForm_copyStore ih)
theorem keepsForm_pairingFault {s : State} {eng : Nat} {r : CopyRun} {seg next seq pseq j : Nat} {va : Word} :
    KeepsForm s (s.pairingFault eng r seg next seq pseq j va) := by
  grind [State.pairingFault, keepsForm_markFault, keepsForm_sendRecord, keepsForm_setCopyRun]
theorem keepsForm_execScaledChunkArrival {eng : Nat} {pseq : BitVec 16} {s : State} :
    KeepsOut s (execScaledChunkArrival eng pseq s) := by
  unfold execScaledChunkArrival
  split
  · exact .fault
  · split
    · exact .refused
    · dsimp only
      split
      · exact .refused
      · split
        · exact .next keepsForm_setCopyRun
        · split
          next asked => exact .next (.trans (.snd keepsForm_copyAddress asked) keepsForm_copyStop)
          next asked =>
            have upTo := KeepsForm.snd keepsForm_copyAddress asked
            split
            · exact .next (upTo.trans keepsForm_copyStop)
            · split
              · exact .next (upTo.trans keepsForm_pairingFault)
              · split
                next fetched => exact .next (upTo.trans (.trans (keepsForm_fetched fetched) keepsForm_copyStop))
                next fetched =>
                  exact .next (upTo.trans (.trans (keepsForm_fetched fetched) (.trans keepsForm_writeChunk
                    (.trans keepsForm_writeN (.trans keepsForm_modCluster keepsForm_setCopyRun)))))
theorem keepsForm_accepted {s : State} {n : TName} : KeepsForm s (s.accepted n) := by grind [State.accepted, keepsForm_finish]
theorem keepsForm_bounced {s : State} {n : TName} {t : Trap} : KeepsForm s (s.bounced n t) := by
  grind [State.bounced, keepsForm_trapPending]
theorem keepsForm_execCopyAccept {id : Nat} {s : State} : KeepsOut s (execCopyAccept id s) := by
  unfold execCopyAccept
  intro t next
  grind [keepsForm_accepted, keepsForm_bounced, keepsForm_modCopy, keepsForm_take, keepsForm_translateEngine]
theorem keepsForm_execCopyComplete {eng : Nat} {s : State} : KeepsOut s (execCopyComplete eng s) := by
  grind [execCopyComplete, keepsForm_copyStop, keepsForm_endCopy, keepsForm_engineTouches, keepsForm_perform, keepsForm_setTags,
    keepsForm_translateEngine]
theorem keepsForm_copyAnswer {s : State} {eng : Nat} {a : Reply} : KeepsForm s (s.copyAnswer eng a) := by
  grind [State.copyAnswer, keepsForm_copyStop, keepsForm_endCopy, keepsForm_setCopyRun]
theorem keepsForm_resumeCopy {s : State} {eng : Nat} {abort : Bool} : KeepsForm s (s.resumeCopy eng abort) := by
  grind [State.resumeCopy, keepsForm_abortCopy, keepsForm_setCopyRun]

/-! ### the matrix unit -/

theorem keepsForm_checkTiles {s : State} {cl : Nat} : KeepsForm s (s.checkTiles cl) := by
  refine keepsForm_foldl fun s core => keepsForm_foldl fun s slot => ?_
  split
  · exact .rfl
  next th found =>
    generalize th.run = state
    generalize th.pend = pend
    cases state with
    | run =>
      cases pend with
      | nil => exact .rfl
      | cons p l =>
        obtain ⟨_, op, phase, _⟩ := p
        cases op with
        | mwait mask =>
          cases phase with
          | waiting => exact .ite .rfl keepsForm_finish
          | _ => exact .rfl
        | _ => exact .rfl
    | detached n mask =>
      match n with
      | 7 => exact .ite .rfl keepsForm_setThread
      | 0 | 1 | 2 | 3 | 4 | 5 | 6 | _ + 8 => exact .rfl
    | _ => exact .rfl
theorem keepsForm_modMat {s : State} {cl : Nat} {f : MatUnit → MatUnit} : KeepsForm s (s.modMat cl f) := id
theorem keepsForm_modTile {s : State} {cl : Nat} {t : Tile} {f : TileState → TileState} : KeepsForm s (s.modTile cl t f) := id
theorem keepsForm_acceptMat {s : State} {id : Nat} {c : MatCmd} : KeepsOut s (s.acceptMat id c) := by
  grind [State.acceptMat, keepsForm_accepted, keepsForm_bounced, keepsForm_modMat, keepsForm_modTile, keepsForm_take,
    keepsForm_translateEngine]
theorem keepsForm_execMatrixCommandAccept {id : Nat} {s : State} : KeepsOut s (execMatrixCommandAccept id s) := by
  grind [execMatrixCommandAccept, keepsForm_acceptMat]
theorem keepsForm_execMsendArrival {id : Nat} {s : State} : KeepsOut s (execMsendArrival id s) := by
  unfold execMsendArrival
  intro t next
  grind [keepsForm_acceptMat]
theorem keepsForm_endMat {s : State} {cl : Nat} {r : MatRun} {tags : List Nat} : KeepsForm s (s.endMat cl r tags) := by
  grind [State.endMat, keepsForm_checkTiles, keepsForm_launchFlags, keepsForm_modMat, keepsForm_modTile, keepsForm_setTags]
theorem keepsForm_refuseMat {s : State} {cl : Nat} {r : MatRun} : KeepsForm s (s.refuseMat cl r) := by
  unfold State.refuseMat
  grind [keepsForm_endMat, keepsForm_modTile, keepsForm_sendAsync]
theorem keepsForm_setMatRun {s : State} {cl : Nat} {r : MatRun} : KeepsForm s (s.setMatRun cl r) := id
theorem keepsForm_residueFail {s : State} {cl : Nat} {r : MatRun} {active : List Nat} {row col : Nat} :
    KeepsForm s (s.residueFail cl r active row col) := by
  unfold State.residueFail
  grind [keepsForm_endMat, keepsForm_flare, keepsForm_modMat, keepsForm_modTile]
theorem keepsForm_mmaBlock {s : State} {cl : Nat} {r : MatRun} {f : Pairing} : KeepsForm s (s.mmaBlock cl r f) := by
  grind [State.mmaBlock, keepsForm_logEntry, keepsForm_modTile, keepsForm_residueFail, keepsForm_setMatRun]
theorem keepsForm_abortMat {s : State} {cl : Nat} {why : Option HeldFault} : KeepsForm s (s.abortMat cl why) := by
  grind [State.abortMat, keepsForm_endMat, keepsForm_sendAsync]
theorem keepsForm_mstStep {s : State} {cl : Nat} {r : MatRun} {f : Target} : KeepsForm s (s.mstStep cl r f) := by
  unfold State.mstStep
  grind [keepsForm_abortMat, keepsForm_holdFault, keepsForm_sendEngine, keepsForm_setMatRun, keepsForm_translateEngine]
theorem keepsForm_tileEffect {s : State} {cl : Nat} {r : MatRun} : KeepsForm s (s.tileEffect cl r) := id
theorem keepsForm_consume {s : State} {cl : Nat} {r : MatRun} : KeepsForm s (s.consume cl r).1 := by
  unfold State.consume
  grind [keepsForm_bump, keepsForm_wordError, keepsForm_foldl]
/- The unfolded definition is put in place as a function, and a variable stands for each test that would be costly to compute:
the kernel then compares the two sides as they are written. -/
theorem keepsForm_execMatrixCommandStart {cl : Nat} {s : State} : KeepsOut s (execMatrixCommandStart cl s) := by
  obtain ⟨mmaOk, mmas⟩ : ∃ f, f = State.mmaOk := ⟨_, rfl⟩
  obtain ⟨mstOk, msts⟩ : ∃ f, f = State.mstOk := ⟨_, rfl⟩
  obtain ⟨cluster, clusters⟩ : ∃ f, f = State.cluster := ⟨_, rfl⟩
  have unfolded : @execMatrixCommandStart = @execMatrixCommandStart := rfl
  conv_rhs at unfolded => delta execMatrixCommandStart
  rw [unfolded, ← mmas, ← msts, ← clusters]
  dsimp only
  split
  · exact .fault
  · generalize (cluster s cl).mat.run = run
    generalize (cluster s cl).mat.queue = queue
    cases run with
    | none =>
      cases queue with
      | nil => exact .refused
      | cons c q =>
        dsimp only
        split
        · split
          · exact .next (.trans keepsForm_modMat (.ite .rfl keepsForm_refuseMat))
          · exact .next (.trans keepsForm_modMat keepsForm_refuseMat)
        · split
          · exact .next (.trans keepsForm_modMat (.ite .rfl keepsForm_refuseMat))
          · exact .next (.trans keepsForm_modMat keepsForm_refuseMat)
        · exact .next keepsForm_modMat
    | some r =>
      dsimp only
      split
      · exact .refused
      · split
        · split
          · split
            · exact .next keepsForm_mmaBlock
            · exact .refused
          · exact .next keepsForm_refuseMat
        · split
          · exact .next keepsForm_mstStep
          · exact .next keepsForm_refuseMat
        · exact .next (.trans keepsForm_consume (.trans keepsForm_tileEffect keepsForm_setMatRun))
        · exact .next (.trans keepsForm_tileEffect keepsForm_setMatRun)
theorem keepsForm_execOperandsConsumed {cl : Nat} {s : State} : KeepsOut s (execOperandsConsumed cl s) := by
  unfold execOperandsConsumed
  intro t next
  grind [keepsForm_consume, keepsForm_setMatRun, keepsForm_setTags, keepsForm_foldl]
theorem keepsForm_execMatrixCommandComplete {cl : Nat} {s : State} : KeepsOut s (execMatrixCommandComplete cl s) := by
  grind [execMatrixCommandComplete, keepsForm_endMat]
theorem keepsForm_resumeMat {s : State} {cl : Nat} {abort : Bool} : KeepsForm s (s.resumeMat cl abort) := by
  grind [State.resumeMat, keepsForm_abortMat, keepsForm_setMatRun]
theorem keepsForm_execSegfmtWrite {id : Nat} {s : State} : KeepsOut s (execSegfmtWrite id s) := by
  grind [execSegfmtWrite, keepsForm_modCluster, keepsForm_refuse, keepsForm_refuseAt, keepsForm_take]
theorem keepsForm_execSegfmtTakesEffect {c n : Nat} {s : State} : KeepsOut s (execSegfmtTakesEffect c n s) := by
  grind [execSegfmtTakesEffect, keepsForm_answer, keepsForm_modCluster]

/-! ### launches -/

theorem keepsForm_modQueue {s : State} {cls : Nat} {f : List LaunchRec → List LaunchRec} : KeepsForm s (s.modQueue cls f) := id
theorem keepsForm_enqueue {s : State} {r : LaunchRec} : KeepsForm s (s.enqueue r) := id
theorem keepsForm_modBind {s : State} {b : Nat} {f : Bind → Bind} : KeepsForm s (s.modBind b f) := id
theorem keepsForm_execLaunchRecordArrival {id : Nat} {s : State} : KeepsOut s (execLaunchRecordArrival id s) := by
  grind [execLaunchRecordArrival, keepsForm_accepted, keepsForm_bounced, keepsForm_enqueue, keepsForm_take]
theorem keepsForm_freeEntry {s : State} {lid : Option Nat} : KeepsForm s (s.freeEntry lid) := by
  unfold State.freeEntry
  grind
theorem keepsForm_cwordFault {s : State} {c : Cword} {cause : Nat} : KeepsForm s (s.cwordFault c cause) := by
  grind [State.cwordFault, keepsForm_sendAsync, keepsForm_sendRecord]
theorem keepsForm_fillCwords {s : State} {n : Nat} : KeepsForm s (s.fillCwords n) := by
  induction n generalizing s with
  | zero => exact .rfl
  | succ n ih =>
    unfold State.fillCwords
    grind [keepsForm_freeEntry, keepsForm_translateEngine, keepsForm_cwordFault, keepsForm_park, keepsForm_storeNow]
theorem keepsForm_addCword {s : State} {c : Cword} : KeepsForm s (s.addCword c) := by
  grind [State.addCword, keepsForm_fillCwords, keepsForm_freeEntry]
theorem keepsForm_cwordAnswer {s : State} {r : Reply} : KeepsForm s (s.cwordAnswer r) := by
  grind [State.cwordAnswer, keepsForm_cwordFault, keepsForm_fillCwords, keepsForm_freeEntry]
theorem keepsForm_loadSlots {s : State} {lid : Nat} {l : Launch} {cl rank : Nat} : KeepsForm s (s.loadSlots lid l cl rank) := by
  unfold State.loadSlots
  grind [keepsForm_allocate, keepsForm_modLaunch, keepsForm_foldl]
theorem keepsForm_resetCluster {s : State} {cl : Nat} {stamp : BitVec 12} : KeepsForm s (s.resetCluster cl stamp) := by
  unfold State.resetCluster
  grind [keepsForm_modCluster, keepsForm_modCore, keepsForm_foldl]
theorem keepsForm_prepare {s : State} {lid cl rank : Nat} : KeepsForm s (s.prepare lid cl rank) := by
  grind [State.prepare, keepsForm_loadSlots, keepsForm_resetCluster]
theorem keepsForm_execLaunchPlacement {s : State} : KeepsOut s (execLaunchPlacement s) := by
  unfold execLaunchPlacement
  intro t next
  grind [keepsForm_modBind, keepsForm_modCluster, keepsForm_modQueue, keepsForm_prepare, keepsForm_foldl]
theorem keepsForm_broadcast {s : State} {lid : Nat} {l : Launch} {cl rank done n : Nat} :
    KeepsForm s (s.broadcast lid l cl rank done n) := by
  induction n generalizing s done with
  | zero => exact keepsForm_loadSlots
  | succ n ih =>
    unfold State.broadcast
    grind [keepsForm_modLaunch, keepsForm_holdFault, keepsForm_translateEngine, keepsForm_engineSees, keepsForm_readNow,
      keepsForm_foldl, keepsForm_copyStore]
theorem keepsForm_execShapeBroadcastComplete {cl : Nat} {s : State} : KeepsOut s (execShapeBroadcastComplete cl s) := by
  grind [execShapeBroadcastComplete, keepsForm_broadcast, keepsForm_resetCluster]
theorem keepsForm_endLaunch {s : State} {lid : Nat} {l : Launch} : KeepsForm s (s.endLaunch lid l) := by
  unfold State.endLaunch
  grind [keepsForm_addCword, keepsForm_modBind, keepsForm_modCluster, keepsForm_modCore, keepsForm_foldl]
theorem keepsForm_execLaunchEnd {lid : Nat} {s : State} : KeepsOut s (execLaunchEnd lid s) := by
  unfold execLaunchEnd
  intro t next
  grind [keepsForm_endLaunch]
theorem keepsForm_dropRecord {s : State} {r : LaunchRec} : KeepsForm s (s.dropRecord r) := by
  grind [State.dropRecord, keepsForm_addCword, keepsForm_modBind, keepsForm_sendRecord]
theorem keepsForm_removeUnmeetable {s : State} : KeepsForm s (s.removeUnmeetable) := by
  unfold State.removeUnmeetable
  grind [keepsForm_dropRecord, keepsForm_foldl]
theorem keepsForm_startCarried {s : State} {slot : Nat} {c : Carried} : KeepsForm s (s.startCarried slot c) := id
theorem keepsForm_writeCarry {s : State} {c : Carried} : KeepsForm s (s.writeCarry c) := by
  unfold State.writeCarry
  grind [keepsForm_copyStore, keepsForm_foldl]
theorem keepsForm_trapMig {s : State} {n : TName} {t : Trap} : KeepsForm s (s.trapMig n t) := by
  grind [State.trapMig, keepsForm_sendTrap, keepsForm_setThread]
theorem keepsForm_reportCarried {s : State} {sender seq : Nat} {c : Carried} {cause : Nat} :
    KeepsForm s (s.reportCarried sender seq c cause) := by
  grind [State.reportCarried, keepsForm_dropSpawn, keepsForm_sendAsync]
theorem keepsForm_dropForeign {s : State} {sender seq : Nat} {c : Carried} : KeepsForm s (s.dropForeign sender seq c) := by
  grind [State.dropForeign, keepsForm_dropSpawn, keepsForm_reportCarried, keepsForm_trapMig]
theorem keepsForm_execSpawnMessageArrival {id : Nat} {s : State} : KeepsOut s (execSpawnMessageArrival id s) := by
  grind [execSpawnMessageArrival, keepsForm_dropForeign, keepsForm_dropSpawn, keepsForm_finish, keepsForm_modCore,
    keepsForm_modNamed, keepsForm_reportCarried, keepsForm_startCarried, keepsForm_take, keepsForm_writeCarry]
theorem keepsForm_execSlotFreeNotice {id : Nat} {s : State} : KeepsOut s (execSlotFreeNotice id s) := by
  grind [execSlotFreeNotice, keepsForm_modCore, keepsForm_sendSpawn, keepsForm_setCore, keepsForm_slotFreed, keepsForm_take]
theorem keepsForm_execSpawnResendTick {s : State} : KeepsOut s (execSpawnResendTick s) := by
  unfold execSpawnResendTick
  intro t next
  grind [keepsForm_modCore, keepsForm_sendSpawn, keepsForm_foldl]
theorem keepsForm_execLoadLevelling {s : State} : KeepsOut s (execLoadLevelling s) := by
  unfold execLoadLevelling
  intro t next
  grind [keepsForm_modCore, keepsForm_servePops, keepsForm_foldl]
theorem keepsForm_execNredPacketArrival {id : Nat} {s : State} : KeepsOut s (execNredPacketArrival id s) := by
  grind [execNredPacketArrival, keepsForm_deliverFull, keepsForm_modCore, keepsForm_take]

/-! ### contexts -/

theorem keepsForm_dropAllWaiters {s : State} {p : Waiter → Bool} : KeepsForm s (s.dropAllWaiters p) := by
  unfold State.dropAllWaiters
  grind [keepsForm_dropWaiters, keepsForm_foldl]
theorem keepsForm_sendKick {s : State} {n : TName} {p : Pending} : KeepsForm s (s.sendKick n p) := by
  grind [State.sendKick, keepsForm_send]
theorem keepsForm_killThread {s : State} {core slot : Nat} : KeepsForm s (s.killThread core slot) := by
  have kicked (t : State) (n : TName) (p : Option Pending) : KeepsForm t ((p.map (t.sendKick n)).getD t) := by
    cases p with
    | none => exact .rfl
    | some p => exact keepsForm_sendKick
  unfold State.killThread
  grind [keepsForm_markFault, keepsForm_dropAllWaiters, keepsForm_modLaunch, keepsForm_modCore, keepsForm_endThread,
    keepsForm_deliverFull]
theorem keepsForm_abortLaunch {s : State} {w : Word} {c : Nat} : KeepsForm s (s.abortLaunch w c) := by
  unfold State.abortLaunch
  grind [keepsForm_abortCopy, keepsForm_abortMat, keepsForm_checkTiles, keepsForm_modCopy, keepsForm_modMat, keepsForm_modTile,
    keepsForm_foldl]
theorem keepsForm_killLaunch {s : State} {lid : Nat} : KeepsForm s (s.killLaunch lid) := by
  unfold State.killLaunch
  grind [keepsForm_abortLaunch, keepsForm_killThread, keepsForm_modLaunch, keepsForm_foldl]
theorem keepsForm_ctxAddress {s : State} {n : TName} {k : Kind} {va : Word} : KeepsForm s (s.ctxAddress n k va).2 := by
  grind [State.ctxAddress, keepsForm_translateEngine]
theorem keepsForm_storeCtx {s : State} {n : TName} {launch area : Word} {w : Nat → Word} {k : Nat} :
    KeepsForm s (s.storeCtx n launch area w k).2 := by
  induction k generalizing s with
  | zero => exact .rfl
  | succ k ih =>
    unfold State.storeCtx
    grind [keepsForm_ctxAddress, keepsForm_peerSays, keepsForm_engineTouches, keepsForm_storeNow]
theorem keepsForm_loadCtx {s : State} {n : TName} {area : Word} {k : Nat} : KeepsForm s (s.loadCtx n area k).2 := by
  induction k generalizing s with
  | zero => exact .rfl
  | succ k ih =>
    rw [State.loadCtx]
    split
    next asked => exact .snd keepsForm_ctxAddress asked
    next asked =>
      refine .trans (.snd keepsForm_ctxAddress asked) ?_
      split
      next read => exact .trans keepsForm_engineSees (.snd keepsForm_readNow read)
      next read => exact .trans keepsForm_engineSees (.snd keepsForm_readNow read)
      next read =>
        refine .trans keepsForm_engineSees (.trans (.snd keepsForm_readNow read) ?_)
        split
        next rest => exact .snd ih rest
        next => exact ih
theorem keepsForm_unpark {s : State} {n : TName} : KeepsForm s (s.unpark n) := by grind [State.unpark, keepsForm_dropAllWaiters]
theorem keepsForm_holdSlot {s : State} {core slot : Nat} {th : Thread} : KeepsForm s (s.holdSlot core slot th) := by
  grind [State.holdSlot, keepsForm_modCore, keepsForm_setThread]
theorem keepsForm_saveContext {s : State} {sender : TName} {area : Word} {core slot : Nat} {th : Thread} {preempt : Bool} :
    KeepsForm s (s.saveContext sender area core slot th preempt).2 := by
  grind [State.saveContext, keepsForm_holdSlot, keepsForm_modThread, keepsForm_storeCtx, keepsForm_unpark]
theorem keepsForm_translateWalked {s : State} {core slot : Nat} {space : Word} {sup : Bool} {k : Kind} {va : Word} :
    KeepsForm s (s.translateWalked core slot space sup k va).2 := by
  grind [State.translateWalked, keepsForm_fillTlbs, keepsForm_touchWalk]
theorem keepsForm_addressAgain {s : State} {core slot : Nat} {th : Thread} {f : Form} {va : Word} :
    KeepsForm s (s.addressAgain core slot th f va).2 := by
  grind [State.addressAgain, keepsForm_translateWalked]
theorem keepsForm_restore {s : State} {core slot : Nat} {old : Thread} {w : List (Word × Bool)} :
    KeepsForm s (s.restore core slot old w) := by
  grind [State.restore, keepsForm_addressAgain, keepsForm_deliverFull, keepsForm_modCore, keepsForm_modThread,
    keepsForm_setThread, keepsForm_trapPending]

/-! ### fences -/

theorem keepsForm_serveMailbox {s : State} {core : Nat} {l : List Nat} : KeepsForm s (s.serveMailbox core l) := by
  induction l generalizing s with
  | nil => exact .rfl
  | cons slot l ih =>
    unfold State.serveMailbox
    grind [keepsForm_modCore, keepsForm_finish]
theorem keepsForm_execMailboxRecordArrival {id : Nat} {s : State} : KeepsOut s (execMailboxRecordArrival id s) := by
  grind [execMailboxRecordArrival, keepsForm_modCore, keepsForm_serveMailbox, keepsForm_take]
theorem keepsForm_fmbxWord {s : State} {r : FmbxRec} {k : Kind} {va : Word} : KeepsForm s (s.fmbxWord r k va).2 := by
  grind [State.fmbxWord, keepsForm_translateEngine]
theorem keepsForm_fmbxLoad {s : State} {r : FmbxRec} {va : Word} : KeepsForm s (s.fmbxLoad r va).2 := by
  grind [State.fmbxLoad, keepsForm_fmbxWord, keepsForm_readNow]
theorem keepsForm_unitStore {s : State} {sup : Bool} {f : Form} {va : Word} {pa : Nat} {v : Word} :
    KeepsForm s (s.unitStore sup f va pa v) := by
  grind [State.unitStore, keepsForm_storeNow]
theorem keepsForm_fmbxStores {s : State} {r : FmbxRec} {l : List (Form × Word × Word)} : KeepsForm s (s.fmbxStores r l).2 := by
  induction l generalizing s with
  | nil => exact .rfl
  | cons x l ih =>
    unfold State.fmbxStores
    grind [keepsForm_fmbxWord, keepsForm_unitStore]
theorem keepsForm_execFmbxRecordOffer {s : State} : KeepsOut s (execFmbxRecordOffer s) := by
  unfold execFmbxRecordOffer
  split
  · exact .refused
  next rest queued =>
    have dequeued : KeepsForm s { s with fmbxQueue := rest } := id
    dsimp only
    split
    next loaded => exact .next (dequeued.trans (.trans (.snd keepsForm_fmbxLoad loaded) keepsForm_sendRecord))
    next => exact .next .rfl
    next loaded =>
      have upTo := dequeued.trans (.snd keepsForm_fmbxLoad loaded)
      split
      next again => exact .next (upTo.trans (.trans (.snd keepsForm_fmbxLoad again) keepsForm_sendRecord))
      next => exact .next .rfl
      next again =>
        have upTo := upTo.trans (.snd keepsForm_fmbxLoad again)
        split
        · exact .next (upTo.trans keepsForm_sendRecord)
        · split
          next asked => exact .next (upTo.trans (.trans (.snd keepsForm_fmbxWord asked) keepsForm_sendRecord))
          next asked =>
            have upTo {w : Nat} {who : Word} :=
              upTo.trans (.trans (.snd keepsForm_fmbxWord asked) (keepsForm_wordError (w := w) (who := who)))
            split
            · exact .next (upTo.trans keepsForm_sendRecord)
            · split
              · split
                next last => exact .next (upTo.trans (.trans (.snd keepsForm_fmbxLoad last) keepsForm_sendRecord))
                next => exact .next .rfl
                next last =>
                  have upTo := upTo.trans (.snd keepsForm_fmbxLoad last)
                  split
                  next stored => exact .next (upTo.trans (.snd keepsForm_fmbxStores stored))
                  next stored => exact .next (upTo.trans (.trans (.snd keepsForm_fmbxStores stored) keepsForm_sendRecord))
              · split
                next stored => exact .next (upTo.trans (.snd keepsForm_fmbxStores stored))
                next stored => exact .next (upTo.trans (.trans (.snd keepsForm_fmbxStores stored) keepsForm_sendRecord))
theorem keepsForm_cut {r : Snuff} {f : Flight} {g : State → State} (h : r.cut f = some g) {s : State} : KeepsForm s (g s) := by
  unfold Snuff.cut at h
  grind [keepsForm_refuseAt, keepsForm_bounced, keepsForm_send, keepsForm_modCore, keepsForm_slotFreed]
theorem keepsForm_cutFlights {s : State} {r : Snuff} {l : List Flight} : KeepsForm s (s.cutFlights r l) := by
  induction l generalizing s with
  | nil => exact .rfl
  | cons f l ih =>
    unfold State.cutFlights
    split
    next g h => exact .trans keepsForm_take ((keepsForm_cut h).trans ih)
    next => exact ih
theorem keepsForm_dropHolds {s : State} {r : Snuff} : KeepsForm s (s.dropHolds r) := by
  unfold State.dropHolds
  grind [keepsForm_afterHold, keepsForm_setMeta, keepsForm_foldl]
theorem keepsForm_releaseWaiters {s : State} {r : Snuff} : KeepsForm s (s.releaseWaiters r) := by
  unfold State.releaseWaiters
  grind [keepsForm_dropWaiters, keepsForm_refuseAt, keepsForm_foldl]
theorem keepsForm_endWait {s : State} {n : TName} : KeepsForm s (s.endWait n) := by
  grind [State.endWait, keepsForm_modCore, keepsForm_trapPending]
theorem keepsForm_endEpisodes {s : State} {r : Snuff} : KeepsForm s (s.endEpisodes r) := by
  unfold State.endEpisodes
  grind [keepsForm_endWait, keepsForm_modLaunch, keepsForm_foldl]
theorem keepsForm_withdrawLaunch {s : State} {region : Nat} {r : Snuff} {lid : Nat} :
    KeepsForm s (s.withdrawLaunch region r lid) := by
  grind [State.withdrawLaunch, keepsForm_markFault, keepsForm_modBind, keepsForm_modLaunch, keepsForm_sendAsync]
theorem keepsForm_discardSpawns {s : State} {core : Nat} : KeepsForm s (s.discardSpawns core) := by
  unfold State.discardSpawns
  grind [keepsForm_sendAsync, keepsForm_foldl]
theorem keepsForm_dropSpawnsTo {s : State} {r : Snuff} : KeepsForm s (s.dropSpawnsTo r) := by
  unfold State.dropSpawnsTo
  grind [keepsForm_reportCarried, keepsForm_foldl]
theorem keepsForm_resetCore {s : State} {core : Nat} : KeepsForm s (s.resetCore core) := id
theorem keepsForm_resetFenced {s : State} {cl : Nat} : KeepsForm s (s.resetFenced cl) := by
  unfold State.resetFenced
  grind [keepsForm_resetCore, keepsForm_setCluster, keepsForm_foldl]
theorem keepsForm_stopPorts {s : State} {r : Snuff} : KeepsForm s (s.stopPorts r) := id
theorem keepsForm_fence {s : State} {n : Nat} : KeepsForm s (s.fence n) := by
  have cleared (t : State) (p : Host.Cell → Bool) (m : List (Nat × Meta)) :
      KeepsForm t { t with mem := t.mem.filter p, marks := m } := Memory.wf_filter _ _
  have slots (t : State) (l : List (Nat × Thread)) : KeepsForm t { t with threads := l } := .rfl
  unfold State.fence
  grind [keepsForm_foldl, keepsForm_cutFlights, keepsForm_endEpisodes, keepsForm_discardSpawns, keepsForm_dropSpawnsTo,
    keepsForm_dropAllWaiters, keepsForm_stopPorts, keepsForm_dropHolds, keepsForm_releaseWaiters, keepsForm_withdrawLaunch,
    keepsForm_resetFenced, keepsForm_settleBars, keepsForm_settlePops, keepsForm_removeUnmeetable]

/-! ### system requests -/

theorem keepsForm_resendRelaxed {s : State} {core slot : Nat} : KeepsForm s (s.resendRelaxed core slot) := by
  grind [State.resendRelaxed, keepsForm_addressAgain, keepsForm_modThread, keepsForm_send, keepsForm_sendAccess,
    keepsForm_setThread]
theorem keepsForm_doTset {s : State} {core slot : Nat} {th : Thread} {op : Nat} {pc : Word} :
    KeepsForm s (s.doTset core slot th op pc).2 := by
  unfold State.doTset
  grind [keepsForm_resendRelaxed, keepsForm_setThread]
theorem keepsForm_doTresume {s : State} {core slot : Nat} {th : Thread} {action : Nat} {pc : Word} :
    KeepsForm s (s.doTresume core slot th action pc).2 := by
  grind [State.doTresume, keepsForm_resendRelaxed, keepsForm_setThread]
theorem keepsForm_doResumeEngine {s : State} {n action : Nat} : KeepsForm s (s.doResumeEngine n action).2 := by
  unfold State.doResumeEngine
  grind [keepsForm_killLaunch, keepsForm_modLaunch, keepsForm_resumeCopy, keepsForm_resumeMat, keepsForm_sendAsync,
    keepsForm_foldl]
theorem keepsForm_doTkill {s : State} {core slot : Nat} {th : Thread} {whole : Bool} :
    KeepsForm s (s.doTkill core slot th whole) := by
  grind [State.doTkill, keepsForm_killLaunch, keepsForm_killThread]
theorem keepsForm_doSnuff {s : State} {n op : Nat} {b : Word} : KeepsForm s (s.doSnuff n op b).2 := by
  unfold State.doSnuff
  grind [keepsForm_fence]
theorem keepsForm_doTlbinv {s : State} {issuer kind reach : Nat} {a : Word} : KeepsForm s (s.doTlbinv issuer kind reach a) := id
theorem keepsForm_answerSys {s : State} {n : TName} {r : Reply} : KeepsForm s (s.answerSys n r) := id
theorem keepsForm_toThread {u s : State} {sender n : TName} {stale : Word} {note : Bool} {f : Thread → Word × State}
    (start : KeepsForm u s) (h : ∀ th, KeepsForm u (f th).2) : KeepsForm u (s.toThread sender n stale note f) := by
  grind [State.toThread, keepsForm_answerSys, keepsForm_notice]
theorem keepsForm_beginSys {s : State} {id : Nat} : KeepsForm s (s.beginSys id) := fun h => h
theorem keepsForm_doSave {s : State} {id : Nat} {sender n : TName} {area : Word} {preempt : Bool} :
    KeepsForm s (s.doSave id sender n area preempt) := by
  grind [State.doSave, keepsForm_answerSys, keepsForm_notice, keepsForm_saveContext, keepsForm_setThread, keepsForm_take]
theorem keepsForm_doRestctx {s : State} {id : Nat} {sender : TName} {area : Word} : KeepsForm s (s.doRestctx id sender area) := by
  grind [State.doRestctx, keepsForm_answerSys, keepsForm_loadCtx, keepsForm_notice, keepsForm_restore, keepsForm_take]
theorem keepsForm_finishReleases {s : State} {n : Nat} : KeepsForm s (s.finishReleases n) := by
  unfold State.finishReleases
  grind [keepsForm_answerSys, keepsForm_doSnuff, keepsForm_take, keepsForm_foldl]
theorem keepsForm_execAutoFence {n : Nat} {s : State} : KeepsOut s (execAutoFence n s) := by
  grind [execAutoFence, keepsForm_fence, keepsForm_finishReleases]

/-! ### the pump -/

theorem keepsForm_setPhase {s : State} {t : Nat} {ph : Phase} : KeepsForm s (s.setPhase t ph) := by
  grind [State.setPhase, keepsForm_modThread]
theorem keepsForm_setOp {s : State} {t : Nat} {op : Op} {ph : Phase} : KeepsForm s (s.setOp t op ph) := by
  grind [State.setOp, keepsForm_modThread]
theorem keepsForm_sendElem {s : State} {t : Nat} {n : TName} {th : Thread} {store : Bool} {v : VReg} {ty : Ty}
    {todo done : List Elem} : KeepsForm s (s.sendElem t n th store v ty todo done) := by
  unfold State.sendElem
  grind [keepsForm_bump, keepsForm_sendAccess, keepsForm_setOp]
theorem keepsForm_readRecord {s : State} {core slot : Nat} {th : Thread} {p : Pending} {addr : Word} {words : List Word} :
    KeepsForm s (s.readRecord core slot th p addr words) := by
  grind [State.readRecord, keepsForm_addressAgain, keepsForm_send, keepsForm_sendAccess, keepsForm_setPhase,
    keepsForm_trapPending]
theorem keepsForm_recordWord {s : State} {core slot : Nat} {p : Pending} {addr : Word} {words : List Word} {v : Word} {x : Bool} :
    KeepsForm s (s.recordWord core slot p addr words v x) := by
  unfold State.recordWord
  grind [keepsForm_setOp, keepsForm_trapPending]
theorem keepsForm_bufferSpawn {s : State} {core : Nat} {c : Carried} : KeepsForm s (s.bufferSpawn core c) := id
theorem keepsForm_laneRule {s : State} {core slot : Nat} : KeepsForm s (s.laneRule core slot) := by
  unfold State.laneRule
  grind [keepsForm_modThread]
theorem keepsForm_lateStep {s : State} {core slot : Nat} {th : Thread} {major : Nat} {p : Pending} :
    KeepsForm s (s.lateStep core slot th major p) := by
  grind [State.lateStep, keepsForm_trapPending]
theorem keepsForm_act {s : State} {core slot : Nat} {th : Thread} {p : Pending} : KeepsForm s (s.act core slot th p) := by
  grind [State.act, keepsForm_barArrive, keepsForm_bufferSpawn, keepsForm_finish, keepsForm_laneRule, keepsForm_lateStep,
    keepsForm_modCore, keepsForm_pushEntry, keepsForm_readRecord, keepsForm_send, keepsForm_sendAccess, keepsForm_sendElem,
    keepsForm_serveMailbox, keepsForm_servePops, keepsForm_setOp, keepsForm_setPhase, keepsForm_settlePops]
theorem keepsForm_pump {s : State} {core slot : Nat} : KeepsForm s (s.pump core slot) := by grind [State.pump, keepsForm_act]

/-! ### events -/

theorem keepsForm_execEnergyRefill {core : Nat} {s : State} : KeepsOut s (execEnergyRefill core s) := by
  unfold execEnergyRefill
  intro t next
  grind [keepsForm_modThread, keepsForm_setCore, keepsForm_foldl]
theorem keepsForm_execBankAccessArrival {id : Nat} {s : State} : KeepsOut s (execBankAccessArrival id s) := by
  unfold execBankAccessArrival
  intro t next
  grind [keepsForm_perform, keepsForm_refuseAt, keepsForm_take, keepsForm_wordError]
theorem keepsForm_execWaitBudgetExhausted {id : Nat} {s : State} : KeepsOut s (execWaitBudgetExhausted id s) := by
  unfold execWaitBudgetExhausted
  intro t next
  grind [keepsForm_execBankAccessArrival]
theorem keepsForm_execPageWalkComplete {core id : Nat} {s : State} : KeepsOut s (execPageWalkComplete core id s) := by
  grind [execPageWalkComplete, keepsForm_fillTlbs, keepsForm_modCore, keepsForm_sendTrap, keepsForm_setThread,
    keepsForm_touchWalk]
theorem keepsForm_unitRefused {s : State} {a : Access} {cause reason : Nat} : KeepsForm s (s.unitRefused a cause reason) := by
  grind [State.unitRefused, keepsForm_abortCopy, keepsForm_abortMat, keepsForm_logEntry, keepsForm_sendAsync]
theorem keepsForm_execPostedStoreRefused {id : Nat} {s : State} : KeepsOut s (execPostedStoreRefused id s) := by
  grind [execPostedStoreRefused, keepsForm_sendAsync, keepsForm_take, keepsForm_unitRefused]
theorem keepsForm_execPutArrival {id : Nat} {s : State} : KeepsOut s (execPutArrival id s) := by
  grind [execPutArrival, keepsForm_bounced, keepsForm_modCore, keepsForm_notice, keepsForm_send, keepsForm_setThread,
    keepsForm_take]
theorem keepsForm_execVigctlWrite {id : Nat} {s : State} : KeepsOut s (execVigctlWrite id s) := by
  grind [execVigctlWrite, keepsForm_answer, keepsForm_modDistrict, keepsForm_refuse, keepsForm_refuseAt, keepsForm_take]
theorem keepsForm_execVigstatPeakWrite {id : Nat} {s : State} : KeepsOut s (execVigstatPeakWrite id s) := by
  grind [execVigstatPeakWrite, keepsForm_answer, keepsForm_modDistrict, keepsForm_refuseAt, keepsForm_take]
theorem keepsForm_execHostStoreCompletion {id : Nat} {s : State} : KeepsOut s (execHostStoreCompletion id s) := by
  grind [execHostStoreCompletion, keepsForm_answer, keepsForm_busWrite, keepsForm_take]
theorem keepsForm_markLoc {s : State} {l : Nat} : KeepsForm s (s.markLoc l) := by
  grind [State.markLoc, keepsForm_modCopy, keepsForm_modDistrict, keepsForm_modMat]
theorem keepsForm_poisonWords {s : State} {pa n : Nat} : KeepsForm s (s.poisonWords pa n) := by
  unfold State.poisonWords
  grind [keepsForm_setMeta, keepsForm_foldl]
theorem keepsForm_deliverBad {s : State} {t : Transfer} : KeepsForm s (s.deliverBad t) := by
  grind [State.deliverBad, keepsForm_poisonWords]
theorem keepsForm_execChunkHopCheck {hop : Nat} {locn : BitVec 32} {chunk : Nat} {result : CheckResult} {s : State} :
    KeepsOut s (execChunkHopCheck hop locn chunk result s) := by
  grind [execChunkHopCheck, keepsForm_bump, keepsForm_deliverBad, keepsForm_flare, keepsForm_logEntry, keepsForm_markLoc,
    keepsForm_residueFail]

/-! ### handler records -/

theorem keepsForm_modCh {f : Chandler → Chandler} {s : State} : KeepsForm s (modCh f s) := id
theorem keepsForm_touchWords {s : State} {pa n : Nat} {who : Word} : KeepsForm s (s.touchWords pa n who) := by
  unfold State.touchWords
  grind [keepsForm_wordError, keepsForm_foldl]
theorem keepsForm_rwrite {s : State} {r i : Nat} {v : Word} : KeepsForm s (s.rwrite r i v) := by
  grind [State.rwrite, keepsForm_storeWord]
theorem keepsForm_rset {s : State} {r : Nat} {f : RField} {v : Nat} : KeepsForm s (s.rset r f v) := by
  grind [State.rset, keepsForm_rwrite]
theorem keepsForm_rsets {s : State} {r : Nat} {l : List (RField × Nat)} : KeepsForm s (s.rsets r l) := by
  induction l generalizing s with
  | nil => exact .rfl
  | cons x l ih => exact .trans keepsForm_rset ih
theorem keepsForm_agLoad {s : State} {va : Word} {n : Nat} : KeepsForm s (s.agLoad va n).2 := by
  grind [State.agLoad, keepsForm_readNow, keepsForm_touchWalk]
theorem keepsForm_agLoads {s : State} {va : Word} {step n : Nat} : KeepsForm s (s.agLoads va step n).2 := by
  induction n generalizing s va with
  | zero => exact .rfl
  | succ n ih =>
    unfold State.agLoads
    grind [keepsForm_agLoad]
theorem keepsForm_agAccess {s : State} {who : Nat} {f : Form} {va : Word} {n v : Nat} {repark asked : Bool} :
    KeepsForm s (s.agAccess who f va n v repark asked).2 := by
  grind [State.agAccess, keepsForm_perform, keepsForm_send, keepsForm_touchWalk, keepsForm_wordError]
theorem keepsForm_agStore {s : State} {who : Nat} {va : Word} {n v : Nat} : KeepsForm s (s.agStore who va n v).2 := by
  grind [State.agStore, keepsForm_agAccess]
theorem keepsForm_agStores {s : State} {who : Nat} {va : Word} {l : List Word} : KeepsForm s (s.agStores who va l).2 := by
  induction l generalizing s va with
  | nil => exact .rfl
  | cons v l ih =>
    unfold State.agStores
    grind [keepsForm_agStore, keepsForm_agAccess]
theorem keepsForm_takeHeap {s : State} {n : Nat} {p : Nat × State} (h : s.takeHeap n = some p) : KeepsForm s p.2 := by
  obtain ⟨o, -, rfl⟩ := Option.map_eq_some_iff.mp h
  exact keepsForm_modCh
theorem keepsForm_freeHeap {s : State} {off : Nat} : KeepsForm s (s.freeHeap off) := id
theorem keepsForm_putTokens {s : State} {r pos : Nat} {l : List Nat} : KeepsForm s (s.putTokens r pos l) := by
  induction l generalizing s pos with
  | nil => exact .rfl
  | cons t l ih => exact .trans keepsForm_busWrite ih

/-! ### key-value commands -/

theorem keepsForm_setEntry {s : State} {root l b : Nat} {e : Word} : KeepsForm s (s.setEntry root l b e) :=
  (atBank_setEntry ..).wf
theorem keepsForm_overPlaces {s : State} {f : State → Nat × Nat → State} {l : List (Nat × Nat)} (h : ∀ s q, KeepsForm s (f s q)) :
    KeepsForm s (s.overPlaces f l) := keepsForm_foldl h
theorem keepsForm_setCount {s : State} {i n : Nat} : KeepsForm s (s.setCount i n) := (atBank_setCount ..).wf
theorem keepsForm_leaveCounts {s : State} {who : Who} {keep : Nat → Bool} : KeepsForm s (s.leaveCounts who keep) := by
  unfold State.leaveCounts
  grind [keepsForm_dropAllWaiters, keepsForm_perform, keepsForm_foldl]
theorem keepsForm_askCounts {s : State} {who : Who} {l : List Nat} : KeepsForm s (s.askCounts who l).2 := by
  grind [State.askCounts, keepsForm_leaveCounts, keepsForm_perform]
theorem keepsForm_releaseCounts {s : State} {who : Who} : KeepsForm s (s.releaseCounts who) := by
  unfold State.releaseCounts
  grind [keepsForm_leaveCounts, keepsForm_modCh]
theorem keepsForm_withCounts {action : Nat} {l : List Nat} {act wait : State → State} {s : State} (h : ∀ t, KeepsForm t (act t))
    (k : ∀ t, KeepsForm t (wait t)) : KeepsForm s (withCounts action l act wait s) := by
  grind [withCounts, keepsForm_askCounts, keepsForm_releaseCounts]
theorem keepsForm_pagerAnswer {s : State} {n : Nat} {x : Reply} : KeepsForm s (s.pagerAnswer n x) := by
  unfold State.pagerAnswer
  grind [keepsForm_logEntry, keepsForm_releaseCounts, keepsForm_modCh]
theorem keepsForm_chandlerAnswer {s : State} {x : Reply} : KeepsForm s (s.chandlerAnswer x) := by
  unfold State.chandlerAnswer
  grind [keepsForm_logEntry]
theorem keepsForm_setRaw {s : State} {loc : Nat} {v : List Byte × List Nat} : KeepsForm s (s.setRaw loc v) := id
theorem keepsForm_dropRaw {s : State} {loc : Nat} : KeepsForm s (s.dropRaw loc) := id
theorem keepsForm_raiseEntry {s : State} {e : Word} : KeepsForm s (s.raiseEntry e) := (atBank_raiseEntry ..).wf
theorem keepsForm_lowerEntry {s : State} {e : Word} : KeepsForm s (s.lowerEntry e) := by
  unfold State.lowerEntry
  grind [keepsForm_dropRaw, keepsForm_setCount]
theorem keepsForm_clearEntry {s : State} {root : Nat} {p : Nat × Nat} : KeepsForm s (s.clearEntry root p) := by
  grind [State.clearEntry, keepsForm_lowerEntry, keepsForm_setEntry]
theorem keepsForm_newDir {s : State} {w : Word} {p : Nat × State} (h : s.newDir w = some p) : KeepsForm s p.2 := by
  obtain ⟨q, taken, rfl⟩ := Option.map_eq_some_iff.mp h
  exact (keepsForm_takeHeap taken).trans ((keepsForm_foldl (fun _ _ => keepsForm_storeWord)).trans
    (.trans keepsForm_storeWord (keepsForm_foldl (fun _ _ => keepsForm_storeWord))))
theorem keepsForm_forkDir {s : State} {src : Nat} {p : Nat × State} (h : s.forkDir src = some p) : KeepsForm s p.2 := by
  obtain ⟨q, made, rfl⟩ := Option.map_eq_some_iff.mp h
  exact (keepsForm_newDir made).trans (keepsForm_overPlaces fun _ _ => .trans keepsForm_raiseEntry keepsForm_setEntry)
theorem keepsForm_freeDir {s : State} {root : Nat} : KeepsForm s (s.freeDir root) := by
  grind [State.freeDir, keepsForm_clearEntry, keepsForm_freeHeap, keepsForm_overPlaces]
theorem keepsForm_freeRecordOf {s : State} {r : Nat} : KeepsForm s (s.freeRecordOf r) := by
  grind [State.freeRecordOf, keepsForm_freeDir, keepsForm_freeHeap, keepsForm_rset, keepsForm_modCh]
theorem keepsForm_buildRecord {s t : State} {r prog creg bind image pclass eclass dirOff : Nat}
    (h : s.buildRecord r prog creg bind image pclass eclass dirOff = some t) : KeepsForm s t := by
  obtain ⟨p, taken, rfl⟩ := Option.map_eq_some_iff.mp h
  exact (keepsForm_takeHeap taken).trans (keepsForm_modCh.trans
    ((keepsForm_foldl (fun _ _ => keepsForm_rwrite)).trans keepsForm_rsets))
theorem keepsForm_setUncounted {s : State} {r : Nat} {l : List Nat} : KeepsForm s (s.setUncounted r l) := id
theorem keepsForm_setIdent {s : State} {r n : Nat} : KeepsForm s (s.setIdent r n) := id
theorem keepsForm_forkRecord {s : State} {src prog creg pclass eclass : Nat} {p : Nat × State}
    (h : s.forkRecord src prog creg pclass eclass = some p) : KeepsForm s p.2 := by
  unfold State.forkRecord at h
  split at h
  next made =>
    obtain ⟨t, built, rfl⟩ := Option.map_eq_some_iff.mp h
    exact (keepsForm_forkDir made).trans ((keepsForm_buildRecord built).trans
      (.trans (keepsForm_foldl fun _ _ => keepsForm_rwrite) (.trans keepsForm_rset (.trans keepsForm_setUncounted
        (.trans keepsForm_setIdent keepsForm_putTokens)))))
  next => cases h
theorem keepsForm_setPhaseOf {s : State} {r : Nat} : KeepsForm s (s.setPhaseOf r) := by grind [State.setPhaseOf, keepsForm_rset]
theorem keepsForm_evict {s : State} {r : Nat} : KeepsForm s (s.evict r) := by
  grind [State.evict, keepsForm_clearEntry, keepsForm_overPlaces, keepsForm_rset, keepsForm_rsets, keepsForm_setPhaseOf]
theorem keepsForm_moveBlock {s : State} {old new n : Nat} : KeepsForm s (s.moveBlock old new n) := by
  unfold State.moveBlock
  grind [keepsForm_dropRaw, keepsForm_setMeta, keepsForm_setRaw, keepsForm_modCh, keepsForm_foldl]
theorem keepsForm_takeKick {s : State} {d : Nat} {w : List Word} : KeepsForm s (s.takeKick d w) := by
  grind [State.takeKick, keepsForm_modDistrict, keepsForm_perform, keepsForm_touchWords]
theorem keepsForm_modKv {s : State} {d : Nat} {f : KvRun → KvRun} : KeepsForm s (s.modKv d f) := id
theorem keepsForm_kvEnd {s : State} {d status moved : Nat} : KeepsForm s (s.kvEnd d status moved) := by
  grind [State.kvEnd, keepsForm_modKv, keepsForm_releaseCounts]
theorem keepsForm_kvUnder {s : State} {d : Nat} {e : Word} {act : State → State} (h : ∀ t, KeepsForm t (act t)) :
    KeepsForm s (s.kvUnder d e act) := by
  grind [State.kvUnder, keepsForm_askCounts, keepsForm_modKv]
theorem keepsForm_kvTouch {s : State} {d : Nat} {w : List Word} : KeepsForm s (s.kvTouch d w) := by
  grind [State.kvTouch, keepsForm_touchWords]
theorem keepsForm_decodeChecks {s : State} {d : Nat} {w : List Word} : KeepsForm s (s.decodeChecks d w).2 := by
  unfold State.decodeChecks
  refine keepsForm_foldl_snd (p := (false, s)) fun p i => ?_
  grind [keepsForm_bump, keepsForm_logEntry, keepsForm_markLoc, keepsForm_flare]
theorem keepsForm_kvDecode {s : State} {d : Nat} {w : List Word} {e : Word} : KeepsForm s (s.kvDecode d w e) :=
  .trans keepsForm_decodeChecks (.trans (keepsForm_foldl fun _ _ => keepsForm_copyStore) keepsForm_kvEnd)
theorem keepsForm_execKvFetch {d : Nat} {s : State} : KeepsOut s (execKvFetch d s) := by
  unfold execKvFetch
  intro t next
  grind [keepsForm_kvDecode, keepsForm_kvEnd, keepsForm_kvTouch, keepsForm_kvUnder, keepsForm_takeKick]
theorem keepsForm_kvNoRoom {s : State} {root : Nat} : KeepsForm s (s.kvNoRoom root) := id
theorem keepsForm_kvEncode {s : State} {d : Nat} {w : List Word} {e : Word} : KeepsForm s (s.kvEncode d w e) := by
  rw [State.kvEncode]
  dsimp only
  split
  · split
    · exact .trans keepsForm_setRaw (.trans keepsForm_setCount (.trans (.ite keepsForm_setCount .rfl)
        (.trans keepsForm_setEntry keepsForm_kvEnd)))
    · exact .ite (.trans keepsForm_kvNoRoom keepsForm_kvEnd) .rfl
  · exact .trans keepsForm_setRaw (.trans keepsForm_setCount (.trans keepsForm_setEntry keepsForm_kvEnd))
theorem keepsForm_execKvStore {d : Nat} {s : State} : KeepsOut s (execKvStore d s) := by
  unfold execKvStore
  intro t next
  grind [keepsForm_kvEncode, keepsForm_kvEnd, keepsForm_kvTouch, keepsForm_kvUnder, keepsForm_takeKick, keepsForm_touchWords]
theorem keepsForm_execEviction {s : State} : KeepsOut s (execEviction s) := by
  unfold execEviction
  intro t next
  grind [keepsForm_askCounts, keepsForm_evict, keepsForm_releaseCounts, keepsForm_foldl]
theorem keepsForm_freePort {s : State} {d : Nat} : KeepsForm s (s.freePort d) := by
  grind [State.freePort, keepsForm_modDistrict, keepsForm_releaseCounts]
theorem keepsForm_kvReport {s : State} {d : Nat} {r : KvRun} {cause : Nat} : KeepsForm s (s.kvReport d r cause) := by
  unfold State.kvReport
  grind [keepsForm_logEntry, keepsForm_sendAsync]
theorem keepsForm_execKvCommandComplete {d : Nat} {s : State} : KeepsOut s (execKvCommandComplete d s) := by
  grind [execKvCommandComplete, keepsForm_freePort, keepsForm_kvReport, keepsForm_modKv, keepsForm_perform, keepsForm_wordError]
theorem keepsForm_portAnswer {s : State} {d : Nat} {x : Reply} : KeepsForm s (s.portAnswer d x) := by
  unfold State.portAnswer
  grind [keepsForm_freePort, keepsForm_kvReport, keepsForm_modKv]
theorem keepsForm_execPageMove {r blk : Nat} {lpddr : Bool} {s : State} : KeepsOut s (execPageMove r blk lpddr s) := by
  grind [execPageMove, keepsForm_askCounts, keepsForm_moveBlock, keepsForm_releaseCounts, keepsForm_setEntry, keepsForm_modCh]
theorem keepsForm_execPromotionComplete {r : Nat} {s : State} : KeepsOut s (execPromotionComplete r s) := by
  unfold execPromotionComplete
  intro t next
  grind [keepsForm_rset, keepsForm_modCh]
theorem keepsForm_execResidencyHoldExpiry {b : Nat} {s : State} : KeepsOut s (execResidencyHoldExpiry b s) := by
  grind [execResidencyHoldExpiry, keepsForm_modCh]

/-! ### agents and programs -/

theorem keepsForm_modProg {s : State} {p : Nat} {f : Program → Program} : KeepsForm s (s.modProg p f) := by
  grind [State.modProg, keepsForm_modCh]
theorem keepsForm_fillResult {s : State} {n : Nat} {va v : Word} {repark : Bool} : KeepsForm s (s.fillResult n va v repark) := by
  grind [State.fillResult, keepsForm_agAccess, keepsForm_logEntry, keepsForm_modCh]
theorem keepsForm_writeResult {s : State} {va v : Word} : KeepsForm s (s.writeResult va v) := by
  grind [State.writeResult, keepsForm_fillResult, keepsForm_modCh]
theorem keepsForm_dropGroup {s : State} {r : Nat} : KeepsForm s (s.dropGroup r) := by
  unfold State.dropGroup
  grind [keepsForm_freeRecordOf, keepsForm_modCh, keepsForm_foldl]
theorem keepsForm_abandonNow {s : State} {r : Nat} : KeepsForm s (s.abandonNow r) := by
  grind [State.abandonNow, keepsForm_dropGroup, keepsForm_rsets, keepsForm_modCh]
theorem keepsForm_abandonAt {s : State} {r : Nat} : KeepsForm s (s.abandonAt r) := by
  unfold State.abandonAt
  exact .ite keepsForm_modCh (keepsForm_withCounts (fun _ => keepsForm_abandonNow) fun _ => keepsForm_modCh)
theorem keepsForm_dropPromotions {s : State} : KeepsForm s (s.dropPromotions) := by
  unfold State.dropPromotions
  grind [keepsForm_releaseCounts, keepsForm_foldl]
theorem keepsForm_stopProgram {s : State} {p status : Nat} {addr : Word} : KeepsForm s (s.stopProgram p status addr) := by
  unfold State.stopProgram
  grind [keepsForm_abandonAt, keepsForm_dropAllWaiters, keepsForm_dropPromotions, keepsForm_releaseCounts, keepsForm_writeResult,
    keepsForm_modCh, keepsForm_foldl]
theorem keepsForm_programFault {s : State} {p : Nat} {addr : Word} {cause mem : Nat} :
    KeepsForm s (s.programFault p addr cause mem) := by
  grind [State.programFault, keepsForm_logEntry, keepsForm_stopProgram]
theorem keepsForm_execTkillOfTheProgram {p : Nat} {s : State} : KeepsOut s (execTkillOfTheProgram p s) := by
  grind [execTkillOfTheProgram, keepsForm_stopProgram]
theorem keepsForm_completeAt {s : State} {p : Nat} {addr : Word} {w : Option (HReg × Word)} :
    KeepsForm s (s.completeAt p addr w) := by
  grind [State.completeAt, keepsForm_modProg]
theorem keepsForm_wordDone {s : State} {w : Option (HReg × Word)} : KeepsForm s (s.wordDone w) := by
  grind [State.wordDone, keepsForm_completeAt]
theorem keepsForm_wordFault {s : State} {cause mem : Nat} : KeepsForm s (s.wordFault cause mem) := by
  grind [State.wordFault, keepsForm_programFault]
theorem keepsForm_withCtx {g : Program} {c : CReg} {body : Nat → State → State} {s : State} (h : ∀ r t, KeepsForm t (body r t)) :
    KeepsForm s (withCtx g c body s) := by
  grind [withCtx, keepsForm_touchWords, keepsForm_wordFault]
theorem keepsForm_wordIssued {s : State} {arg : Word} : KeepsForm s (s.wordIssued arg) := by
  grind [State.wordIssued, keepsForm_modProg]
theorem keepsForm_wordRead {s : State} {toks : List (List Nat)} : KeepsForm s (s.wordRead toks) := by
  grind [State.wordRead, keepsForm_modProg, keepsForm_wordIssued]
theorem keepsForm_inProgram {body : Program → State → State} {s : State} (h : ∀ g t, KeepsForm t (body g t)) :
    KeepsOut s (inProgram body s) := by
  grind [inProgram]
theorem keepsForm_fillAhead {s : State} {p n : Nat} : KeepsForm s (s.fillAhead p n) := by
  induction n generalizing s with
  | zero => exact .rfl
  | succ n ih =>
    unfold State.fillAhead
    grind [keepsForm_modProg, keepsForm_agLoad]
theorem keepsForm_programTurn {s : State} {p : Nat} : KeepsForm s (s.programTurn p).2 := by
  grind [State.programTurn, keepsForm_fillAhead, keepsForm_modProg, keepsForm_modCh]
theorem keepsForm_execIllegalWordTurn {s : State} : KeepsOut s (execIllegalWordTurn s) := by
  grind [execIllegalWordTurn, keepsForm_programFault]
theorem keepsForm_execAgentAdmission {s : State} : KeepsOut s (execAgentAdmission s) := by
  unfold execAgentAdmission
  split
  · exact .refused
  · split
    · exact .refused
    next i found =>
      have asked {va : Word} {k : Chandler → Chandler} :
          KeepsForm s (modCh k (s.agAccess chandlerWho .ldc va 8 0 false false).2) :=
        .trans keepsForm_agAccess keepsForm_modCh
      dsimp only
      split
      · exact .next (asked.trans keepsForm_logEntry)
      · split
        · exact .next (asked.trans keepsForm_logEntry)
        · split
          next read =>
            split
            · exact .refused
            · exact .next (asked.trans (.trans (.snd keepsForm_agLoads read) keepsForm_logEntry))
          next read =>
            split
            · exact .next (asked.trans (.trans (.snd keepsForm_agLoads read) (.trans keepsForm_logEntry keepsForm_writeResult)))
            · split
              · exact .next (asked.trans (.trans (.snd keepsForm_agLoads read) keepsForm_modCh))
              · exact .next (asked.trans (.snd keepsForm_agLoads read))

/-! ### growing pages -/

theorem keepsForm_growPage {s : State} {die : Nat} {p : Nat × State} (h : s.growPage die = some p) : KeepsForm s p.2 := by
  obtain ⟨a, -, rfl⟩ := Option.map_eq_some_iff.mp h
  exact keepsForm_bump
theorem keepsForm_mapPage {s t : State} {die va : Nat} {l : List (Nat × Nat)} {table : Nat}
    (h : s.mapPage die va l table = some t) :
    KeepsForm s t := by
  induction l generalizing s table with
  | nil => cases h
  | cons p l ih =>
    unfold State.mapPage at h
    dsimp only at h
    split at h
    · split at h
      · cases h
      · obtain ⟨q, grown, rfl⟩ := Option.map_eq_some_iff.mp h
        exact (keepsForm_growPage grown).trans keepsForm_storeWord
    · split at h
      · exact ih h
      · split at h
        · obtain ⟨q, grown, rest⟩ := Option.bind_eq_some_iff.mp h
          exact (keepsForm_growPage grown).trans (.trans keepsForm_storeWord (ih rest))
        · cases h
theorem keepsForm_growRetry {s : State} {r : Record} : KeepsForm s (s.growRetry r) := by
  grind [State.growRetry, keepsForm_doResumeEngine, keepsForm_doTresume]
theorem keepsForm_stackOverflow {s : State} {r : Record} : KeepsForm s (s.stackOverflow r) := by
  grind [State.stackOverflow, keepsForm_sendAsync]
theorem keepsForm_execStackGrowth {s : State} : KeepsOut s (execStackGrowth s) := by
  unfold execStackGrowth
  intro t next
  grind [keepsForm_growRetry, keepsForm_mapPage, keepsForm_modCore, keepsForm_stackOverflow, keepsForm_touchWalk]

/-! ### the host port -/

theorem keepsForm_modHost {f : HostPort → HostPort} {s : State} : KeepsForm s (modHost f s) := id
theorem keepsForm_hostRefuse {s : State} {off reason : Nat} : KeepsForm s (s.hostRefuse off reason) := id
theorem keepsForm_hostAnswer {v : Word} {x : Bool} {s : State} : KeepsForm s (hostAnswer v x s) := id
theorem keepsForm_hostReadDone {s : State} : KeepsForm s (hostReadDone s) := id
theorem keepsForm_hostRequest {row : Nat} {read whole state : Bool} {bad : Word → Bool}
    {body : Nat → Nat → Word → State → Option State} {s : State}
    (h : ∀ off n v t u, body off n v t = some u → KeepsForm t u) : KeepsOut s (hostRequest row read whole state bad body s) := by
  unfold hostRequest
  intro t next
  grind [keepsForm_modHost, keepsForm_hostReadDone, keepsForm_hostAnswer, keepsForm_hostRefuse]
theorem keepsForm_performNow {s : State} {a : Access} : KeepsForm s (s.performNow a) := by
  grind [State.performNow, keepsForm_refuseAt, keepsForm_storeNow]
theorem keepsForm_hostLoad {s : State} {off n : Nat} {t : State} (h : s.hostLoad off n = some t) : KeepsForm s t := by
  obtain ⟨blocked, blocks⟩ : ∃ blocked, blocked = State.wayBlocked := ⟨_, rfl⟩
  obtain ⟨read, reads⟩ : ∃ read, read = State.readNow := ⟨_, rfl⟩
  have kept {s : State} {a : Access} : KeepsForm s (read s a).2 := reads ▸ keepsForm_readNow
  have unfolded : @State.hostLoad = @State.hostLoad := rfl
  conv_rhs at unfolded => delta State.hostLoad
  rw [unfolded, ← blocks, ← reads] at h
  dsimp only at h
  split at h
  · obtain rfl := Option.some.inj h
    exact keepsForm_hostAnswer
  · split at h
    next got =>
      obtain rfl := Option.some.inj h
      exact .trans (.snd kept got) keepsForm_hostAnswer
    next => cases h
    next got =>
      obtain rfl := Option.some.inj h
      exact .trans (.snd kept got) keepsForm_hostAnswer
theorem keepsForm_execHostPlainRead {s : State} : KeepsOut s (execHostPlainRead s) := by
  grind [execHostPlainRead, keepsForm_hostLoad, keepsForm_hostRequest]
theorem keepsForm_execHostPlainWrite {s : State} : KeepsOut s (execHostPlainWrite s) :=
  keepsForm_hostRequest fun off n v t u h => by
    obtain rfl := Option.some.inj h
    exact .ite keepsForm_busWrite keepsForm_performNow
theorem keepsForm_execHostFillRead {s : State} : KeepsOut s (execHostFillRead s) := by
  grind [execHostFillRead, keepsForm_hostLoad, keepsForm_hostRequest]
theorem keepsForm_hostFill {s : State} {off : Nat} {value : Word} : KeepsForm s (s.hostFill off value) := by
  obtain ⟨blocked, blocks⟩ : ∃ blocked, blocked = State.wayBlocked := ⟨_, rfl⟩
  obtain ⟨place, places⟩ : ∃ place, place = State.fillPlace := ⟨_, rfl⟩
  obtain ⟨metas, reads⟩ : ∃ metas, metas = State.wordMeta := ⟨_, rfl⟩
  have unfolded : @State.hostFill = @State.hostFill := rfl
  conv_rhs at unfolded => delta State.hostFill
  rw [unfolded, ← blocks, ← places, ← reads]
  dsimp only
  split
  · exact .rfl
  · refine .trans keepsForm_wordError (.ite keepsForm_perform ?_)
    split
    · exact keepsForm_hostRefuse
    · exact .trans keepsForm_modHost keepsForm_park
theorem keepsForm_execHostFillWrite {s : State} : KeepsOut s (execHostFillWrite s) := by
  grind [execHostFillWrite, keepsForm_hostFill, keepsForm_hostRequest]
theorem keepsForm_fillAnswer {s : State} {i : Nat} {r : Reply} : KeepsForm s (s.fillAnswer i r) := by
  unfold State.fillAnswer
  grind [keepsForm_logEntry, keepsForm_perform, keepsForm_modHost]
theorem keepsForm_execHostStateRead {s : State} : KeepsOut s (execHostStateRead s) := by
  grind [execHostStateRead, keepsForm_hostAnswer, keepsForm_hostRequest]
theorem keepsForm_hostFest {full : Bool} {off : Nat} {s : State} : KeepsForm s (hostFest full off s) := by
  grind [hostFest, keepsForm_performNow]
theorem keepsForm_execHostStateWriteEmpty {s : State} : KeepsOut s (execHostStateWriteEmpty s) := by
  unfold execHostStateWriteEmpty
  intro t next
  grind [keepsForm_hostFest, keepsForm_hostRequest]
theorem keepsForm_execHostStateWriteFull {s : State} : KeepsOut s (execHostStateWriteFull s) :=
  keepsForm_hostRequest fun _ _ _ _ _ h => by grind [keepsForm_hostFest, keepsForm_hostRequest]
theorem keepsForm_execHostStateWriteNone {s : State} : KeepsOut s (execHostStateWriteNone s) := by
  grind [execHostStateWriteNone, keepsForm_hostRequest]
theorem keepsForm_execHostSnoop {s : State} : KeepsOut s (execHostSnoop s) := by grind [execHostSnoop]
theorem keepsForm_execHostLinkTrained {s : State} : KeepsOut s (execHostLinkTrained s) := by
  grind [execHostLinkTrained, keepsForm_modHost]
theorem keepsForm_execHostPortLinkDown {s : State} : KeepsOut s (execHostPortLinkDown s) := by
  grind [execHostPortLinkDown, keepsForm_modHost]
theorem keepsForm_execBeaconLinkTrained {p : Fin 8} {s : State} : KeepsOut s (execBeaconLinkTrained p s) := by
  grind [execBeaconLinkTrained, keepsForm_modPort]
theorem keepsForm_linkFault {s : State} {a : Access} : KeepsForm s (s.linkFault a) := by
  grind [State.linkFault, keepsForm_refuseAt]
theorem keepsForm_execLinkDown {p : Fin 8} {s : State} : KeepsOut s (execLinkDown p s) := by
  unfold execLinkDown
  intro t next
  grind [keepsForm_dropWaiters, keepsForm_linkFault, keepsForm_modPort, keepsForm_take, keepsForm_foldl]
theorem keepsForm_peerAnswer {s : State} {p sender : Nat} {posted : Bool} {l : List Reply} :
    KeepsForm s (s.peerAnswer p sender posted l) := by
  grind [State.peerAnswer, keepsForm_modPort]
theorem keepsForm_peerTest {s : State} {q : Port} {view size : Nat} {store : Bool} {va : Word} :
    KeepsForm s (s.peerTest q view size store va).2 := by
  unfold State.peerTest
  dsimp only
  grind (splits := 20) [keepsForm_touchWalk]
theorem keepsForm_remoteGo {s : State} {p sender : Nat} {posted : Bool} {n : Nat} {form : Form} {va : Word} {pa size : Nat}
    {v : Word} : KeepsForm s (s.remoteGo p sender posted n form va pa size v) := by
  grind [State.remoteGo, keepsForm_modPort, keepsForm_performNow]
theorem keepsForm_remoteFlit {s : State} {p sender : Nat} {posted store : Bool} {va : Word} {pa : Nat} {lo hi : Word} :
    KeepsForm s (s.remoteFlit p sender posted store va pa lo hi) := by
  grind [State.remoteFlit, keepsForm_peerAnswer, keepsForm_readNow, keepsForm_remoteGo, keepsForm_storeNow]
theorem keepsForm_execPeerAccessArrival {p : Fin 8} {req : PeerReq} {s : State} : KeepsOut s (execPeerAccessArrival p req s) := by
  grind [execPeerAccessArrival, keepsForm_peerAnswer, keepsForm_peerTest, keepsForm_remoteFlit, keepsForm_remoteGo]
theorem keepsForm_remoteAnswer {s : State} {p n : Nat} {r : Reply} : KeepsForm s (s.remoteAnswer p n r) := by
  unfold State.remoteAnswer
  grind [keepsForm_modPort, keepsForm_peerAnswer, keepsForm_perform]
theorem keepsForm_outgoing {s : State} {id : Nat} : KeepsForm s (s.outgoing id).2 := by
  unfold State.outgoing
  grind [keepsForm_dropWaiters, keepsForm_take, keepsForm_foldl]
theorem keepsForm_execPeerAccessRefused {id : Nat} {reason : Fin 8} {cause : BitVec 8} {s : State} :
    KeepsOut s (execPeerAccessRefused id reason cause s) := by
  unfold execPeerAccessRefused
  intro t next
  grind [keepsForm_outgoing, keepsForm_refuse, keepsForm_foldl]

/-! ### Beacon ports -/

theorem keepsForm_execHalt {s : State} : KeepsOut s (execHalt s) :=
  keepsForm_inProgram fun _ _ => by grind [keepsForm_stopProgram]
theorem keepsForm_execYield {s : State} : KeepsOut s (execYield s) := keepsForm_inProgram fun _ _ => by grind [keepsForm_wordDone]
theorem keepsForm_execCwait {c : CReg} {s : State} : KeepsOut s (execCwait c s) :=
  keepsForm_inProgram fun _ _ => by grind [keepsForm_wordDone, keepsForm_withCtx]
theorem keepsForm_execHmov {d : HReg} {x : HSrc} {s : State} : KeepsOut s (execHmov d x s) :=
  keepsForm_inProgram fun _ _ => by grind [keepsForm_wordDone]
theorem keepsForm_execHadd {d a : HReg} {x : HSrc} {s : State} : KeepsOut s (execHadd d a x s) := by
  unfold execHadd
  intro t next
  grind [keepsForm_wordDone, keepsForm_inProgram]
theorem keepsForm_execHsub {d a : HReg} {x : HSrc} {s : State} : KeepsOut s (execHsub d a x s) :=
  keepsForm_inProgram fun _ _ => by grind [keepsForm_wordDone]
theorem keepsForm_execHcmp {c : Cond} {d a : HReg} {x : HSrc} {s : State} : KeepsOut s (execHcmp c d a x s) :=
  keepsForm_inProgram fun _ _ => by grind [keepsForm_wordDone]
theorem keepsForm_execHbr {a : HReg} {off : BitVec 32} {s : State} : KeepsOut s (execHbr a off s) :=
  keepsForm_inProgram fun _ _ => by grind [keepsForm_modProg, keepsForm_wordDone]
theorem keepsForm_execHjmp {_off : BitVec 32} {s : State} : KeepsOut s (execHjmp _off s) :=
  keepsForm_inProgram fun _ _ => by grind [keepsForm_wordDone]
theorem keepsForm_exchange {s : State} {f : Form} {va : Word} {v : Nat} : KeepsForm s (s.exchange f va v) := by
  grind [State.exchange, keepsForm_agAccess, keepsForm_wordFault, keepsForm_wordIssued]
theorem keepsForm_execHld {d a : HReg} {off : BitVec 32} {s : State} : KeepsOut s (execHld d a off s) :=
  keepsForm_inProgram fun _ _ => by grind [keepsForm_agLoad, keepsForm_exchange, keepsForm_wordDone, keepsForm_wordFault]
theorem keepsForm_execHst {v a : HReg} {off : BitVec 32} {s : State} : KeepsOut s (execHst v a off s) :=
  keepsForm_inProgram fun _ _ => by grind [keepsForm_exchange]
theorem keepsForm_execRecv {_d a : HReg} {s : State} : KeepsOut s (execRecv _d a s) :=
  keepsForm_inProgram fun _ _ => by grind [keepsForm_exchange]
theorem keepsForm_execPost {a : HReg} {c : CReg} {s : State} : KeepsOut s (execPost a c s) := by
  unfold execPost
  intro t next
  grind [keepsForm_exchange, keepsForm_inProgram, keepsForm_withCtx]
theorem keepsForm_agentAnswer {s : State} {p : Nat} {x : Reply} : KeepsForm s (s.agentAnswer p x) := by
  rw [State.agentAnswer]
  split
  · exact .rfl
  · split
    · exact .rfl
    · split
      · exact .ite keepsForm_programFault keepsForm_completeAt
      · exact .ite keepsForm_programFault keepsForm_completeAt
      · exact keepsForm_programFault
      · dsimp only
        split
        next asked => exact .trans (.snd keepsForm_agAccess asked) keepsForm_programFault
        next asked => exact .snd keepsForm_agAccess asked
      · exact keepsForm_completeAt
theorem keepsForm_resultAnswer {s : State} {n : Nat} {x : Reply} : KeepsForm s (s.resultAnswer n x) := by
  unfold State.resultAnswer
  grind [keepsForm_fillResult, keepsForm_logEntry, keepsForm_modCh]
theorem keepsForm_setCtx {s : State} {c : CReg} {b : Option CBind} : KeepsForm s (s.setCtx c b) := by
  grind [State.setCtx, keepsForm_modProg]
theorem keepsForm_bindCtx {s : State} {c : CReg} {r : Nat} : KeepsForm s (s.bindCtx c r) := by
  grind [State.bindCtx, keepsForm_setCtx]
theorem keepsForm_freshRecord {s : State} {g : Program} {creg : Nat} {p : Nat × State} (h : s.freshRecord g creg = some p) :
    KeepsForm s p.2 := by
  unfold State.freshRecord at h
  split at h
  next =>
    obtain ⟨q, made, rest⟩ := Option.bind_eq_some_iff.mp h
    obtain ⟨t, built, rfl⟩ := Option.map_eq_some_iff.mp rest
    exact (keepsForm_newDir made).trans (keepsForm_buildRecord built)
  next => cases h
theorem keepsForm_execCnew {c : CReg} {s : State} : KeepsOut s (execCnew c s) :=
  keepsForm_inProgram fun g t => by
    split
    · exact keepsForm_wordFault
    · split
      next made => exact (keepsForm_freshRecord made).trans (.trans keepsForm_bindCtx keepsForm_wordDone)
      next => exact keepsForm_wordIssued
theorem keepsForm_execCbind {c : CReg} {h : HReg} {s : State} : KeepsOut s (execCbind c h s) :=
  keepsForm_inProgram fun _ _ => by grind [keepsForm_bindCtx, keepsForm_rsets, keepsForm_wordDone, keepsForm_wordFault]
theorem keepsForm_execCfork {cd cs : CReg} {s : State} : KeepsOut s (execCfork cd cs s) :=
  keepsForm_inProgram fun g t => keepsForm_withCtx fun r t => by
    refine .ite keepsForm_wordFault (.ite keepsForm_wordIssued (keepsForm_withCounts (fun t => ?_) fun _ => keepsForm_wordIssued))
    split
    next forked => exact (keepsForm_forkRecord forked).trans (.trans keepsForm_bindCtx keepsForm_wordDone)
    next => exact keepsForm_wordIssued
theorem keepsForm_execCfree {c : CReg} {s : State} : KeepsOut s (execCfree c s) :=
  keepsForm_inProgram fun _ _ => by
    grind [keepsForm_freeRecordOf, keepsForm_setCtx, keepsForm_wordDone, keepsForm_wordFault, keepsForm_wordIssued,
      keepsForm_withCounts, keepsForm_withCtx]
theorem keepsForm_execCset {c : CReg} {h : HReg} {f : BitVec 8} {s : State} : KeepsOut s (execCset c h f s) :=
  keepsForm_inProgram fun _ _ => by grind [keepsForm_rset, keepsForm_wordDone, keepsForm_wordFault, keepsForm_withCtx]
theorem keepsForm_execCget {h : HReg} {c : CReg} {f : BitVec 8} {s : State} : KeepsOut s (execCget h c f s) :=
  keepsForm_inProgram fun _ _ => by grind [keepsForm_wordDone, keepsForm_wordFault, keepsForm_withCtx]
theorem keepsForm_execTrunc {c : CReg} {h : HReg} {s : State} : KeepsOut s (execTrunc c h s) :=
  keepsForm_inProgram fun _ _ => by
    grind [keepsForm_bump, keepsForm_clearEntry, keepsForm_overPlaces, keepsForm_rsets, keepsForm_setIdent,
      keepsForm_setUncounted, keepsForm_wordDone, keepsForm_wordFault, keepsForm_wordIssued, keepsForm_withCounts,
      keepsForm_withCtx]
theorem keepsForm_issueStep {s : State} {r op : Nat} {addr : Word} {proga progn : Nat} :
    KeepsForm s (s.issueStep r op addr proga progn) := by
  grind [State.issueStep, keepsForm_rsets]
theorem keepsForm_finishStep {s : State} {r : Nat} : KeepsForm s (s.finishStep r) := by grind [State.finishStep, keepsForm_rsets]
theorem keepsForm_stepWord {c : CReg} {body : Program → Nat → State → State} {s : State} (h : ∀ g r t, KeepsForm t (body g r t)) :
    KeepsOut s (stepWord c body s) :=
  keepsForm_inProgram fun g _ => keepsForm_withCtx fun r t => .ite (h g r t) keepsForm_wordFault
theorem keepsForm_backUp {s : State} {r : Nat} : KeepsForm s (s.backUp r) := by grind [State.backUp, keepsForm_rset]
theorem keepsForm_readTokens {s : State} {r : Nat} {a : Word} {n : Nat} : KeepsForm s (s.readTokens r a n).2 := by
  grind [State.readTokens, keepsForm_agLoads]
theorem keepsForm_extend {s : State} {r : Nat} {l : List Nat} : KeepsForm s (s.extend r l) := by
  grind [State.extend, keepsForm_putTokens, keepsForm_rsets]
theorem keepsForm_bring {s : State} {r : Nat} {l : List Nat} : KeepsForm s (s.bring r l) := by
  grind [State.bring, keepsForm_extend, keepsForm_setUncounted]
theorem keepsForm_execAppend {c : CReg} {ha hn : HReg} {s : State} : KeepsOut s (execAppend c ha hn s) :=
  keepsForm_stepWord fun _ _ _ => by
    grind [keepsForm_bring, keepsForm_finishStep, keepsForm_issueStep, keepsForm_readTokens, keepsForm_wordDone,
      keepsForm_wordFault, keepsForm_wordIssued]
theorem keepsForm_execGen {c : CReg} {hn : HReg} {s : State} : KeepsOut s (execGen c hn s) :=
  keepsForm_stepWord fun _ _ _ => by
    grind [keepsForm_backUp, keepsForm_finishStep, keepsForm_issueStep, keepsForm_setPhaseOf, keepsForm_wordDone,
      keepsForm_wordFault, keepsForm_wordIssued]
theorem keepsForm_execScore {c : CReg} {ha hn hd : HReg} {s : State} : KeepsOut s (execScore c ha hn hd s) :=
  keepsForm_stepWord fun _ _ _ => by
    grind [keepsForm_backUp, keepsForm_bring, keepsForm_finishStep, keepsForm_issueStep, keepsForm_readTokens,
      keepsForm_setPhaseOf, keepsForm_wordDone, keepsForm_wordFault, keepsForm_wordIssued]
theorem keepsForm_chooseTokens {s : State} {r : Nat} {a : Word} {n : Nat} : KeepsForm s (s.chooseTokens r a n).2 := by
  induction n generalizing s a with
  | zero => exact .rfl
  | succ n ih =>
    unfold State.chooseTokens
    grind [keepsForm_agLoad, keepsForm_readTokens]
theorem keepsForm_forks {s : State} {g : Program} {r creg n : Nat} {p : List Nat × State} (h : s.forks g r creg n = some p) :
    KeepsForm s p.2 := by
  induction n generalizing s p with
  | zero =>
    obtain rfl := Option.some.inj h
    exact .rfl
  | succ n ih =>
    obtain ⟨q, forked, rest⟩ := Option.bind_eq_some_iff.mp h
    obtain ⟨x, more, rfl⟩ := Option.map_eq_some_iff.mp rest
    exact (keepsForm_forkRecord forked).trans (ih (p := x) more)
theorem keepsForm_execChoose {c : CReg} {ha hn hd : HReg} {s : State} : KeepsOut s (execChoose c ha hn hd s) :=
  keepsForm_stepWord fun g r t => by
    refine .ite keepsForm_wordFault (.ite keepsForm_wordFault (.ite keepsForm_wordFault ?_))
    dsimp only
    have read : KeepsForm t (match g.tokensRead with
        | some l => (Except.ok l, t)
        | none => t.chooseTokens r (g.hreg ha) (g.hreg hn).toNat).2 := by
      split
      · exact .rfl
      · exact keepsForm_chooseTokens
    split
    next told => exact .trans (.snd read told) keepsForm_wordFault
    next told =>
      refine .trans (.snd read told) (.ite keepsForm_wordRead (keepsForm_withCounts (fun u => ?_) fun _ => keepsForm_wordRead))
      split
      · exact keepsForm_wordRead
      next forked =>
        exact .trans keepsForm_backUp (.trans (keepsForm_forks forked) (.trans (keepsForm_foldl fun _ _ =>
          .trans keepsForm_issueStep (.trans keepsForm_bring (.trans keepsForm_rsets (.trans keepsForm_setPhaseOf
            keepsForm_agStore)))) (.trans keepsForm_modCh keepsForm_wordIssued)))
theorem keepsForm_emptyRecords {s : State} {g : Program} {r creg n : Nat} {p : List Nat × State}
    (h : s.emptyRecords g r creg n = some p) : KeepsForm s p.2 := by
  induction n generalizing s p with
  | zero =>
    obtain rfl := Option.some.inj h
    exact .rfl
  | succ n ih =>
    unfold State.emptyRecords at h
    split at h
    next made =>
      obtain ⟨t, built, rest⟩ := Option.bind_eq_some_iff.mp h
      obtain ⟨x, more, rfl⟩ := Option.map_eq_some_iff.mp rest
      exact (keepsForm_newDir made).trans ((keepsForm_buildRecord built).trans (ih (p := x) more))
    next => cases h
theorem keepsForm_execBeam {c : CReg} {hk hn : HReg} {s : State} : KeepsOut s (execBeam c hk hn s) :=
  keepsForm_stepWord fun g r t => by
    refine .ite keepsForm_wordFault (.ite keepsForm_wordFault (.ite keepsForm_wordFault ?_))
    split
    · exact keepsForm_wordFault
    · split
      · exact keepsForm_wordIssued
      next made =>
        exact .trans (keepsForm_emptyRecords made) (.trans (keepsForm_foldl fun _ _ =>
          .trans keepsForm_issueStep (.trans keepsForm_rset keepsForm_agStore))
          (.trans keepsForm_backUp (.trans keepsForm_modCh keepsForm_wordIssued)))
theorem keepsForm_draftBad {s : State} {a : Word} {j n : Nat} : KeepsForm s (s.draftBad a j n).2 := by
  induction n generalizing s j with
  | zero => exact .rfl
  | succ n ih =>
    unfold State.draftBad
    grind [keepsForm_agLoad]
theorem keepsForm_execSpec {c : CReg} {ha hn : HReg} {s : State} : KeepsOut s (execSpec c ha hn s) :=
  keepsForm_stepWord fun _ _ _ => by
    grind [keepsForm_agLoad, keepsForm_backUp, keepsForm_draftBad, keepsForm_issueStep, keepsForm_setPhaseOf, keepsForm_wordFault,
      keepsForm_wordIssued]

/-! ### generation steps -/

theorem keepsForm_emptyAreas {s : State} {rows : List Row} : KeepsForm s (s.emptyAreas rows) := by
  unfold State.emptyAreas
  grind [keepsForm_agAccess, keepsForm_foldl]
theorem keepsForm_launchStep {s : State} {b : Nat} {e : BindEntry} {seq : Nat} {reex : Bool} {rows kept : List Row} :
    KeepsForm s (s.launchStep b e seq reex rows kept) := by
  grind [State.launchStep, keepsForm_agStores, keepsForm_emptyAreas, keepsForm_enqueue, keepsForm_logEntry, keepsForm_modBind]
theorem keepsForm_requestFault {s : State} {r code seq : Nat} : KeepsForm s (s.requestFault r code seq) := by
  grind [State.requestFault, keepsForm_programFault, keepsForm_rsets]
theorem keepsForm_lateFault {s : State} {r seq : Nat} : KeepsForm s (s.lateFault r seq) := by
  grind [State.lateFault, keepsForm_requestFault, keepsForm_rset]
theorem keepsForm_lateFlares {s : State} {b : Nat} : KeepsForm s (s.lateFlares b) := by
  unfold State.lateFlares
  grind [keepsForm_lateFault, keepsForm_modCh, keepsForm_foldl]
theorem keepsForm_boundary {s : State} {b : Nat} : KeepsForm s (s.boundary b) :=
  .trans keepsForm_modCh ((keepsForm_foldl (fun _ _ => keepsForm_withCounts (fun _ => keepsForm_abandonNow)
    fun _ => keepsForm_modCh)).trans keepsForm_lateFlares)
theorem keepsForm_execStepFormation {b : Nat} {s : State} : KeepsOut s (execStepFormation b s) := by
  unfold execStepFormation
  intro t next
  grind [keepsForm_boundary, keepsForm_dropPromotions, keepsForm_launchStep, keepsForm_programFault, keepsForm_rset,
    keepsForm_rsets, keepsForm_modCh, keepsForm_foldl]
theorem keepsForm_raiseCounter {s : State} {r t : Nat} : KeepsForm s (s.raiseCounter r t) := by
  obtain ⟨load, loads⟩ : ∃ load, load = State.agLoad := ⟨_, rfl⟩
  obtain ⟨store, stores⟩ : ∃ store, store = State.agStore := ⟨_, rfl⟩
  obtain ⟨get, gets⟩ : ∃ get, get = State.rget := ⟨_, rfl⟩
  have asked {s : State} {va : Word} {n : Nat} : KeepsForm s (load s va n).2 := loads ▸ keepsForm_agLoad
  have told {s : State} {va : Word} {n v w : Nat} : KeepsForm s (store s w va n v).2 := stores ▸ keepsForm_agStore
  have unfolded : @State.raiseCounter = @State.raiseCounter := rfl
  conv_rhs at unfolded => delta State.raiseCounter
  rw [unfolded, ← loads, ← stores, ← gets]
  refine .ite .rfl ?_
  split
  · exact .rfl
  · refine .ite .rfl ?_
    dsimp only
    split
    next counted => exact .trans (.snd asked counted) told
    next counted => exact .snd asked counted
theorem keepsForm_raiseCounters {s : State} {r : Nat} {l : List Nat} : KeepsForm s (s.raiseCounters r l) := by
  unfold State.raiseCounters
  grind [keepsForm_raiseCounter, keepsForm_foldl]
theorem keepsForm_shareWith {s : State} {old t : Nat} : KeepsForm s (s.shareWith old t).2 := by
  grind [State.shareWith, keepsForm_bump, keepsForm_modCh]
theorem keepsForm_shareAfter {s : State} {old : Nat} {l : List Nat} : KeepsForm s (s.shareAfter old l).2 := by
  induction l generalizing s old with
  | nil => exact .rfl
  | cons t l ih => exact .trans keepsForm_shareWith ih
theorem keepsForm_identTo {s : State} {r n : Nat} : KeepsForm s (s.identTo r n) := by
  grind [State.identTo, keepsForm_rset, keepsForm_setIdent, keepsForm_shareAfter]
theorem keepsForm_countRow {s : State} {r lo hi : Nat} : KeepsForm s (s.countRow r lo hi) := by
  grind [State.countRow, keepsForm_raiseCounters, keepsForm_setUncounted]
theorem keepsForm_completeStep {s : State} {r : Nat} {v : Word} : KeepsForm s (s.completeStep r v) := by
  grind [State.completeStep, keepsForm_completeAt, keepsForm_finishStep]
theorem keepsForm_goOn {s : State} {r : Nat} : KeepsForm s (s.goOn r) := by
  grind [State.goOn, keepsForm_rset, keepsForm_setPhaseOf]
theorem keepsForm_genDrew {s : State} {r tok : Nat} : KeepsForm s (s.genDrew r tok) := by
  grind [State.genDrew, keepsForm_completeStep, keepsForm_goOn, keepsForm_rset]
theorem keepsForm_appendRow {s : State} {r len : Nat} {joined tok : Option Nat} : KeepsForm s (s.appendRow r len joined tok) := by
  grind [State.appendRow, keepsForm_completeStep, keepsForm_genDrew, keepsForm_goOn, keepsForm_issueStep, keepsForm_modProg,
    keepsForm_rset]
theorem keepsForm_takeFrom {s : State} {r x : Nat} : KeepsForm s (s.takeFrom r x) := by
  grind [State.takeFrom, keepsForm_rsets, keepsForm_rwrite, keepsForm_setIdent, keepsForm_setUncounted, keepsForm_modCh]
theorem keepsForm_chooseDone {s : State} {r : Nat} : KeepsForm s (s.chooseDone r) := by
  rw [State.chooseDone]
  generalize told : List.foldl _ ((none : Option Nat), s) _ = x
  have kept : KeepsForm s x.2 := by
    rw [← told]
    refine keepsForm_foldl_snd (p := (none, s)) ?_
    intro p q
    exact keepsForm_agStore
  dsimp only
  split
  · exact kept.trans (.trans (.ite .rfl keepsForm_takeFrom) (.trans keepsForm_dropGroup
      (.trans keepsForm_rset keepsForm_programFault)))
  · exact kept.trans (.trans (.ite .rfl keepsForm_takeFrom) (.trans keepsForm_dropGroup keepsForm_completeStep))
theorem keepsForm_scoreRow {s : State} {r n : Nat} {scored : Bool} : KeepsForm s (s.scoreRow r n scored) := by
  grind [State.scoreRow, keepsForm_chooseDone, keepsForm_completeStep, keepsForm_goOn, keepsForm_rset]
theorem keepsForm_rebind {s : State} {g : List Nat} {l : List BeamEntry} : KeepsForm s (s.rebind g l).2 :=
  (keepsForm_foldl fun _ _ => keepsForm_foldl fun _ _ => keepsForm_raiseEntry).trans
    (.trans (keepsForm_foldl fun _ _ => keepsForm_overPlaces fun _ _ => keepsForm_clearEntry)
      (keepsForm_foldl fun _ _ => keepsForm_foldl fun _ _ => keepsForm_setEntry))
theorem keepsForm_beamStep {s : State} {c : Nat} {l : List BeamEntry} : KeepsForm s (s.beamStep c l) := by
  unfold State.beamStep
  grind [keepsForm_completeStep, keepsForm_dropGroup, keepsForm_putTokens, keepsForm_raiseCounter, keepsForm_rebind,
    keepsForm_rsets, keepsForm_rwrite, keepsForm_setIdent, keepsForm_setUncounted, keepsForm_foldl]
theorem keepsForm_commitRow {s : State} {x : Row} : KeepsForm s (s.commitRow x) := by
  grind [State.commitRow, keepsForm_appendRow, keepsForm_completeStep, keepsForm_countRow, keepsForm_extend, keepsForm_genDrew,
    keepsForm_goOn, keepsForm_identTo, keepsForm_raiseCounters, keepsForm_rset, keepsForm_rsets, keepsForm_scoreRow]
theorem keepsForm_handOver {s : State} {seq : Nat} {x : Share} : KeepsForm s (s.handOver seq x) := by
  grind [State.handOver, keepsForm_appendRow, keepsForm_clearEntry, keepsForm_countRow, keepsForm_identTo, keepsForm_overPlaces,
    keepsForm_raiseEntry, keepsForm_requestFault, keepsForm_rset, keepsForm_setEntry, keepsForm_modCh]
theorem keepsForm_handOvers {s : State} {seq n : Nat} : KeepsForm s (s.handOvers seq n) := by
  induction n generalizing s with
  | zero => exact .rfl
  | succ n ih => exact (keepsForm_foldl (fun _ _ => keepsForm_handOver)).trans ih
theorem keepsForm_commitRows {s : State} {seq : Nat} {rows : List Row} : KeepsForm s (s.commitRows seq rows) := by
  unfold State.commitRows
  grind [keepsForm_beamStep, keepsForm_commitRow, keepsForm_handOvers, keepsForm_requestFault, keepsForm_rset, keepsForm_modCh,
    keepsForm_foldl]
theorem keepsForm_execStepCommit {b : Nat} {s : State} : KeepsOut s (execStepCommit b s) := by
  unfold execStepCommit
  intro t next
  grind [keepsForm_boundary, keepsForm_commitRows, keepsForm_lateFault, keepsForm_logEntry, keepsForm_modBind, keepsForm_rsets,
    keepsForm_withCounts, keepsForm_foldl]
theorem keepsForm_execFlareReexecution {b : Nat} {s : State} : KeepsOut s (execFlareReexecution b s) := by
  unfold execFlareReexecution
  intro t next
  grind [keepsForm_commitRows, keepsForm_launchStep, keepsForm_modBind, keepsForm_withCounts]
theorem keepsForm_outputArrives {s : State} {o : Output} : KeepsForm s (s.outputArrives o) := by
  grind [State.outputArrives, keepsForm_modBind, keepsForm_send]
theorem keepsForm_endArrives {s : State} {n : TName} {launch : Word} : KeepsForm s (s.endArrives n launch) := by
  grind [State.endArrives, keepsForm_modBind, keepsForm_send]

/-! ### replies -/

theorem keepsForm_wakeAccess {s : State} {core slot : Nat} : KeepsForm s (s.wakeAccess core slot) := by
  grind [State.wakeAccess, keepsForm_modThread]
theorem keepsForm_elemAnswer {s : State} {core slot : Nat} {store : Bool} {v : VReg} {ty : Ty} {todo done : List Elem}
    {r : Reply} : KeepsForm s (s.elemAnswer core slot store v ty todo done r) := by
  unfold State.elemAnswer
  grind [keepsForm_finish, keepsForm_setOp, keepsForm_trapPending]
theorem keepsForm_headAnswer {s : State} {core slot : Nat} {th : Thread} {p : Pending} {r : Reply} :
    KeepsForm s (s.headAnswer core slot th p r) := by
  unfold State.headAnswer
  grind [keepsForm_elemAnswer, keepsForm_finish, keepsForm_lateStep, keepsForm_recordWord, keepsForm_trapPending,
    keepsForm_wakeAccess]
theorem keepsForm_relaxedAnswer {s : State} {t : Nat} {r : Reply} : KeepsForm s (s.relaxedAnswer t r) := by
  grind [State.relaxedAnswer, keepsForm_sendTrap, keepsForm_setThread]
theorem keepsForm_unitAnswer {s : State} {w : Who} {r : Reply} : KeepsForm s (s.unitAnswer w r) := by
  unfold State.unitAnswer
  grind [keepsForm_agentAnswer, keepsForm_chandlerAnswer, keepsForm_copyAnswer, keepsForm_cwordAnswer, keepsForm_fillAnswer,
    keepsForm_pagerAnswer, keepsForm_portAnswer, keepsForm_remoteAnswer, keepsForm_resultAnswer]
theorem keepsForm_execReplyArrival {id : Nat} {s : State} : KeepsOut s (execReplyArrival id s) := by
  grind [execReplyArrival, keepsForm_endArrives, keepsForm_headAnswer, keepsForm_outputArrives, keepsForm_relaxedAnswer,
    keepsForm_take, keepsForm_unitAnswer]

/-! ### issue -/

theorem keepsForm_bothSides {f : Thread → Thread} {s : State} : KeepsForm s (bothSides f s) := id
theorem keepsForm_beginIssue {s : State} {core slot : Nat} {th : Thread} : KeepsForm s (s.beginIssue core slot th) := id
theorem keepsForm_fetchPeer {s : State} {pa : Nat} : KeepsForm s (s.fetchPeer pa) := by
  grind [State.fetchPeer, keepsForm_readNow, keepsForm_stopWait, keepsForm_trap]
theorem keepsForm_fetchBundle {s : State} : KeepsForm s (s.fetchBundle).2 := by
  unfold State.fetchBundle
  grind [keepsForm_fetchPeer, keepsForm_wordError, keepsForm_bothSides, keepsForm_trap, keepsForm_withAddress]
theorem keepsForm_fetchAhead {s : State} {core slot : Nat} {th : Thread} {pc : Word} {n : Nat} :
    KeepsForm s (s.fetchAhead core slot th pc n).2 := by
  induction n generalizing s pc with
  | zero => exact .rfl
  | succ n ih =>
    unfold State.fetchAhead
    grind [keepsForm_wordError]
theorem keepsForm_aheadAfter {s : State} {taken : Bool} {next : Word} : KeepsForm s (s.aheadAfter taken next).2 := by
  unfold State.aheadAfter
  grind [keepsForm_fetchAhead]
theorem keepsForm_execReplayIssue {s : State} : KeepsOut s (execReplayIssue s) := by grind [execReplayIssue]
theorem keepsForm_execReplayComplete {s : State} : KeepsOut s (execReplayComplete s) := by
  grind [execReplayComplete, keepsForm_live]
theorem keepsForm_inSlot {v : Bool} {i : Instr} {w : Lane} {s : State} : KeepsForm s (inSlot v i w s) := id
theorem keepsForm_deferV {p : Plan} {s : State} : KeepsForm s (deferV p s) := by
  grind [deferV, keepsForm_detach, keepsForm_inSlot]
theorem keepsForm_endIssue {s : State} {th : Thread} : KeepsForm s (s.endIssue th) := id
theorem keepsForm_stopIssue {s : State} {skip : Option Reg} : KeepsOut s (s.stopIssue skip) := by
  grind [State.stopIssue, keepsForm_endIssue]
theorem keepsForm_beginAgain {s : State} {core slot : Nat} {th : Thread} {p : Pending} :
    KeepsForm s (s.beginAgain core slot th p) := id

/-! ### management operations -/

theorem keepsForm_modMgmt {f : Mgmt → Mgmt} {s : State} : KeepsForm s (modMgmt f s) := id
theorem keepsForm_mgmtDone {rc : Nat} {out : List Byte} {s : State} : KeepsForm s (mgmtDone rc out s) := by
  grind [mgmtDone, keepsForm_modMgmt]
theorem keepsForm_mgmtRun {op : Nat} {body : Mgmt → State → State} {s : State} (h : ∀ m t, KeepsForm t (body m t)) :
    KeepsOut s (mgmtRun op body s) := by
  grind [mgmtRun, keepsForm_mgmtDone]
theorem keepsForm_execRegisterWrite {off : Nat} {v : Word} {s : State} : KeepsOut s (execRegisterWrite off v s) := by
  grind [execRegisterWrite, keepsForm_modPort, keepsForm_modHost, keepsForm_modMgmt]
theorem keepsForm_powerRun {state : Nat} {body : Mgmt → State → State} {s : State} (h : ∀ m t, KeepsForm t (body m t)) :
    KeepsOut s (powerRun state body s) := by
  unfold powerRun
  intro t next
  grind [keepsForm_mgmtRun, keepsForm_mgmtDone]
theorem keepsForm_powerTo {s : State} {m : Mgmt} {target : Power} {lo hi div refill : Nat} :
    KeepsForm s (s.powerTo m target lo hi div refill) := by
  unfold State.powerTo
  grind [keepsForm_modCore, keepsForm_mgmtDone, keepsForm_modMgmt, keepsForm_foldl]
theorem keepsForm_execPowerGlow {s : State} : KeepsOut s (execPowerGlow s) :=
  keepsForm_powerRun fun _ _ => by grind [keepsForm_powerTo]
theorem keepsForm_execPowerDim {s : State} : KeepsOut s (execPowerDim s) :=
  keepsForm_powerRun fun _ _ => by grind [keepsForm_powerTo]
theorem keepsForm_execPowerEmber {s : State} : KeepsOut s (execPowerEmber s) :=
  keepsForm_powerRun fun _ _ => by grind [keepsForm_mgmtDone]
theorem keepsForm_dark {s : State} : KeepsForm s s.dark := Memory.wf_filter _ _
theorem keepsForm_execPowerDark {s : State} : KeepsOut s (execPowerDark s) :=
  keepsForm_powerRun fun _ _ => by grind [keepsForm_dark, keepsForm_mgmtDone]
theorem keepsForm_configure {s : State} {pa : Nat} {t : State} (h : s.configure pa = some t) : KeepsForm s t := by
  grind [State.configure, keepsForm_modCh]
theorem keepsForm_execChandlerConfig {s : State} : KeepsOut s (execChandlerConfig s) := by
  unfold execChandlerConfig
  intro t next
  grind [keepsForm_configure, keepsForm_touchWords, keepsForm_mgmtDone, keepsForm_mgmtRun]
theorem keepsForm_pauseRun {row : Nat} {paused : Bool} {s : State} : KeepsOut s (pauseRun row paused s) := by
  unfold pauseRun
  intro t next
  grind [keepsForm_configure, keepsForm_mgmtDone, keepsForm_mgmtRun, keepsForm_modCh]
theorem keepsForm_execChandlerPauseAdmission {s : State} : KeepsOut s (execChandlerPauseAdmission s) := by
  unfold execChandlerPauseAdmission
  intro t next
  grind [keepsForm_pauseRun]
theorem keepsForm_execChandlerResumeAdmission {s : State} : KeepsOut s (execChandlerResumeAdmission s) := by
  grind [execChandlerResumeAdmission, keepsForm_pauseRun]
theorem keepsForm_execLogread {s : State} : KeepsOut s (execLogread s) := by
  unfold execLogread
  intro t next
  grind [keepsForm_mgmtDone, keepsForm_mgmtRun]
theorem keepsForm_execRepairs {s : State} : KeepsOut s (execRepairs s) :=
  keepsForm_mgmtRun fun _ _ => by grind [keepsForm_mgmtDone]
theorem keepsForm_execAttest {s : State} : KeepsOut s (execAttest s) := by
  unfold execAttest
  intro t next
  grind [keepsForm_mgmtDone, keepsForm_mgmtRun]
theorem keepsForm_execFwstage {s : State} : KeepsOut s (execFwstage s) :=
  keepsForm_mgmtRun fun _ _ => by grind [keepsForm_mgmtDone, keepsForm_modMgmt]
theorem keepsForm_execIdentity {s : State} : KeepsOut s (execIdentity s) :=
  keepsForm_mgmtRun fun _ _ => by grind [keepsForm_mgmtDone]
theorem keepsForm_execUnknownMgmtOp {s : State} : KeepsOut s (execUnknownMgmtOp s) := by
  grind [execUnknownMgmtOp, keepsForm_mgmtDone]
theorem keepsForm_execModuleReset {s : State} : KeepsOut s (execModuleReset s) := by
  intro t h
  obtain rfl := Host.Outcome.next.inj h
  exact Memory.wf_filter _ _

/-! ### the cycle -/

theorem keepsForm_takeInput {s : State} {x : Input} : KeepsForm s (s.takeInput x) := by
  unfold State.takeInput
  grind [keepsForm_later, keepsForm_settleBars, keepsForm_modHost, keepsForm_foldl]
theorem keepsForm_takeInputs {s : State} : KeepsForm s (s.takeInputs) := by
  unfold State.takeInputs
  grind [keepsForm_takeInput, keepsForm_foldl]
theorem keepsForm_deliverPoisoned {s : State} {f : Flight} : KeepsForm s (s.deliverPoisoned f) := by
  unfold State.deliverPoisoned
  grind [keepsForm_bounced, keepsForm_modBind, keepsForm_modCore, keepsForm_take]
theorem keepsForm_flitError {s : State} {f : Flight} : KeepsForm s (s.flitError f) := by
  grind [State.flitError, keepsForm_deliverPoisoned, keepsForm_logEntry, keepsForm_markUnit]
theorem keepsForm_dropTlbs {s : State} : KeepsForm s (s.dropTlbs) := id
theorem keepsForm_newCycle {s : State} : KeepsForm s (s.newCycle) := by
  unfold State.newCycle
  grind [keepsForm_dropTlbs, keepsForm_flitError, keepsForm_takeInputs, keepsForm_foldl]

/-! ### requests of system instructions as they arrive -/

theorem keepsForm_execSystemRequestArrival {id : Nat} {s : State} : KeepsOut s (execSystemRequestArrival id s) := by
  unfold execSystemRequestArrival
  split
  next sender op target begun found =>
    dsimp only
    cases op with
    | tstate b =>
      dsimp only
      split
      · exact .next (.trans keepsForm_take keepsForm_answerSys)
      · exact .next (keepsForm_toThread keepsForm_take fun _ => keepsForm_take)
    | tset o pc => exact .next (keepsForm_toThread keepsForm_take fun _ => .trans keepsForm_take keepsForm_doTset)
    | tresume a pc =>
      dsimp only
      split
      · exact .next (.trans keepsForm_take (.trans keepsForm_doResumeEngine keepsForm_answerSys))
      · exact .next (keepsForm_toThread keepsForm_take fun _ => .trans keepsForm_take keepsForm_doTresume)
    | tkill whole => exact .next (keepsForm_toThread keepsForm_take fun _ => .trans keepsForm_take keepsForm_doTkill)
    | snuff r o b => exact .next (.trans keepsForm_take (.trans keepsForm_doSnuff keepsForm_answerSys))
    | errlog a => exact .next (.trans keepsForm_take keepsForm_answerSys)
    | tlbinv kind reach a =>
      dsimp only
      split
      · exact .next .rfl
      · exact .next (.trans keepsForm_take (.trans keepsForm_doTlbinv keepsForm_answerSys))
    | preempt area => exact .next keepsForm_doSave
    | savectx area => exact .next keepsForm_doSave
    | restctx area => exact .next keepsForm_doRestctx
    | enbud reach core refill =>
      dsimp only
      split
      · split
        · exact .next (.trans keepsForm_take keepsForm_answerSys)
        · exact .next .rfl
      · exact .next (.trans (keepsForm_foldl fun _ _ => keepsForm_modCore) keepsForm_beginSys)
  next => exact .refused

/-! ### every instruction and event, and the step -/

theorem keepsForm_orPass {s : State} {o : Out} (h : KeepsOut s o) : KeepsOut s (orPass s o) := by
  unfold orPass
  split
  · exact .next .rfl
  · exact h
/-- An instruction of a slot stores nothing as it issues. -/
theorem keepsForm_atIssue {i : Instr} {e : Enc} {s : State} (word : encode i = some e) (slot : ∀ w, e ≠ .f w) :
    KeepsOut s (exec i s) := by
  obtain ⟨t, next, issued⟩ := exec_atIssue (s := s) word slot
  rw [next]
  exact .next fun h => issued.mem.symm ▸ h
theorem keepsForm_exec {i : Instr} {s : State} : KeepsOut s (exec i s) := by
  cases i with
  | cnew => exact keepsForm_execCnew
  | cbind => exact keepsForm_execCbind
  | cfork => exact keepsForm_execCfork
  | cfree => exact keepsForm_execCfree
  | cset => exact keepsForm_execCset
  | cget => exact keepsForm_execCget
  | cwait => exact keepsForm_execCwait
  | trunc => exact keepsForm_execTrunc
  | append => exact keepsForm_execAppend
  | gen => exact keepsForm_execGen
  | score => exact keepsForm_execScore
  | choose c ha hn hd => exact keepsForm_execChoose (hd := hd)
  | beam => exact keepsForm_execBeam
  | spec => exact keepsForm_execSpec
  | post => exact keepsForm_execPost
  | recv hd ha => exact keepsForm_execRecv (_d := hd)
  | hmov => exact keepsForm_execHmov
  | hadd => exact keepsForm_execHadd
  | hsub => exact keepsForm_execHsub
  | hcmp => exact keepsForm_execHcmp
  | hbr => exact keepsForm_execHbr
  | hjmp off => exact keepsForm_execHjmp (_off := off)
  | hld => exact keepsForm_execHld
  | hst => exact keepsForm_execHst
  | replyArrival => exact keepsForm_execReplyArrival
  | energyRefill => exact keepsForm_execEnergyRefill
  | bankAccessArrival => exact keepsForm_execBankAccessArrival
  | waitBudgetExhausted => exact keepsForm_execWaitBudgetExhausted
  | pageWalkComplete => exact keepsForm_execPageWalkComplete
  | postedStoreRefused => exact keepsForm_execPostedStoreRefused
  | putArrival => exact keepsForm_execPutArrival
  | copyAccept => exact keepsForm_execCopyAccept
  | copyStart => exact keepsForm_execCopyStart
  | copyComplete => exact keepsForm_execCopyComplete
  | scaledChunkArrival => exact keepsForm_execScaledChunkArrival
  | segfmtWrite => exact keepsForm_execSegfmtWrite
  | segfmtTakesEffect => exact keepsForm_execSegfmtTakesEffect
  | vigctlWrite => exact keepsForm_execVigctlWrite
  | vigstatPeakWrite => exact keepsForm_execVigstatPeakWrite
  | registerWrite => exact keepsForm_execRegisterWrite
  | matrixCommandAccept => exact keepsForm_execMatrixCommandAccept
  | matrixCommandStart => exact keepsForm_execMatrixCommandStart
  | operandsConsumed => exact keepsForm_execOperandsConsumed
  | matrixCommandComplete => exact keepsForm_execMatrixCommandComplete
  | msendArrival => exact keepsForm_execMsendArrival
  | launchRecordArrival => exact keepsForm_execLaunchRecordArrival
  | shapeBroadcastComplete => exact keepsForm_execShapeBroadcastComplete
  | launchEnd => exact keepsForm_execLaunchEnd
  | spawnMessageArrival => exact keepsForm_execSpawnMessageArrival
  | slotFreeNotice => exact keepsForm_execSlotFreeNotice
  | nredPacketArrival => exact keepsForm_execNredPacketArrival
  | mailboxRecordArrival => exact keepsForm_execMailboxRecordArrival
  | chunkHopCheck => exact keepsForm_execChunkHopCheck
  | autoFence => exact keepsForm_execAutoFence
  | stepFormation => exact keepsForm_execStepFormation
  | stepCommit => exact keepsForm_execStepCommit
  | flareReexecution => exact keepsForm_execFlareReexecution
  | pageMove => exact keepsForm_execPageMove
  | promotionComplete => exact keepsForm_execPromotionComplete
  | residencyHoldExpiry => exact keepsForm_execResidencyHoldExpiry
  | kvFetch => exact keepsForm_execKvFetch
  | kvStore => exact keepsForm_execKvStore
  | kvCommandComplete => exact keepsForm_execKvCommandComplete
  | hostStoreCompletion => exact keepsForm_execHostStoreCompletion
  | beaconLinkTrained => exact keepsForm_execBeaconLinkTrained
  | peerAccessArrival => exact keepsForm_execPeerAccessArrival
  | peerAccessRefused => exact keepsForm_execPeerAccessRefused
  | linkDown => exact keepsForm_execLinkDown
  | systemRequestArrival => exact keepsForm_execSystemRequestArrival
  | tkillOfTheProgram => exact keepsForm_execTkillOfTheProgram
  | halt => exact keepsForm_execHalt
  | yield => exact keepsForm_execYield
  | illegalWordTurn => exact keepsForm_execIllegalWordTurn
  | replayIssue => exact keepsForm_execReplayIssue
  | replayComplete => exact keepsForm_execReplayComplete
  | launchPlacement => exact keepsForm_execLaunchPlacement
  | spawnResendTick => exact keepsForm_execSpawnResendTick
  | loadLevelling => exact keepsForm_execLoadLevelling
  | stackGrowth => exact keepsForm_execStackGrowth
  | fmbxRecordOffer => exact keepsForm_execFmbxRecordOffer
  | agentAdmission => exact keepsForm_execAgentAdmission
  | eviction => exact keepsForm_execEviction
  | hostPlainRead => exact keepsForm_execHostPlainRead
  | hostPlainWrite => exact keepsForm_execHostPlainWrite
  | hostFillRead => exact keepsForm_execHostFillRead
  | hostFillWrite => exact keepsForm_execHostFillWrite
  | hostStateRead => exact keepsForm_execHostStateRead
  | hostStateWriteEmpty => exact keepsForm_execHostStateWriteEmpty
  | hostStateWriteFull => exact keepsForm_execHostStateWriteFull
  | hostStateWriteNone => exact keepsForm_execHostStateWriteNone
  | hostSnoop => exact keepsForm_execHostSnoop
  | hostLinkTrained => exact keepsForm_execHostLinkTrained
  | powerGlow => exact keepsForm_execPowerGlow
  | powerDim => exact keepsForm_execPowerDim
  | powerEmber => exact keepsForm_execPowerEmber
  | powerDark => exact keepsForm_execPowerDark
  | chandlerConfig => exact keepsForm_execChandlerConfig
  | chandlerPauseAdmission => exact keepsForm_execChandlerPauseAdmission
  | chandlerResumeAdmission => exact keepsForm_execChandlerResumeAdmission
  | logread => exact keepsForm_execLogread
  | repairs => exact keepsForm_execRepairs
  | attest => exact keepsForm_execAttest
  | fwstage => exact keepsForm_execFwstage
  | identity => exact keepsForm_execIdentity
  | moduleReset => exact keepsForm_execModuleReset
  | hostPortLinkDown => exact keepsForm_execHostPortLinkDown
  | unknownMgmtOp => exact keepsForm_execUnknownMgmtOp
  | _ => exact keepsForm_atIssue rfl nofun
section
variable {ex : Instr → State → Out} (h : ∀ i s, KeepsOut s (ex i s))
include h
theorem keepsForm_runSlots {p : Plan} {s : State} : KeepsOut s (runSlots ex p s) := by
  have ahead {s : State} : KeepsOut s (if p.replay then ex .replayIssue s else .next (inSlot true p.v p.vw s)) := by
    split
    · exact h _ _
    · exact .next keepsForm_inSlot
  have vslot {s : State} : KeepsOut s (match if p.replay then ex .replayIssue s else .next (inSlot true p.v p.vw s) with
      | .next s => ex p.v s
      | o => o) := by
    split
    next first => exact .of_keepsForm (ahead _ first) (h _ _)
    next => exact ahead
  unfold runSlots
  dsimp only
  split
  next first =>
    have upTo := KeepsForm.trans keepsForm_inSlot (h _ _ _ first)
    split
    · exact .next upTo
    · split
      next second =>
        split
        · exact .next (vslot _ second)
        · split
          · exact .next (upTo.trans keepsForm_deferV)
          · exact .of_keepsForm upTo vslot
      next => exact vslot
  next => exact .of_keepsForm keepsForm_inSlot (h _ _)
theorem keepsForm_commit {p : Plan} {s : State} : KeepsOut s (s.commit ex p) := by
  have moved {c : Bool} : KeepsOut s (if c then .next s
      else if s.iss.live.rep.atEnd then ex .replayComplete s
      else .next (live (fun th => { th with rep := th.rep.advance }) s)) := by
    split
    · exact .next .rfl
    · split
      · exact h _ _
      · exact .next keepsForm_live
  unfold State.commit
  dsimp only
  generalize (if p.waits then s.iss.pc else s.iss.next) = onward
  split
  next went =>
    have upTo := moved _ went
    split
    · exact .next (upTo.trans (.trans keepsForm_aheadAfter (.trans keepsForm_bump (.trans keepsForm_modCore
        (.trans keepsForm_endIssue keepsForm_endThread)))))
    · exact .next (upTo.trans (.trans keepsForm_aheadAfter (.trans keepsForm_bump (.trans keepsForm_modCore
        (.trans keepsForm_endIssue keepsForm_pump)))))
  next => exact moved
theorem keepsForm_issueWord {w : Word} {s : State} : KeepsOut s (issueWord ex w s) := by
  unfold issueWord
  dsimp only
  split
  · exact .of_keepsForm (.trans keepsForm_trap (.ite keepsForm_live .rfl)) keepsForm_stopIssue
  · split
    · exact .of_keepsForm (.trans keepsForm_modCore keepsForm_stopWait) keepsForm_stopIssue
    · split
      next ran =>
        have upTo := keepsForm_runSlots h _ ran
        split
        · exact .of_keepsForm upTo keepsForm_stopIssue
        · exact .of_keepsForm upTo (keepsForm_commit h)
      next => exact keepsForm_runSlots h
theorem keepsForm_issueBundle {core slot : Nat} {th : Thread} {s : State} : KeepsOut s (issueBundle ex core slot th s) := by
  have fetched := KeepsForm.trans (keepsForm_beginIssue (s := s) (core := core) (slot := slot) (th := th)) keepsForm_fetchBundle
  unfold issueBundle
  split
  next found => exact .of_keepsForm (.snd fetched found) (keepsForm_issueWord h)
  next found => exact .of_keepsForm (.snd fetched found) keepsForm_stopIssue
theorem keepsForm_reissueTurn {core slot : Nat} {th : Thread} {p : Pending} {rest : List Pending} {s : State} :
    KeepsOut s (reissueTurn ex core slot th p rest s) := by
  have done {s : State} : KeepsOut s (match s.thread (tid core slot) with
      | some x => if x.exiting && x.pend.isEmpty then .next (s.endThread core slot) else .next (s.pump core slot)
      | none => .next s) := by
    split
    · split
      · exact .next keepsForm_endThread
      · exact .next keepsForm_pump
    · exact .next .rfl
  unfold reissueTurn
  dsimp only
  split
  · exact .of_keepsForm keepsForm_setThread done
  · split
    next ran =>
      have upTo := KeepsForm.trans keepsForm_beginAgain (h _ _ _ ran)
      split
      · split
        · exact .next (upTo.trans keepsForm_endIssue)
        · exact .next (upTo.trans keepsForm_endIssue)
      · exact .of_keepsForm (upTo.trans keepsForm_endIssue) done
    next => exact .of_keepsForm keepsForm_beginAgain (h _ _)
theorem keepsForm_turnOf {core slot : Nat} {s : State} : KeepsOut s (turnOf ex core slot s) := by
  unfold turnOf
  split
  · exact .next .rfl
  · split
    · exact .next .rfl
    · split
      · exact .next .rfl
      · exact .next .rfl
      · exact .next .rfl
      · exact .next .rfl
      · exact .next keepsForm_pump
      · split
        · split
          · exact keepsForm_reissueTurn h
          · exact .next .rfl
        · exact .next keepsForm_pump
      · split
        · exact .next .rfl
        · split
          · exact .next keepsForm_setThread
          · split
            · exact .next keepsForm_setThread
            · exact keepsForm_issueBundle h
theorem keepsForm_programMove {p : Nat} {s : State} : KeepsOut s (programMove ex p s) := by
  unfold programMove
  split
  next turn => exact .next (.snd keepsForm_programTurn turn)
  next turn =>
    have upTo := KeepsForm.snd keepsForm_programTurn turn
    split
    · exact .of_keepsForm upTo (h _ _)
    · exact .of_keepsForm upTo (h _ _)
theorem keepsForm_moveOf {s : State} {m : Move} : KeepsOut s (moveOf ex s m) := by
  cases m with
  | turn core slot => exact keepsForm_turnOf h
  | bridge id => exact .next keepsForm_passBridge
  | event i => exact keepsForm_orPass (h _ _)
  | program p => exact keepsForm_orPass (keepsForm_programMove h)
theorem keepsForm_stillMove {s : State} : KeepsOut s (stillMove ex s) := by
  have fewer {l : List (Nat × Input)} : KeepsForm s { s with inputs := l } := .rfl
  unfold stillMove
  split
  · exact keepsForm_orPass (h _ _)
  · exact keepsForm_orPass (h _ _)
  · exact .of_keepsForm fewer (keepsForm_orPass (h _ _))
  · exact .next (fewer.trans keepsForm_takeInput)
  · exact .next .rfl
theorem keepsForm_stepBy {s : State} : KeepsOut s (stepBy ex s) := by
  unfold stepBy
  split
  · exact keepsForm_stillMove h
  · split
    next m rest due => exact .of_keepsForm (t := { s with agenda := rest }) .rfl (keepsForm_moveOf h)
    next => exact .next keepsForm_newCycle
end
/-- Settles O59: what every instruction and event keeps, every step keeps. -/
theorem stepsKeepMemoryCanonical : Obligations.StepsKeepMemoryCanonical :=
  fun _ t canonical next => keepsForm_stepBy (fun _ _ => keepsForm_exec) t next canonical

end Sys2Proof.Machine

namespace Sys2Proof.Machine

/-! ## Words and the map (R3, R140, R144) -/

theorem wordOfAddr_le (pa : Nat) : wordOfAddr pa ≤ pa := Nat.div_mul_le_self pa 8
theorem wordOfAddr_add_mod (pa : Nat) : wordOfAddr pa + pa % 8 = pa := Nat.div_add_mod' pa 8
theorem wordOfAddr_mod (pa : Nat) : wordOfAddr pa % 8 = 0 := Nat.mul_mod_left _ _
theorem wordOfAddr_of_aligned {w : Nat} (aligned : w % 8 = 0) : wordOfAddr w = w :=
  Nat.div_mul_cancel (Nat.dvd_of_mod_eq_zero aligned)
@[simp] theorem wordOfAddr_wordOfAddr (pa : Nat) : wordOfAddr (wordOfAddr pa) = wordOfAddr pa :=
  wordOfAddr_of_aligned (wordOfAddr_mod pa)

/-- The bounds of the map are multiples of 8, so that a word lies on one side of each, and at one place between two. -/
theorem le_wordOfAddr {n pa : Nat} (h : 8 ∣ n) : n ≤ wordOfAddr pa ↔ n ≤ pa := by
  unfold wordOfAddr
  omega
theorem wordOfAddr_lt {n pa : Nat} (h : 8 ∣ n) : wordOfAddr pa < n ↔ pa < n := by
  unfold wordOfAddr
  omega
theorem wordOfAddr_sub {n pa : Nat} (h : 8 ∣ n) : wordOfAddr pa - n = wordOfAddr (pa - n) := by
  unfold wordOfAddr
  omega
theorem wordOfAddr_div {n pa : Nat} (h : 8 ∣ n) : wordOfAddr pa / n = pa / n := by
  obtain ⟨k, rfl⟩ := h
  rw [← Nat.div_div_eq_div_mul, ← Nat.div_div_eq_div_mul, wordOfAddr, Nat.mul_div_cancel _ (by omega)]
theorem wordOfAddr_mod_of_dvd {n pa : Nat} (h : 8 ∣ n) : wordOfAddr pa % n = wordOfAddr (pa % n) := by
  obtain ⟨k, rfl⟩ := h
  rw [wordOfAddr, wordOfAddr, Nat.mul_comm 8 k, Nat.mul_mod_mul_right, Nat.mod_mul_left_div_self]

/-- The region of an address's word: an address of a control window lies in the register at a multiple of 8. -/
def Region.word : Region → Region
  | .districtCtl d off => .districtCtl d (wordOfAddr off)
  | .clusterCtl c off => .clusterCtl c (wordOfAddr off)
  | r => r
theorem regionOf_wordOfAddr (pa : Nat) : regionOf (wordOfAddr pa) = (regionOf pa).word := by
  simp (disch := decide) only [regionOf, le_wordOfAddr, wordOfAddr_lt, wordOfAddr_sub, wordOfAddr_div, wordOfAddr_mod_of_dvd,
    apply_ite Region.word]
  rfl

/-- The words that carry F and X are those of memory and each district's KVKICK (R147). -/
theorem hasMeta_cases {pa : Nat} (h : hasMeta pa = true) :
    (∃ d, regionOf pa = .hbm d) ∨ regionOf pa = .lpddr ∨ (∃ d, regionOf pa = .sram d) ∨ (∃ c, regionOf pa = .scratch c) ∨
      (∃ c, regionOf pa = .tcm c) ∨ ∃ d off, regionOf pa = .districtCtl d off ∧ wordOfAddr off = kvkickOff := by
  unfold hasMeta at h
  split at h
  case h_6 d off region => exact .inr (.inr (.inr (.inr (.inr ⟨d, off, region, of_decide_eq_true h⟩))))
  case h_7 => cases h
  all_goals rename_i region; simp [region]
@[simp] theorem hasMeta_wordOfAddr (pa : Nat) : hasMeta (wordOfAddr pa) = hasMeta pa := by
  rw [hasMeta, hasMeta, regionOf_wordOfAddr]
  cases regionOf pa with
  | districtCtl d off => exact congrArg (fun n => decide (n = kvkickOff)) (wordOfAddr_wordOfAddr off)
  | hbm | lpddr | host | peer | sram | scratch | tcm | clusterCtl | absent => rfl
theorem isStorage_of_hasMeta {pa : Nat} (h : hasMeta pa = true) : isStorage (wordOfAddr pa) = true := by
  rw [isStorage, regionOf_wordOfAddr]
  obtain ⟨d, e⟩ | e | ⟨d, e⟩ | ⟨c, e⟩ | ⟨c, e⟩ | ⟨d, off, e, kick⟩ := hasMeta_cases h <;> rw [e]
  case inr.inr.inr.inr.inr => exact decide_eq_true kick
  all_goals rfl
theorem busWord_of_hasMeta (s : State) {pa : Nat} (h : hasMeta pa = true) : s.busWord (wordOfAddr pa) = s.readWord (wordOfAddr pa) := by
  rw [State.busWord, regionOf_wordOfAddr]
  obtain ⟨d, e⟩ | e | ⟨d, e⟩ | ⟨c, e⟩ | ⟨c, e⟩ | ⟨d, off, e, kick⟩ := hasMeta_cases h <;> rw [e]
  case inr.inr.inr.inr.inr => simp [Region.word, kick, kvkickOff]
  all_goals rfl

/-! ## The bytes of a word -/

theorem Memory.readN_lt (m : List Host.Cell) (a n : Nat) : Memory.readN m a n < 256 ^ n := by
  induction n generalizing a with
  | zero => exact Nat.one_pos
  | succ n ih =>
    have first := (Memory.read m a).isLt
    have rest := ih (a + 1)
    rw [Memory.readN, Nat.pow_succ]
    omega
/-- Bytes read together are the low ones and, above them, the rest. -/
theorem Memory.readN_add (m : List Host.Cell) (a i n : Nat) :
    Memory.readN m a (i + n) = Memory.readN m a i + 256 ^ i * Memory.readN m (a + i) n := by
  induction i generalizing a with
  | zero => simp [Memory.readN]
  | succ i ih =>
    rw [show i + 1 + n = i + n + 1 by omega, Memory.readN, Memory.readN, ih, show a + 1 + i = a + (i + 1) by omega, Nat.pow_succ]
    ring
/-- The bytes inside a word are a field of it. -/
theorem bits_readN (m : List Host.Cell) (a : Nat) {i n k : Nat} (inside : i + n ≤ k) :
    bits (Memory.readN m a k) (i * 8) (8 * n) = Memory.readN m (a + i) n := by
  obtain ⟨r, rfl⟩ := Nat.exists_eq_add_of_le inside
  have below := Memory.readN_lt m a i
  rw [bits, Nat.mul_comm i 8, Nat.pow_mul, Nat.pow_mul, show (2 : Nat) ^ 8 = 256 by decide, Nat.add_assoc, Memory.readN_add m a i,
    Nat.add_mul_div_left _ _ (by positivity), Nat.div_eq_of_lt below, Nat.zero_add, Memory.readN_add _ _ n, Nat.add_mul_mod_self_left,
    Nat.mod_eq_of_lt (Memory.readN_lt ..)]
theorem State.readWord_toNat (s : State) (a : Nat) : (s.readWord a).toNat = Memory.readN s.mem a 8 := by
  rw [State.readWord, BitVec.toNat_ofNat]
  exact Nat.mod_eq_of_lt (Memory.readN_lt s.mem a 8)
/-- Of a word of memory or of KVKICK the bus reads the bytes stored there. -/
theorem busRead_of_hasMeta (s : State) {pa n : Nat} (h : hasMeta pa = true) (inside : pa % 8 + n ≤ 8) :
    s.busRead pa n = s.readN pa n := by
  rw [State.busRead, busWord_of_hasMeta s h, State.readWord_toNat, bits_readN _ _ inside, wordOfAddr_add_mod]
  rfl

/-- Bytes that are those of a number read as the number. -/
theorem Memory.readN_of_bytes {m : List Host.Cell} {a n v : Nat}
    (bytes : ∀ j < n, Memory.read m (a + j) = BitVec.ofNat 8 (v / 256 ^ j)) : Memory.readN m a n = v % 256 ^ n := by
  induction n generalizing a v with
  | zero => simp [Memory.readN, Nat.mod_one]
  | succ n ih =>
    have first : Memory.read m a = BitVec.ofNat 8 v := by simpa using bytes 0 n.succ_pos
    have rest : Memory.readN m (a + 1) n = v / 256 % 256 ^ n := ih fun j hj => by
      rw [Nat.add_assoc, Nat.add_comm 1, bytes (j + 1) (by omega), Nat.div_div_eq_div_mul, Nat.pow_succ']
    rw [Memory.readN, first, rest, BitVec.toNat_ofNat, Nat.pow_succ' (n := n), Nat.mod_mul]
/-- A word written reads back (R3). -/
theorem State.readWord_writeWord {s : State} (canonical : s.memoryCanonical) (a : Nat) (v : Word) :
    (s.writeWord a v).readWord a = v := by
  have bytes : Memory.readN (s.writeWord a v).mem a 8 = v.toNat % 256 ^ 8 := Memory.readN_of_bytes fun j hj => by
    rw [State.writeWord, State.writeN, Memory.read_writeN _ _ _ _ _ canonical, if_pos (by omega), Nat.add_sub_cancel_left]
  apply BitVec.eq_of_toNat_eq
  rw [State.readWord_toNat, bytes]
  exact Nat.mod_eq_of_lt v.isLt

/-! ## An access to a word of memory (R148, R150) -/

/-- What a peer module adds to an access does not touch one to a word of this device. -/
theorem asPerformed_of_hasMeta {a : Access} (h : hasMeta a.pa = true) : a.asPerformed = a := by
  unfold Access.asPerformed
  obtain ⟨d, e⟩ | e | ⟨d, e⟩ | ⟨c, e⟩ | ⟨c, e⟩ | ⟨d, off, e, -⟩ := hasMeta_cases h <;> rw [e]
theorem peerReason_of_hasMeta {s : State} {a : Access} (h : hasMeta a.pa = true) : s.peerReason a = none := by
  unfold State.peerReason
  obtain ⟨d, e⟩ | e | ⟨d, e⟩ | ⟨c, e⟩ | ⟨c, e⟩ | ⟨d, off, e, -⟩ := hasMeta_cases h <;> rw [e]
theorem behindStore_of_hasMeta {s : State} {a : Access} (h : hasMeta a.pa = true) : s.behindStore a = false := by
  unfold State.behindStore
  obtain ⟨d, e⟩ | e | ⟨d, e⟩ | ⟨c, e⟩ | ⟨c, e⟩ | ⟨d, off, e, -⟩ := hasMeta_cases h <;> rw [e]
theorem takeSeq_of_hasMeta {s : State} {w : Nat} (h : hasMeta w = true) :
    s.takeSeq w = ((mget s.parkSeqs (bankOf w)).getD 0,
      { s with parkSeqs := mset s.parkSeqs (bankOf w) ((mget s.parkSeqs (bankOf w)).getD 0 + 1) }) := by
  unfold State.takeSeq
  obtain ⟨d, e⟩ | e | ⟨d, e⟩ | ⟨c, e⟩ | ⟨c, e⟩ | ⟨d, off, e, -⟩ := hasMeta_cases h <;> rw [e]
/-- The number of a waiter or a HOLD is its bank's next (R150). -/
theorem takeSeq_fst_of_hasMeta {s : State} {w : Nat} (h : hasMeta w = true) :
    (s.takeSeq w).1 = (mget s.parkSeqs (bankOf w)).getD 0 := by rw [takeSeq_of_hasMeta h]

/-! ## A word written -/

@[simp] theorem State.countWrite_mem (s : State) (w : Nat) : (s.countWrite w).mem = s.mem := by
  unfold State.countWrite
  split <;> rfl
/-- The bytes of a word after a store of some of them; of KVKICK the reserved bits stay 0 (R7, R327). -/
theorem busWrite_mem (s : State) {pa : Nat} (n v : Nat) (h : hasMeta pa = true) :
    (s.busWrite pa n v).mem = if isKick (wordOfAddr pa) then
      Memory.writeN s.mem (wordOfAddr pa) 8 (mergeWord (s.readWord (wordOfAddr pa)) pa n v &&& kickMask).toNat
    else Memory.writeN s.mem pa n v := by
  have same : (s.countWrite (wordOfAddr pa)).readWord (wordOfAddr pa) = s.readWord (wordOfAddr pa) := by
    rw [State.readWord, State.readWord, State.readN, State.readN, State.countWrite_mem]
  rw [State.busWrite, isStorage_of_hasMeta h, busWord_of_hasMeta _ h, same]
  split
  · rw [State.writeWord, State.writeN, State.countWrite_mem]
  · rw [if_pos rfl, State.writeN, State.countWrite_mem]
theorem noteKick_of_not_districtCtl {s : State} {a : Access} (h : ∀ d o, regionOf a.pa ≠ .districtCtl d o) : s.noteKick a = s := by
  unfold State.noteKick
  split
  · rename_i d off e
    exact absurd e (h d off)
  · rfl
@[simp] theorem noteKick_mem (s : State) (a : Access) : (s.noteKick a).mem = s.mem := by
  unfold State.noteKick
  split
  · split <;> rfl
  · rfl
@[simp] theorem noteKick_marks (s : State) (a : Access) : (s.noteKick a).marks = s.marks := by
  unfold State.noteKick
  split
  · split <;> rfl
  · rfl

/-- Only a word's bytes, F, X and HOLD, the note of a kick, the bank's numbers and the sum stores' counts differ. -/
def OnWord (s t : State) : Prop :=
  t = { s with
    mem := t.mem
    marks := t.marks
    districts := t.districts
    parkSeqs := t.parkSeqs
    sumWrites := t.sumWrites }
theorem OnWord.trans {s t u : State} (h : OnWord s t) (k : OnWord t u) : OnWord s u := by
  unfold OnWord at h k ⊢
  rw [h] at k
  exact k
theorem OnWord.waitersAt {s t : State} (h : OnWord s t) (w : Nat) : t.waitersAt w = s.waitersAt w := by
  unfold OnWord at h
  rw [h]
  rfl
theorem onWord_setMeta (s : State) (w : Nat) (m : Meta) : OnWord s (s.setMeta w m) := rfl
theorem onWord_takeSeq {s : State} {w : Nat} (h : hasMeta w = true) : OnWord s (s.takeSeq w).2 := by
  rw [takeSeq_of_hasMeta h]
  rfl
theorem onWord_noteKick (s : State) (a : Access) : OnWord s (s.noteKick a) := by
  unfold State.noteKick
  split
  · split <;> rfl
  · rfl
theorem onWord_countWrite (s : State) (w : Nat) : OnWord s (s.countWrite w) := by
  unfold State.countWrite
  split <;> rfl
theorem onWord_busWrite (s : State) (pa n v : Nat) : OnWord s (s.busWrite pa n v) := by
  refine (onWord_countWrite s (wordOfAddr pa)).trans ?_
  unfold State.busWrite
  dsimp only
  split
  · rfl
  · split <;> rfl

/-- What an access leaves of the state when it performs: the bytes it stores, or none; its word's state; and, of the districts,
the note of a kick alone. -/
structure Performed (s u : State) (a : Access) (stores : Bool) (after : Meta) : Prop where
  frame : OnWord s u
  bytes : u.mem = if stores then (s.busWrite a.pa a.size a.data.toNat).mem else s.mem
  here : u.wordMeta (wordOfAddr a.pa) = after
  others : ∀ x, x ≠ wordOfAddr a.pa → u.wordMeta x = s.wordMeta x
  unnoted : (∀ d o, regionOf a.pa ≠ .districtCtl d o) → u.districts = s.districts
theorem performed_nothing (s : State) (a : Access) : Performed s s a false (s.wordMeta (wordOfAddr a.pa)) :=
  ⟨rfl, rfl, rfl, fun _ _ => rfl, fun _ => rfl⟩
theorem performed_setMeta (s : State) (a : Access) (m : Meta) : Performed s (s.setMeta (wordOfAddr a.pa) m) a false m where
  frame := onWord_setMeta ..
  bytes := rfl
  here := by rw [State.wordMeta_setMeta, if_pos rfl]
  others x h := by rw [State.wordMeta_setMeta, if_neg (Ne.symm h)]
  unnoted _ := rfl
theorem performed_hold (s : State) {a : Access} (m : Meta) (h : hasMeta (wordOfAddr a.pa) = true) :
    Performed s ((s.takeSeq (wordOfAddr a.pa)).2.setMeta (wordOfAddr a.pa) m) a false m := by
  rw [takeSeq_of_hasMeta h]
  exact ⟨rfl, rfl, (performed_setMeta _ a m).here, (performed_setMeta _ a m).others, fun _ => rfl⟩
theorem busWrite_marks (s : State) (pa n v : Nat) : (s.busWrite pa n v).marks = s.marks := by
  unfold State.busWrite State.countWrite
  dsimp only
  split <;> split <;> (try split) <;> rfl
theorem busWrite_districts (s : State) (pa n v : Nat) : (s.busWrite pa n v).districts = s.districts := by
  unfold State.busWrite State.countWrite
  dsimp only
  split <;> split <;> (try split) <;> rfl
/-- A store, from a state that differs from the first in the note of a kick at most. -/
theorem performed_store {s t : State} {a : Access} (m : Meta) (h : hasMeta a.pa = true) (frame : OnWord s t) (mem : t.mem = s.mem)
    (marks : t.marks = s.marks) (unnoted : (∀ d o, regionOf a.pa ≠ .districtCtl d o) → t.districts = s.districts) :
    Performed s ((t.busWrite a.pa a.size a.data.toNat).setMeta (wordOfAddr a.pa) m) a true m where
  frame := frame.trans ((onWord_busWrite ..).trans (onWord_setMeta ..))
  bytes := by
    change (t.busWrite a.pa a.size a.data.toNat).mem = _
    rw [if_pos rfl, busWrite_mem _ _ _ h, busWrite_mem _ _ _ h, State.readWord, State.readWord, State.readN, State.readN, mem]
  here := (performed_setMeta _ a m).here
  others x hx := by
    rw [(performed_setMeta _ a m).others x hx, State.wordMeta, State.wordMeta, busWrite_marks, marks]
  unnoted hd := (busWrite_districts ..).trans (unnoted hd)
theorem performed_noted (s : State) {a : Access} (m : Meta) (h : hasMeta a.pa = true) :
    Performed s (((s.noteKick a).busWrite a.pa a.size a.data.toNat).setMeta (wordOfAddr a.pa) m) a true m :=
  performed_store m h (onWord_noteKick s a) (noteKick_mem s a) (noteKick_marks s a)
    fun hd => congrArg State.districts (noteKick_of_not_districtCtl hd)

/-- Whether a form stores its data; SCH does from the holder alone (R148, R184). -/
def Form.storesWhen (mine : Bool) : Form → Bool
  | .st | .stf | .ste | .copy _ _ => true
  | .sch => mine
  | .ld | .ldw | .ldc | .lrw | .rcan | .fest _ | .feq => false
/-- A word's state after a form performs (R148, R164, R177, R184). -/
def State.afterForm (s : State) (a : Access) : Meta :=
  let w := wordOfAddr a.pa
  let m := s.wordMeta w
  let mine := decide (m.hold = some a.who)
  match a.form with
  | .ld | .ldw | .feq => m
  | .st => { m with poison := if a.size = 8 then a.poison else m.poison || a.poison }
  | .copy mode full => copyMeta mode (decide (a.size = 8)) m full a.poison
  | .ldc => { m with full := false }
  | .stf => ⟨true, a.poison, none, none, 0⟩
  | .ste => { m with poison := a.poison }
  | .lrw => { m with
      full := false
      hold := some a.who
      holdRec := none
      holdSeq := (mget s.parkSeqs (bankOf w)).getD 0 }
  | .sch => if mine then ⟨true, a.poison, none, none, 0⟩ else m
  | .rcan => if mine then { m with full := true, hold := none, holdRec := none, holdSeq := 0 } else m
  | .fest f => { m with full := f, hold := none, holdRec := none, holdSeq := 0 }
/-- A form's answer (R148, R184). -/
def State.answerOf (s : State) (a : Access) : Reply :=
  let m := s.wordMeta (wordOfAddr a.pa)
  match a.form with
  | .ld | .ldw | .ldc | .lrw => .value (BitVec.ofNat 64 (s.readN a.pa a.size)) m.poison
  | .st | .stf | .ste | .copy _ _ | .rcan | .fest _ => .done
  | .sch => .status (if decide (m.hold = some a.who) then 0 else 1)
  | .feq => .value (if m.full then 1 else 0) false

theorem apply_performed {s : State} {a : Access} (h : hasMeta a.pa = true)
    (whole : a.form = .stf ∨ a.form = .ste ∨ a.form = .sch → a.size = 8) :
    Performed s (s.apply a).1 a (a.form.storesWhen (decide ((s.wordMeta (wordOfAddr a.pa)).hold = some a.who))) (s.afterForm a) := by
  unfold State.apply State.afterForm Form.storesWhen
  dsimp only
  cases form : a.form <;> dsimp only
  case ld | ldw | feq => exact performed_nothing s a
  case ldc | fest => exact performed_setMeta ..
  case st => exact performed_noted s _ h
  case copy mode full =>
    rw [hasMeta_wordOfAddr, if_pos h]
    exact performed_noted s _ h
  case stf | ste =>
    rw [← whole (by simp [form])]
    exact performed_noted s _ h
  case lrw =>
    rw [← takeSeq_fst_of_hasMeta (s := s) ((hasMeta_wordOfAddr a.pa).trans h)]
    exact performed_hold s _ ((hasMeta_wordOfAddr a.pa).trans h)
  case sch =>
    rw [← whole (by simp [form])]
    split
    · rename_i mine
      rw [mine]
      exact performed_store _ h rfl rfl rfl fun _ => rfl
    · rename_i mine
      rw [Bool.not_eq_true] at mine
      rw [mine]
      exact performed_nothing s a
  case rcan =>
    split
    · exact performed_setMeta ..
    · exact performed_nothing s a
theorem apply_answerOf {s : State} {a : Access} (h : hasMeta a.pa = true) (inside : a.pa % 8 + a.size ≤ 8) :
    (s.apply a).2 = s.answerOf a := by
  unfold State.apply State.answerOf
  dsimp only
  rw [busRead_of_hasMeta s h inside]
  cases a.form with
  | feq => cases (s.wordMeta (wordOfAddr a.pa)).full <;> rfl
  | sch => exact apply_ite Prod.snd .. |>.trans (apply_ite Reply.status ..).symm
  | ld | ldw | ldc | lrw | st | stf | ste | copy | rcan | fest => rfl

/-! ## The parking table (R150, R153) -/

theorem length_filter_mdel_le {α : Type} (p : Nat × α → Bool) (l : List (Nat × α)) (k : Nat) :
    ((mdel l k).filter p).length ≤ (l.filter p).length := by
  induction l with
  | nil => exact le_rfl
  | cons e r ih =>
    obtain ⟨j, v⟩ := e
    rw [mdel, List.filter_cons]
    split <;> split
    · exact ih.trans (Nat.le_succ _)
    · exact ih
    · rename_i hp
      rw [List.filter_cons_of_pos hp]
      exact Nat.succ_le_succ ih
    · rename_i hp
      rwa [List.filter_cons_of_neg hp]
theorem length_filter_cons_le {α : Type} (p : α → Bool) (e : α) (l : List α) :
    ((e :: l).filter p).length ≤ (l.filter p).length + 1 := by
  rw [List.filter_cons]
  split
  · exact le_rfl
  · exact Nat.le_succ _
theorem length_filter_mset_le {α : Type} (p : Nat × α → Bool) (l : List (Nat × α)) (k : Nat) (a : α) :
    ((mset l k a).filter p).length ≤ (l.filter p).length + 1 := by
  induction l with
  | nil => exact length_filter_cons_le p _ []
  | cons e r ih =>
    obtain ⟨j, v⟩ := e
    have tail : (r.filter p).length ≤ (((j, v) :: r).filter p).length := ((List.sublist_cons_self _ r).filter p).length_le
    rw [mset]
    split
    · exact length_filter_cons_le ..
    · split
      · exact (length_filter_cons_le ..).trans (Nat.succ_le_succ tail)
      · rw [List.filter_cons, List.filter_cons]
        split
        · exact Nat.succ_le_succ ih
        · exact ih
/-- A word's new state takes one entry of its bank's table at most. -/
theorem tableUsed_setMeta_le (s : State) (w bank : Nat) (m : Meta) : (s.setMeta w m).tableUsed bank ≤ s.tableUsed bank + 1 := by
  unfold State.tableUsed
  rw [Nat.add_assoc]
  refine Nat.add_le_add_left ?_ _
  rw [State.setMeta, mput]
  split
  · exact (length_filter_mdel_le ..).trans (Nat.le_succ _)
  · exact length_filter_mset_le ..
/-- With an entry of its bank's table free, a HOLD goes there (R150, R153). -/
theorem roomAt_hold_of_lt {s : State} {w : Nat} (free : s.tableUsed (bankOf w) < 16) : s.roomAt w true = .table := by
  unfold State.roomAt
  rw [decide_eq_true free]
  split <;> rfl
theorem placeHold_of_le {s : State} {w : Nat} (room : s.tableUsed (bankOf w) ≤ 16) : s.placeHold w = s := by
  unfold State.placeHold
  dsimp only
  rw [decide_eq_false (show ¬ 16 < s.tableUsed (bankOf w) by omega), Bool.and_false]
  rfl
theorem afterHold_of_none {s : State} {w : Nat} {m : Meta} (h : m.holdRec = none) : s.afterHold w m = s := by
  rw [State.afterHold, h]

/-! ## An access performs (R141, R148) -/

/-- A form that finds no vigil record to free and a place for its HOLD has its effect and nothing more. -/
theorem effect_of_no_record {s : State} {a : Access} (h : hasMeta a.pa = true) (free : (s.wordMeta (wordOfAddr a.pa)).holdRec = none)
    (room : a.form = .lrw → s.tableUsed (bankOf (wordOfAddr a.pa)) < 16) : s.effect a = s.apply a := by
  unfold State.effect
  dsimp only
  rw [afterHold_of_none free]
  split
  · rename_i form
    rw [placeHold_of_le]
    have taken : s.apply a = ((s.takeSeq (wordOfAddr a.pa)).2.setMeta (wordOfAddr a.pa) (s.afterForm a),
        .value (BitVec.ofNat 64 (s.busRead a.pa a.size)) (s.wordMeta (wordOfAddr a.pa)).poison) := by
      rw [State.apply, State.afterForm, form, ← takeSeq_fst_of_hasMeta (s := s) ((hasMeta_wordOfAddr a.pa).trans h)]
    rw [taken]
    refine (tableUsed_setMeta_le ..).trans ?_
    rw [takeSeq_of_hasMeta ((hasMeta_wordOfAddr a.pa).trans h)]
    exact room form
  · rfl
theorem performOnce_of_no_record {s : State} {a : Access} (h : hasMeta a.pa = true)
    (free : (s.wordMeta (wordOfAddr a.pa)).holdRec = none)
    (room : a.form = .lrw → s.tableUsed (bankOf (wordOfAddr a.pa)) < 16) :
    s.performOnce a = (s.apply a).1.answer a (s.apply a).2 := by
  rw [State.performOnce, effect_of_no_record h free room]

/-- Without waiters there is nothing to serve (R151). -/
theorem feserve_of_no_waiters {s : State} {w : Nat} (h : s.waitersAt w = []) : s.feserve w = s := by
  unfold State.feserve
  rw [h]
  simp [serveLoop, h, servePass, wakeSpilled]
@[simp] theorem State.answer_waitersAt (s : State) (a : Access) (r : Reply) (w : Nat) : (s.answer a r).waitersAt w = s.waitersAt w := by
  unfold State.answer
  split
  · rfl
  · split
    · dsimp only
      split <;> rfl
    · rfl
    · rfl
theorem perform_of_holds {s : State} {a : Access} (h : hasMeta a.pa = true) (ready : holds a.form (s.wordMeta (wordOfAddr a.pa)) = true)
    (room : s.tableUsed (bankOf (wordOfAddr a.pa)) < 16) :
    s.perform a = if serves a.form (s.wordMeta (wordOfAddr a.pa)) ((s.performOnce a).wordMeta (wordOfAddr a.pa)) then
      (s.performOnce a).feserve (wordOfAddr a.pa) else s.performOnce a := by
  unfold State.perform
  rw [asPerformed_of_hasMeta h, peerReason_of_hasMeta h]
  dsimp only
  rw [ready, roomAt_hold_of_lt room]
  simp
/-- An access to a word that nothing waits for. -/
theorem perform_of_no_waiters {s : State} {a : Access} (h : hasMeta a.pa = true)
    (whole : a.form = .stf ∨ a.form = .ste ∨ a.form = .sch → a.size = 8)
    (ready : holds a.form (s.wordMeta (wordOfAddr a.pa)) = true) (free : (s.wordMeta (wordOfAddr a.pa)).holdRec = none)
    (room : s.tableUsed (bankOf (wordOfAddr a.pa)) < 16) (idle : s.waitersAt (wordOfAddr a.pa) = []) :
    s.perform a = (s.apply a).1.answer a (s.apply a).2 := by
  have once := performOnce_of_no_record h free fun _ => room
  have still : (s.performOnce a).waitersAt (wordOfAddr a.pa) = [] := by
    rw [once, State.answer_waitersAt, (apply_performed h whole).frame.waitersAt, idle]
  rw [perform_of_holds h ready room, feserve_of_no_waiters still, ite_self, once]
/-- An access that no fence refuses and no error meets reaches its bank and performs or parks there. -/
theorem execBankAccessArrival_perform {s : State} {id : Nat} {a : Access} (sent : s.msg? id = some (.access a))
    (open' : s.wayBlocked a.pa = none) (h : hasMeta a.pa = true) (sound : mget s.wordErrors (wordOfAddr a.pa) = none) :
    exec (.bankAccessArrival id) s = .next ((s.take id).perform a) := by
  have clean : (s.take id).wordError (wordOfAddr a.pa) a.who.word = s.take id := State.wordError_none sound
  change execBankAccessArrival id s = _
  rw [execBankAccessArrival, sent]
  dsimp only
  rw [open', behindStore_of_hasMeta h, clean]
  rfl

/-! ## The bytes after an access (R3, R148, R327) -/

/-- An access to a word of memory writes its own bytes and no other. -/
theorem Performed.read {s u : State} {a : Access} {stores : Bool} {after : Meta} (p : Performed s u a stores after)
    (h : hasMeta a.pa = true) (canonical : s.memoryCanonical) (kick : isKick (wordOfAddr a.pa) = false) (x : Nat) :
    Memory.read u.mem x = if stores = true ∧ a.pa ≤ x ∧ x < a.pa + a.size then
      BitVec.ofNat 8 (a.data.toNat / 256 ^ (x - a.pa)) else Memory.read s.mem x := by
  rw [p.bytes]
  cases stores with
  | false => simp
  | true => simp [busWrite_mem s a.size a.data.toNat h, kick, Memory.read_writeN _ _ _ _ _ canonical]
/-- An access to KVKICK writes that word alone, and of its bits those that are not reserved. -/
theorem Performed.read_kick {s u : State} {a : Access} {stores : Bool} {after : Meta} (p : Performed s u a stores after)
    (h : hasMeta a.pa = true) (canonical : s.memoryCanonical) (kick : isKick (wordOfAddr a.pa) = true) :
    (∀ x, x < wordOfAddr a.pa ∨ wordOfAddr a.pa + 8 ≤ x → Memory.read u.mem x = Memory.read s.mem x) ∧
      u.readWord (wordOfAddr a.pa) = if stores then
        setFld (s.readWord (wordOfAddr a.pa)) (a.pa % 8 * 8) (8 * a.size) a.data.toNat &&& 0x3FFFE0#64
      else s.readWord (wordOfAddr a.pa) := by
  cases stores with
  | false =>
    have same : u.mem = s.mem := p.bytes
    exact ⟨fun x _ => by rw [same], by rw [State.readWord, State.readN, same]; rfl⟩
  | true =>
    have written : u.mem = (s.writeWord (wordOfAddr a.pa)
        (mergeWord (s.readWord (wordOfAddr a.pa)) a.pa a.size a.data.toNat &&& kickMask)).mem := by
      rw [p.bytes, if_pos rfl, busWrite_mem s _ _ h, if_pos kick]
      rfl
    refine ⟨fun x outside => ?_, ?_⟩
    · rw [written, State.writeWord, State.writeN, Memory.read_writeN _ _ _ _ _ canonical, if_neg (by omega)]
    · rw [State.readWord, State.readN, written]
      exact State.readWord_writeWord canonical ..

/-- Settles O22: a form that proceeds has the effect and the answer that its row says, and nobody is served. -/
theorem accessForms : Obligations.AccessForms := by
  unfold Obligations.AccessForms
  intro s id a sent canonical open' h inside aligned sound idle room w m mine freed whole value row stores after reply ready free
  have size : a.form = .stf ∨ a.form = .ste ∨ a.form = .sch → a.size = 8 := by
    rintro (form | form | form) <;> exact aligned (by simp [form]) (by simp [form]) (by simp [form])
  have entry : row = (holds a.form m, a.form.storesWhen mine, s.afterForm a, s.answerOf a) := by
    unfold State.afterForm State.answerOf
    cases form : a.form with
    | st => simp only [row, form, holds, Form.storesWhen, whole, decide_eq_true_eq]; rfl
    | ld | ldw | ldc | stf | ste | lrw | fest | feq | copy | rcan | sch => simp only [row, form]; rfl
  have proceeds : holds a.form m = true := by rw [← ready, entry]
  have done : stores = a.form.storesWhen mine ∧ after = s.afterForm a ∧ reply = s.answerOf a := by
    simp only [stores, after, reply, entry, and_self]
  obtain ⟨hs, ha, hr⟩ := done
  rw [hs, ha, hr]
  have p := apply_performed (s := s.take id) h size
  refine ⟨((s.take id).apply a).1, ?_, p.frame, p.read h canonical, p.read_kick h canonical, p.here, p.others, p.unnoted⟩
  rw [execBankAccessArrival_perform sent open' h sound, perform_of_no_waiters (s := s.take id) h size proceeds free room idle,
    apply_answerOf (s := s.take id) h inside]
  rfl

/-! ## Parking (R150, R156) -/

/-- A thread changed by its name keeps its name when its generation stays. -/
theorem State.named_modNamed_self {s : State} {n : TName} {th : Thread} (f : Thread → Thread) (live : s.named n = some th)
    (gen : (f th).gen = th.gen) : (s.modNamed n f).named n = some (f th) := by
  obtain ⟨-, same⟩ := State.thread_of_named live
  rw [State.modNamed, live]
  simp only [State.named, State.thread_setThread, if_true, gen, same]
@[simp] theorem Thread.modHead_waitbud (th : Thread) (f : Pending → Pending) : (th.modHead f).waitbud = th.waitbud := by
  unfold Thread.modHead
  split <;> rfl
@[simp] theorem Thread.modHead_regs (th : Thread) (f : Pending → Pending) : (th.modHead f).regs = th.regs := by
  unfold Thread.modHead
  split <;> rfl
@[simp] theorem Thread.modHead_gen (th : Thread) (f : Pending → Pending) : (th.modHead f).gen = th.gen := by
  unfold Thread.modHead
  split <;> rfl

/-- Only the issuers, whose budgets and phases a park changes, differ. -/
def OnIssuers (s t : State) : Prop :=
  t = { s with
    threads := t.threads
    clusters := t.clusters
    districts := t.districts
    cwords := t.cwords
    chandler := t.chandler
    host := t.host
    ports := t.ports }
theorem onIssuers_modNamed (s : State) (n : TName) (f : Thread → Thread) : OnIssuers s (s.modNamed n f) := by
  unfold State.modNamed
  split <;> rfl
theorem onIssuers_spendBudget (s : State) (w : Who) : OnIssuers s (s.spendBudget w) := by
  unfold State.spendBudget
  split
  · exact onIssuers_modNamed ..
  · split
    · split <;> rfl
    · split
      · rfl
      · split <;> rfl
  · split <;> rfl
  all_goals rfl

/-- What a re-park pays, where an access joins its word's waiters, and that its thread's instruction is then parked. -/
def State.paid (s : State) (a : Access) : State := if a.repark then s.spendBudget a.who else s
def State.joins (s : State) (a : Access) : State :=
  let (n, t) := s.takeSeq (wordOfAddr a.pa)
  t.setWaiters (wordOfAddr a.pa) (t.waitersAt (wordOfAddr a.pa) ++ [⟨a, n, none⟩])
def State.headParked (s : State) (a : Access) : State :=
  match a.who with
  | .thread t =>
    if a.posted || decide (a.ord = .rx) then s
    else s.modNamed t (fun th => th.modHead (fun p => { p with phase := .parked }))
  | _ => s
theorem onIssuers_paid (s : State) (a : Access) : OnIssuers s (s.paid a) := by
  unfold State.paid
  split
  · exact onIssuers_spendBudget ..
  · rfl
theorem onIssuers_headParked (s : State) (a : Access) : OnIssuers s (s.headParked a) := by
  unfold State.headParked
  split
  · split
    · rfl
    · exact onIssuers_modNamed ..
  · rfl
theorem park_of_table {s : State} {a : Access} (affords : a.repark = false ∨ s.budgetOf a.who ≠ 0)
    (room : s.roomAt (wordOfAddr a.pa) false = .table) : s.park a = ((s.paid a).joins a).headParked a := by
  have pays : (a.repark && decide (s.budgetOf a.who = 0)) = false := by
    rcases affords with once | left
    · rw [once, Bool.false_and]
    · rw [decide_eq_false left, Bool.and_false]
  unfold State.park
  dsimp only
  rw [pays, room]
  rfl
/-- A woken access whose issuer has no budget left faults instead (R156). -/
theorem park_of_no_budget {s : State} {a : Access} (again : a.repark = true) (spent : s.budgetOf a.who = 0) :
    s.park a = s.refuseAt a 0x28 := by
  unfold State.park
  rw [again, decide_eq_true spent]
  rfl
theorem perform_of_not_holds {s : State} {a : Access} (h : hasMeta a.pa = true)
    (waits : holds a.form (s.wordMeta (wordOfAddr a.pa)) = false) : s.perform a = s.park a := by
  unfold State.perform
  rw [asPerformed_of_hasMeta h, peerReason_of_hasMeta h]
  dsimp only
  rw [waits]
  rfl

/-- A thread whose access parks keeps its registers, and its budget but for what a re-park pays. -/
theorem named_paid {s : State} {a : Access} {n : TName} {th : Thread} (issuer : a.who = .thread n) (live : s.named n = some th) :
    ∃ th', (s.paid a).named n = some th' ∧ th'.waitbud = (if a.repark then th.waitbud - 1 else th.waitbud) ∧ th'.regs = th.regs := by
  rw [State.paid, issuer]
  split
  · exact ⟨_, State.named_modNamed_self _ live rfl, rfl, rfl⟩
  · exact ⟨th, live, rfl, rfl⟩
theorem named_joins (s : State) {a : Access} (n : TName) (h : hasMeta a.pa = true) : (s.joins a).named n = s.named n := by
  rw [State.joins, takeSeq_of_hasMeta ((hasMeta_wordOfAddr a.pa).trans h)]
  rfl
theorem named_headParked {s : State} {a : Access} {n : TName} {th : Thread} (issuer : a.who = .thread n) (live : s.named n = some th) :
    ∃ th', (s.headParked a).named n = some th' ∧ th'.waitbud = th.waitbud ∧ th'.regs = th.regs := by
  rw [State.headParked, issuer]
  dsimp only
  split
  · exact ⟨th, live, rfl, rfl⟩
  · exact ⟨_, State.named_modNamed_self _ live (Thread.modHead_gen ..), Thread.modHead_waitbud .., Thread.modHead_regs ..⟩

/-- An access that joins stands behind its word's waiters, with its bank's next number, and nothing else of a bank changes. -/
theorem park_joins {s u : State} {a : Access} (h : hasMeta a.pa = true) (park : u = ((s.paid a).joins a).headParked a) :
    u.waitersAt (wordOfAddr a.pa) = s.waitersAt (wordOfAddr a.pa) ++
        [⟨a, (mget s.parkSeqs (bankOf (wordOfAddr a.pa))).getD 0, none⟩] ∧
      mget u.parkSeqs (bankOf (wordOfAddr a.pa)) = some ((mget s.parkSeqs (bankOf (wordOfAddr a.pa))).getD 0 + 1) ∧
      (∀ x, x ≠ wordOfAddr a.pa → u.waitersAt x = s.waitersAt x) ∧ u.mem = s.mem ∧ u.marks = s.marks ∧ u.flight = s.flight := by
  have paid := onIssuers_paid s a
  have parked := onIssuers_headParked ((s.paid a).joins a) a
  rw [← park] at parked
  unfold OnIssuers at paid parked
  have seqs : (s.paid a).parkSeqs = s.parkSeqs := by rw [paid]
  have waits (x : Nat) : (s.paid a).waitersAt x = s.waitersAt x := by rw [State.waitersAt, State.waitersAt, paid]
  have joined : (s.paid a).joins a = { s.paid a with
      parkSeqs := mset s.parkSeqs (bankOf (wordOfAddr a.pa)) ((mget s.parkSeqs (bankOf (wordOfAddr a.pa))).getD 0 + 1)
      waiters := mput [] (s.paid a).waiters (wordOfAddr a.pa) (s.waitersAt (wordOfAddr a.pa) ++
        [⟨a, (mget s.parkSeqs (bankOf (wordOfAddr a.pa))).getD 0, none⟩]) } := by
    rw [State.joins, takeSeq_of_hasMeta ((hasMeta_wordOfAddr a.pa).trans h), seqs, ← waits]
    rfl
  have at' (x : Nat) : u.waitersAt x = if wordOfAddr a.pa = x then s.waitersAt (wordOfAddr a.pa) ++
      [⟨a, (mget s.parkSeqs (bankOf (wordOfAddr a.pa))).getD 0, none⟩] else s.waitersAt x := by
    have same : u.waitersAt x = ((s.paid a).joins a).waitersAt x := by rw [State.waitersAt, parked]; rfl
    rw [same, joined, ← waits x]
    exact State.waitersAt_setWaiters ..
  have seqs' : u.parkSeqs = ((s.paid a).joins a).parkSeqs := by rw [parked]
  have mem : u.mem = ((s.paid a).joins a).mem := by rw [parked]
  have marks : u.marks = ((s.paid a).joins a).marks := by rw [parked]
  have flight : u.flight = ((s.paid a).joins a).flight := by rw [parked]
  refine ⟨by rw [at', if_pos rfl], ?_, fun x hx => by rw [at', if_neg (Ne.symm hx)], ?_, ?_, ?_⟩
  · rw [seqs', joined]
    exact mget_mset_self ..
  · rw [mem, joined, paid]
  · rw [marks, joined, paid]
  · rw [flight, joined, paid]

/-- Settles O23: an access that must wait joins its word's waiters when its issuer can pay, and is refused when it cannot. -/
theorem parkingAndBudgets : Obligations.ParkingAndBudgets := by
  unfold Obligations.ParkingAndBudgets
  intro s id a sent open' h form waits sound w s0 number
  have performs : exec (.bankAccessArrival id) s = .next (s0.park a) :=
    (execBankAccessArrival_perform sent open' h sound).trans
      (congrArg Host.Outcome.next (perform_of_not_holds (s := s0) h waits))
  refine ⟨fun again spent => ?_, fun affords room => ?_⟩
  · have arrives : execWaitBudgetExhausted id s = execBankAccessArrival id s := by
      rw [execWaitBudgetExhausted, sent]
      dsimp only
      rw [asPerformed_of_hasMeta h, again, waits, decide_eq_true spent]
      rfl
    change execWaitBudgetExhausted id s = _
    rw [arrives]
    exact performs.trans (congrArg Host.Outcome.next (park_of_no_budget (s := s0) again spent))
  · have parks := park_of_table (s := s0) (a := a) affords room
    obtain ⟨last, seq, others, mem, marks, flight⟩ := park_joins h parks
    refine ⟨s0.park a, performs, last, seq, others, mem, marks, flight, fun n th issuer live => ?_⟩
    obtain ⟨th1, live1, budget1, regs1⟩ := named_paid (s := s0) issuer live
    obtain ⟨th2, live2, budget2, regs2⟩ := named_headParked issuer ((named_joins (s0.paid a) n h).trans live1)
    exact ⟨th2, parks ▸ live2, budget2.trans budget1, regs2.trans regs1⟩

/-! ## Serving when the map of waiters is not in order (R150, R153) -/

/-- The first word of core 0's own memory, and an access of a form to it. -/
def firstWord : Nat := 0xF000000800000
def firstAccess (f : Form) : Access :=
  ⟨f, BitVec.ofNat 64 firstWord, firstWord, 8, 0, .thread ⟨0, 0, 0⟩, .sc, .system, false, false, true, 0, 0, false, 0⟩
/-- Fifteen readers of that word, and the LRW they stand behind: with it they fill their bank's table. -/
def behindLrw : List Waiter := (List.range 15).map (fun i => ⟨firstAccess .ldw, i + 1, none⟩)
def firstLrw : Waiter := ⟨firstAccess .lrw, 0, none⟩
/-- A state whose map of waiters names the next word before that one: setting the first word adds an entry before both and leaves
the old one, so that the table counts its waiters twice. District 0 has a vigil area of 8 records at address 0x100000. -/
def crowded : State :=
  { State.reset.modDistrict 0 (fun d => { d with vigctl := 0x100000008#64 }) with
    waiters := [(firstWord + 8, []), (firstWord, firstLrw :: behindLrw)] }

/-- The LRW takes the word, and its HOLD finds the table full and goes to the first vigil record. -/
theorem crowded_feserve : (crowded.feserve firstWord).wordMeta firstWord = ⟨false, false, some (.thread ⟨0, 0, 0⟩), some 0, 0⟩ := by
  decide +kernel

/-- Refutes O24: nothing there asks that the map of waiters be in order. In `crowded` it is not, and serving the LRW leaves its
waiters counted twice, so that its HOLD goes to a vigil record where the statement says it stays in the table. -/
theorem not_waitersServedInOrder : ¬ Obligations.WaitersServedInOrder := by
  unfold Obligations.WaitersServedInOrder
  intro h
  obtain ⟨-, served⟩ := h crowded firstWord behindLrw (by decide) (by decide) (by decide) (by decide) (by decide)
  obtain ⟨byLrw, -⟩ := served [] firstLrw (by decide) (by decide) (by decide) (by decide) (by decide) (by decide)
  obtain ⟨-, -, -, state⟩ := byLrw (by decide) (by decide) (by decide +kernel) (by decide)
  rw [crowded_feserve] at state
  exact absurd state (by decide)

/-! ## Stores to registers (R65, R66, R154) -/

theorem bits_and (x y lo n : Nat) : bits (x &&& y) lo n = bits x lo n &&& bits y lo n := by
  rw [bits, Nat.and_div_two_pow, Nat.and_mod_two_pow]
  rfl
/-- A field that a mask keeps whole. -/
theorem fld_and_of_kept {v m : Word} {hi lo : Nat} (kept : fld m hi lo = 2 ^ (hi + 1 - lo) - 1) : fld (v &&& m) hi lo = fld v hi lo := by
  unfold fld at *
  rw [BitVec.toNat_and, bits_and, kept, Nat.and_two_pow_sub_one_eq_mod, bits, Nat.mod_mod]
theorem bit_eq_fld (w : Word) (n : Nat) : bit w n = (fld w n n == 1) := by
  rw [bit, fld, bits, Nat.add_sub_cancel_left, Nat.pow_one]
theorem Rm.ofCode_isNone {n : Nat} : (Rm.ofCode n).isNone = decide (4 < n) := by
  match n with
  | 0 | 1 | 2 | 3 | 4 => rfl
  | n + 5 => exact (decide_eq_true (by omega)).symm

/-- Whether SEGFMT refuses a value: an unassigned format or rounding, or scaling of a format without it (R65). -/
def segRefuses (v : Word) : Bool :=
  decide (9 < segFmt v) || (Rm.ofCode (fld v 11 9)).isNone || (segScl v && !(segFmt v == 1 || segFmt v == 2 || segFmt v == 3))
theorem segRefuses_masked {v : Word} (fmt : fld v 15 12 ≤ 9) (rounding : fld v 11 9 ≤ 4)
    (scaled : bit v 8 = true → fld v 15 12 = 1 ∨ fld v 15 12 = 2 ∨ fld v 15 12 = 3) : segRefuses (v &&& segMask) = false := by
  have sameFmt : fld (v &&& segMask) 15 12 = fld v 15 12 := fld_and_of_kept (by decide)
  have sameRnd : fld (v &&& segMask) 11 9 = fld v 11 9 := fld_and_of_kept (by decide)
  have sameScl : bit (v &&& segMask) 8 = bit v 8 := by
    rw [bit_eq_fld, bit_eq_fld, fld_and_of_kept (by decide)]
  rw [segRefuses, segFmt, segScl, sameFmt, sameRnd, sameScl, Rm.ofCode_isNone, decide_eq_false (by omega), decide_eq_false (by omega)]
  cases scl : bit v 8 with
  | false => rfl
  | true => rcases scaled scl with e | e | e <;> simp [e]

/-- The bus reads SEGFMTn at its place in the cluster's window. -/
theorem busWord_segfmt (s : State) {w c n : Nat} (region : regionOf w = .clusterCtl c (8 * n)) (low : n < 16) :
    s.busWord w = (s.cluster c).segfmt.toList.getD n 0 := by
  rw [State.busWord, region]
  dsimp only
  rw [if_pos (by omega), Nat.mul_div_cancel_left _ (by omega)]
theorem segStored_eq (s : State) {a : Access} {c n : Nat} (region : regionOf (wordOfAddr a.pa) = .clusterCtl c (8 * n)) (low : n < 16) :
    segStored s a = setFld ((s.cluster c).segfmt.toList.getD n 0) (a.pa % 8 * 8) (8 * a.size) a.data.toNat := by
  rw [segStored, mergeWord, busWord_segfmt s region low]

section Registers
variable {s : State} {id : Nat} {a : Access} {d c off : Nat}

theorem execVigctlWrite_fenced (sent : s.msg? id = some (.vigctl a)) (region : regionOf a.pa = .districtCtl d off)
    (fenced : s.addrFenced a.pa = true) : execVigctlWrite id s = .next ((s.take id).refuseAt a 0x29) := by
  have fenced' : (s.take id).addrFenced a.pa = true := fenced
  rw [execVigctlWrite, sent]
  dsimp only
  rw [region]
  dsimp only
  rw [fenced', if_pos rfl]
theorem execVigctlWrite_open (sent : s.msg? id = some (.vigctl a)) (region : regionOf a.pa = .districtCtl d off)
    (open' : s.addrFenced a.pa = false) :
    execVigctlWrite id s = if a.sup then
        .next (((s.take id).modDistrict d (fun k => if k.records.isEmpty then
          { k with vigctl := mergeWord (s.district d).vigctl a.pa a.size a.data.toNat } else k)).answer a .done)
      else .next ((s.take id).refuse a 0x12 0 a.va 0 0) := by
  have open'' : (s.take id).addrFenced a.pa = false := open'
  rw [execVigctlWrite, sent]
  dsimp only
  rw [region]
  dsimp only
  rw [open'']
  cases a.sup <;> rfl
theorem execVigstatPeakWrite_fenced (sent : s.msg? id = some (.vigstat a)) (region : regionOf a.pa = .districtCtl d off)
    (fenced : s.addrFenced a.pa = true) : execVigstatPeakWrite id s = .next ((s.take id).refuseAt a 0x29) := by
  rw [execVigstatPeakWrite, sent]
  dsimp only
  rw [region]
  dsimp only
  rw [fenced, if_pos rfl]
theorem execVigstatPeakWrite_open (sent : s.msg? id = some (.vigstat a)) (region : regionOf a.pa = .districtCtl d off)
    (open' : s.addrFenced a.pa = false) :
    execVigstatPeakWrite id s = .next (((s.take id).modDistrict d (fun k =>
      if fld (mergeWord 0 a.pa a.size a.data.toNat) 47 24 = 0 then k
      else { k with peak := BitVec.ofNat 24 k.records.length })).answer a .done) := by
  rw [execVigstatPeakWrite, sent]
  dsimp only
  rw [region]
  dsimp only
  rw [open']
  rfl
/-- The bytes stored to a word of host memory are all that a store to it changes (R376). -/
theorem busWrite_host {pa n v : Nat} (region : regionOf (wordOfAddr pa) = .host) : s.busWrite pa n v = s.writeN pa n v := by
  simp only [State.busWrite, State.countWrite, hasSum, isKick, isStorage, region, Bool.false_eq_true, if_false, if_true]
theorem execHostStoreCompletion_sent (sent : s.msg? id = some (.hostStore a)) :
    execHostStoreCompletion id s = .next (((s.take id).busWrite a.pa a.size a.data.toNat).answer a .done) := by
  rw [execHostStoreCompletion, sent]
theorem execSegfmtWrite_open (sent : s.msg? id = some (.segWrite a)) (region : regionOf a.pa = .clusterCtl c off)
    (open' : s.isFenced c = false) (taken : segRefuses (segStored s a &&& segMask) = false) :
    execSegfmtWrite id s = .next ((s.take id).modCluster c (fun k => { k with segWait := k.segWait ++ [⟨off / 8, a⟩] })) := by
  have open'' : (s.take id).isFenced c = false := open'
  rw [execSegfmtWrite, sent]
  dsimp only
  rw [region]
  dsimp only
  unfold segRefuses at taken
  rw [open'', taken]
  rfl
/-- The oldest waiting store of a window takes effect when no command names its segment. -/
theorem execSegfmtTakesEffect_first {n : Nat} (hn : n < 16) {x : SegStore} {rest : List SegStore} (unit : c < 2048)
    (waits : (s.cluster c).segWait = x :: rest) (seg : x.seg = n) (idle : s.segBusy c n = false) :
    execSegfmtTakesEffect c n s = .next ((s.modCluster c (fun k => { k with
      segWait := rest, segfmt := k.segfmt.set n (segStored s x.acc &&& segMask) })).answer x.acc .done) := by
  rw [execSegfmtTakesEffect, if_neg (by omega), waits, List.find?_cons_of_pos (by simp [seg])]
  simp only [idle, List.find?_cons_of_pos, decide_true, State.modCluster, waits, hn]
  simp

end Registers

/-- Settles O29: one lemma per register, at a fence, without one, and on its value. -/
theorem registerStores : Obligations.RegisterStores := by
  unfold Obligations.RegisterStores
  intro s id a d c off s0 written
  refine ⟨fun region fenced => ⟨fun sent => execVigctlWrite_fenced sent region fenced,
      fun sent => execVigstatPeakWrite_fenced sent region fenced⟩, fun sent region open' => ⟨fun sup => ?_, fun user => ?_⟩,
    fun sent region open' => ?_, fun sent region => ?_, fun sent region word low open' => ?_,
    fun n hn x rest unit waits seg idle word region => ?_⟩
  · refine (execVigctlWrite_open sent region open').trans ?_
    rw [if_pos sup]
    simp only [State.modDistrict, List.isEmpty_iff]
    rfl
  · refine (execVigctlWrite_open sent region open').trans ?_
    rw [user]
    rfl
  · exact execVigstatPeakWrite_open sent region open'
  · refine (execHostStoreCompletion_sent sent).trans ?_
    rw [busWrite_host region]
  · intro v fmt rounding scaled
    have stored : segStored s a = v := segStored_eq s (by rw [word, Nat.mul_comm]) (by omega)
    exact execSegfmtWrite_open sent region open' (by rw [stored]; exact segRefuses_masked fmt rounding scaled)
  · intro v
    have stored : segStored s x.acc = v := by
      rw [segStored_eq s (by rw [word, region]) hn]
      simp [v, hn]
    refine (execSegfmtTakesEffect_first hn unit waits seg idle).trans ?_
    rw [stored]
    rfl

/-! ## Page walks (R160, R161) -/

theorem touchFrom_sound {s : State} (sound : s.wordErrors = []) (va : Nat) (who : Word) (l : List (Nat × Nat)) (table : Nat) :
    touchFrom va who l table s = s := by
  have clean (w : Nat) : s.wordError w who = s := State.wordError_none (by rw [sound]; rfl)
  induction l generalizing table with
  | nil => rfl
  | cons x rest ih =>
    rw [touchFrom]
    dsimp only
    rw [clean, ih, ite_self, ite_self]
/-- Where no word errs a walk's reads change nothing (R409). -/
theorem touchWalk_sound {s : State} (sound : s.wordErrors = []) (space : Word) (va : Nat) (who : Word) :
    s.touchWalk space va who = s := by
  rw [State.touchWalk, touchFrom_sound sound, ite_self]
theorem Thread.rejoin_of_running {th : Thread} (stays : th.stopq = false) : th.rejoin = { th with run := .run } := by
  rw [Thread.rejoin, stays]
  rfl
/-- A message of an exception leaves memory. -/
theorem State.sendTrap_mem (s : State) (core slot : Nat) (gen : BitVec 12) (launch pc : Word) (took : Bool) (t : Trap) :
    (s.sendTrap core slot gen launch pc took t).mem = s.mem := by
  unfold State.sendTrap
  dsimp only
  split <;> rfl

/-- A core whose walk has ended. -/
def State.walkEnded (s : State) (core id : Nat) : State :=
  s.modCore core (fun q => { q with walks := q.walks.filter (fun x => x.id != id) })
/-- The end of a walk whose thread still waits for it. -/
theorem execPageWalkComplete_waiting {s : State} {core id : Nat} {w : Walk} {th : Thread} (sound : s.wordErrors = [])
    (walk : (s.core core).walks.find? (fun x => x.id == id) = some w)
    (live : (s.walkEnded core id).named ⟨core, w.slot, w.gen⟩ = some th) (waits : ∃ o, th.run = .detached 1 o) :
    execPageWalkComplete core id s = match (s.walkEnded core id).walk th.space w.va.toNat with
      | .ok l => .next (((s.walkEnded core id).fillTlbs core w.slot th.space l).setThread (tid core w.slot) th.rejoin)
      | .error f => .next (((s.walkEnded core id).sendTrap core w.slot th.gen th.launchid th.pc false (f.trap w.va)).setThread
          (tid core w.slot) (th.toTrap f.cause false)) := by
  obtain ⟨o, waits⟩ := waits
  unfold State.walkEnded at live
  have clean := touchWalk_sound (s := s.walkEnded core id) sound th.space w.va.toNat (nameAt core w.slot th).word
  unfold State.walkEnded at clean
  rw [execPageWalkComplete, walk]
  dsimp only
  rw [live]
  dsimp only
  rw [waits, clean]
  rfl

/-! ## Records that arrive (R394) -/

theorem wordAt_zero (r : Record) : wordAt r.toList 0 = r[0] := by
  simp [wordAt]
/-- The count of lost notices stays at its end (R394). -/
theorem lost_counted (n : BitVec 16) : (if n = 0xFFFF#16 then n else n + 1) = BitVec.ofNat 16 (min 0xFFFF (n.toNat + 1)) := by
  split <;> bv_omega

section Arrival
variable {s : State} {id core : Nat} {r : Record}

theorem execMailboxRecordArrival_room (sent : s.msg? id = some (.record core r)) (room : (s.core core).mailbox.length < 32)
    (idle : (s.core core).mbxq = []) :
    execMailboxRecordArrival id s = .next ((s.take id).setCore core { s.core core with mailbox := (s.core core).mailbox ++ [r] }) := by
  have still : (((s.take id).modCore core (fun k => { k with mailbox := k.mailbox ++ [r] })).core core).mbxq = [] := by
    rw [State.modCore, State.core_setCore, if_pos rfl]
    exact idle
  rw [execMailboxRecordArrival, sent]
  dsimp only
  rw [if_pos room, still]
  rfl
theorem execMailboxRecordArrival_full (sent : s.msg? id = some (.record core r)) (full : 32 ≤ (s.core core).mailbox.length) :
    execMailboxRecordArrival id s = if fld r[0] 63 60 = 3 then
        .next ((s.take id).setCore core
          { s.core core with lost := BitVec.ofNat 16 (min 0xFFFF ((s.core core).lost.toNat + 1)) })
      else .next s := by
  rw [execMailboxRecordArrival, sent]
  dsimp only
  rw [if_neg (by omega), recordClass, wordAt_zero, ← lost_counted]
  rfl

end Arrival

/-! ## Refused posted stores (R414, R456) -/

/-- The first word of a log entry holds its cause. -/
theorem fld_logWord_cause {sev cause loc : Nat} (repair : Bool) (fits : cause < 256) :
    fld (place 1 63 ||| place sev 61 ||| place (b2n repair) 60 ||| place cause 52 ||| place (loc % 2 ^ 32) 0) 59 52 = cause := by
  have low : fld (place (loc % 2 ^ 32) 0) 59 52 = 0 := fld_place_below (by omega)
  simp (disch := omega) only [fld_or, fld_place_above, fld_place_self (hi := 59) (lo := 52) (by omega) (by omega) fits, low,
    Nat.zero_or, Nat.or_zero]
/-- A fault of a launch that has ended and was no step goes to the device error log. -/
theorem sendAsync_ended {s : State} {issuer : TName} {launch : Word} (f : RecordFields) (ended : s.launchOf launch = none)
    (past : s.chandler.pastSteps.any (fun p => p.1 == launch) = false) :
    s.sendAsync issuer launch f = s.logEntry 3 false f.cause (f.unitLoc issuer) issuer.word f.va := by
  rw [State.sendAsync, ended]
  dsimp only
  rw [past]
  rfl
theorem execPostedStoreRefused_ended {s : State} {id : Nat} {n : TName} {launch va pc : Word} {cause reason pa : Nat}
    (sent : s.msg? id = some (.refusedStore n launch pc cause reason va pa)) (ended : s.launchOf launch = none)
    (past : s.chandler.pastSteps.any (fun p => p.1 == launch) = false) :
    ∃ loc, execPostedStoreRefused id s = .next ((s.take id).logEntry 3 false cause loc n.word va) := by
  have ended' : (s.take id).launchOf launch = none := ended
  rw [execPostedStoreRefused, sent]
  dsimp only
  rw [sendAsync_ended _ ended' past]
  exact ⟨_, rfl⟩

/-- Settles O30: a walk by its end, a record by its mailbox's room and its class, a refusal by the log entry it makes. -/
theorem walksRecordsAndRefusals : Obligations.WalksRecordsAndRefusals := by
  unfold Obligations.WalksRecordsAndRefusals
  intro s id core k w th r n launch va cause reason pa pc sound dropped
  refine ⟨fun walk live waits stays => ?_, fun sent => ⟨execMailboxRecordArrival_room sent, fun full notice => ?_,
    fun full other => ?_⟩, fun sent ended past => ?_⟩
  · have ends : exec (.pageWalkComplete core id) s = _ := execPageWalkComplete_waiting sound walk live waits
    refine ⟨fun l leaf => ?_, fun f fault => ?_⟩
    · rw [ends, show (s.walkEnded core id).walk th.space w.va.toNat = .ok l from leaf, Thread.rejoin_of_running stays]
      rfl
    · rw [ends, show (s.walkEnded core id).walk th.space w.va.toNat = .error f from fault]
      refine ⟨_, rfl, ?_, State.sendTrap_mem ..⟩
      rw [State.thread_setThread, if_pos rfl]
      rfl
  · exact (execMailboxRecordArrival_full sent full).trans (if_pos notice)
  · exact (execMailboxRecordArrival_full sent full).trans (if_neg other)
  · obtain ⟨loc, reports⟩ := execPostedStoreRefused_ended sent ended past
    exact ⟨_, _, reports, rfl, rfl, fld_logWord_cause false, rfl, rfl⟩

/-! ## A read made at once (R207, R212) -/

/-- A word that keeps its HOLD's record frees none. -/
theorem afterHold_of_kept {s : State} {w : Nat} {m : Meta} (kept : (s.wordMeta w).holdRec = m.holdRec) : s.afterHold w m = s := by
  unfold State.afterHold
  split
  · rename_i i held
    rw [kept, held, if_pos rfl]
  · rfl
/-- A load or an LDW that proceeds gives the word with its F and X, and changes nothing. -/
theorem readNow_of_holds {s : State} {a : Access} (h : hasMeta a.pa = true) (sound : s.wordErrors = [])
    (form : a.form = .ld ∨ a.form = .ldw) (ready : holds a.form (s.wordMeta (wordOfAddr a.pa)) = true) :
    s.readNow a = (.value (BitVec.ofNat 64 (s.busRead a.pa a.size)) (s.wordMeta (wordOfAddr a.pa)).full
      (s.wordMeta (wordOfAddr a.pa)).poison, s) := by
  have accepted : s.peerSays a = (none, s) := by
    unfold State.peerSays
    obtain ⟨d, e⟩ | e | ⟨d, e⟩ | ⟨c, e⟩ | ⟨c, e⟩ | ⟨d, off, e, -⟩ := hasMeta_cases h <;> rw [e]
  have quiet : (s.apply a).1 = s := by
    unfold State.apply
    rcases form with form | form <;> rw [form]
  have other : a.form ≠ .lrw := by rcases form with form | form <;> rw [form] <;> decide
  have effect : (s.effect a).1 = s := by
    unfold State.effect
    dsimp only
    rw [if_neg other, quiet, afterHold_of_kept rfl]
  have serve : serves a.form (s.wordMeta (wordOfAddr a.pa)) (s.wordMeta (wordOfAddr a.pa)) = false := by
    rcases form with form | form <;> simp [serves, form]
  have clean : s.wordError (wordOfAddr a.pa) a.who.word = s := State.wordError_none (by rw [sound]; rfl)
  rw [State.readNow, asPerformed_of_hasMeta h, accepted]
  dsimp only
  rw [clean, ready, effect, serve]
  rfl

/-- Only the messages on their way, and what they meet at the gateways and in threads, differ. -/
def OnLinks (s t : State) : Prop :=
  t = { s with
    flight := t.flight
    openReads := t.openReads
    threads := t.threads
    nextId := t.nextId
    fresh := t.fresh }
theorem OnLinks.trans {s t u : State} (h : OnLinks s t) (k : OnLinks t u) : OnLinks s u := by
  unfold OnLinks at h k ⊢
  rw [h] at k
  exact k
theorem onLinks_send (s : State) (p : Nat) (m : Msg) : OnLinks s (s.send p m) := rfl
theorem onLinks_bump (s : State) : OnLinks s s.bump := rfl
theorem onLinks_modThread (s : State) (t : Nat) (f : Thread → Thread) : OnLinks s (s.modThread t f) := by
  unfold State.modThread
  split <;> rfl
theorem onLinks_modNamed (s : State) (n : TName) (f : Thread → Thread) : OnLinks s (s.modNamed n f) := by
  unfold State.modNamed
  split <;> rfl
theorem onLinks_answerJoined (s : State) (opened pa : Nat) (r : Reply) (word : Word) (l : List (Nat × Thread)) :
    OnLinks s (s.answerJoined opened pa r word l) := by
  induction l generalizing s with
  | nil => rfl
  | cons x rest ih =>
    obtain ⟨t, th⟩ := x
    rw [State.answerJoined]
    split
    · exact (onLinks_modThread ..).trans ((onLinks_send ..).trans (ih _))
    · exact ih s
theorem onLinks_passIn (s : State) (a : Access) (r : Reply) (word : Word) : OnLinks s (s.passIn a r word) := by
  have closed : OnLinks s { s with openReads := s.openReads.filter (fun o => o.id != a.opened) } := rfl
  unfold State.passIn
  dsimp only
  split <;> exact closed.trans ((onLinks_answerJoined ..).trans (onLinks_send ..))
theorem onLinks_passOut (s : State) (die : Nat) (a : Access) (b : Option Access) : OnLinks s (s.passOut die a b) := by
  unfold State.passOut
  dsimp only
  split
  · split
    · split
      · exact (onLinks_bump s).trans (onLinks_modNamed ..)
      · split <;> rfl
    · split <;> rfl
  · split <;> rfl
theorem onLinks_passBridge (s : State) (id : Nat) : OnLinks s (s.passBridge id) := by
  have taken : OnLinks s (s.take id) := rfl
  unfold State.passBridge
  split
  · exact taken.trans (onLinks_passOut ..)
  · exact taken.trans (onLinks_passIn ..)
  · rfl
theorem onLinks_flushReplies (s : State) (die pa : Nat) : OnLinks s (s.flushReplies die pa) := by
  unfold State.flushReplies
  generalize s.flight.filter _ = l
  induction l generalizing s with
  | nil => rfl
  | cons f rest ih => exact (onLinks_passBridge s f.id).trans (ih _)
/-- A read by an engine first lets the answers before it pass the gateway (R207). -/
theorem onLinks_engineSees (s : State) (die pa : Nat) : OnLinks s (s.engineSees die pa) := by
  unfold State.engineSees
  split
  · exact onLinks_flushReplies ..
  · rfl

/-! ## A word of a plain copy (R164, R194) -/

/-- A copy's posted write to a word that nothing waits for has its effect on the word and nothing more. -/
theorem perform_copy {s : State} {a : Access} {mode : CopyMode} {full : Bool} (form : a.form = .copy mode full) (h : hasMeta a.pa = true)
    (posted : a.posted = true) (idle : s.waitersAt (wordOfAddr a.pa) = []) : s.perform a = (s.apply a).1 := by
  have p := apply_performed (s := s) h (by simp [form])
  have record : ((s.apply a).1.wordMeta (wordOfAddr a.pa)).holdRec = (s.wordMeta (wordOfAddr a.pa)).holdRec := by
    rw [p.here, State.afterForm, form]
    rfl
  have once : s.performOnce a = (s.apply a).1 := by
    rw [State.performOnce, State.effect]
    dsimp only
    rw [if_neg (by simp [form]), afterHold_of_kept record, State.answer, if_pos posted]
  have still : (s.apply a).1.feserve (wordOfAddr a.pa) = (s.apply a).1 := feserve_of_no_waiters (by rw [p.frame.waitersAt, idle])
  rw [State.perform, asPerformed_of_hasMeta h, peerReason_of_hasMeta h]
  dsimp only
  rw [form]
  simp [holds, once, still]

/-- The bytes of a number from one up, in ascending order, make up the number above it. -/
theorem foldr_bytes (v k j : Nat) :
    (List.range' j k).foldr (fun i n => bits v (i * 8) 8 + 256 * n) 0 = v / 256 ^ j % 256 ^ k := by
  induction k generalizing j with
  | zero => simp [Nat.mod_one]
  | succ k ih =>
    rw [List.range'_succ, List.foldr_cons, ih, Nat.pow_succ' (n := k), Nat.mod_mul, bits, Nat.mul_comm j 8, Nat.pow_mul,
      Nat.div_div_eq_div_mul, ← Nat.pow_succ]
    rfl
theorem srcBytes_word {r : CopyRun} {lo : Nat} {v : Word} {f x : Bool} (aligned : lo % 8 = 0) (read : mget r.srcw lo = some (v, f, x)) :
    srcBytes r lo 8 = v.toNat := by
  have bytes : srcBytes r lo 8 = (List.range 8).foldr (fun i n => bits v.toNat (i * 8) 8 + 256 * n) 0 :=
    List.foldr_ext _ _ _ fun i hi n => by
      rw [List.mem_range] at hi
      rw [show (lo + i) / 8 * 8 = lo by omega, show (lo + i) % 8 = i by omega, read]
      rfl
  rw [bytes, List.range_eq_range', foldr_bytes, Nat.pow_zero, Nat.div_one]
  exact Nat.mod_eq_of_lt v.isLt
theorem srcMeta_word {r : CopyRun} {lo : Nat} {v : Word} {f x : Bool} (aligned : lo % 8 = 0) (read : mget r.srcw lo = some (v, f, x)) :
    srcMeta r lo 8 = (f, x) := by
  have first : lo / 8 * 8 + 8 * 0 = lo := by omega
  rw [srcMeta, aligned]
  change List.foldl _ _ [0] = _
  rw [List.foldl_cons, List.foldl_nil, first, read]
  simp

section Word
variable {s : State} {eng lo p : Nat} {r : CopyRun}

theorem fetchBytes_word (aligned : lo % 8 = 0) (f : Fetch) : fetchBytes eng lo 8 f = fetchWord eng lo f := by
  have first : lo / 8 * 8 + 8 * 0 = lo := by omega
  rw [fetchBytes, if_neg (by decide), aligned]
  change List.foldl _ _ [0] = _
  rw [List.foldl_cons, List.foldl_nil, first]
/-- A source word not yet fetched is read once, after the answers before it have passed the gateway (R164, R207). -/
theorem fetchWord_read (fresh : r.srcw = [])
    (address : s.copyAddress r.cmd (if r.cmd.mode = .fr then .store else .load) (BitVec.ofNat 64 lo) r.cmd.src r.cmd.spa = (.ok p, s))
    (h : hasMeta p = true) (aligned : p % 8 = 0) (sound : s.wordErrors = []) (full : r.cmd.mode = .fr → (s.wordMeta p).full = true) :
    let t := s.engineSees (eng / 256) p
    fetchWord eng lo (none, s, r) = (none, t, { r.noteRead t p with
      srcw := [(lo, s.readWord p, (s.wordMeta p).full, (s.wordMeta p).poison)], repark := false }) := by
  intro t
  have links : OnLinks s t := onLinks_engineSees ..
  unfold OnLinks at links
  have states (w : Nat) : t.wordMeta w = s.wordMeta w := by rw [links]; rfl
  have bytes : t.readWord p = s.readWord p := by rw [links]; rfl
  have sound' : t.wordErrors = [] := by rw [links]; exact sound
  have word : wordOfAddr p = p := wordOfAddr_of_aligned aligned
  have value : BitVec.ofNat 64 (t.busRead p 8) = s.readWord p := by
    rw [busRead_of_hasMeta t h (by omega), ← bytes]
    rfl
  have read := readNow_of_holds (s := t) (a := r.cmd.read eng (BitVec.ofNat 64 lo) p r.repark) h sound'
    (by simp only [CopyCmd.read]; split <;> simp) (by
      change holds (if r.cmd.mode = .fr then .ldw else .ld) (t.wordMeta (wordOfAddr p)) = true
      rw [word, states]
      split
      · rename_i mode
        exact full mode
      · rfl)
  have read' : t.readNow (r.cmd.read eng (BitVec.ofNat 64 lo) p r.repark) =
      (.value (s.readWord p) (s.wordMeta p).full (s.wordMeta p).poison, t) := by
    rw [read]
    change (Read.value (BitVec.ofNat 64 (t.busRead p 8)) (t.wordMeta (wordOfAddr p)).full (t.wordMeta (wordOfAddr p)).poison, t) = _
    rw [value, word, states]
  simp only [fetchWord, fresh, mget, Option.isSome_none, Bool.false_eq_true, if_false, decide_eq_true_eq, address, h, Bool.not_true,
    Bool.and_false]
  rw [read']
  rfl

/-- Of a plain copy without conversion the source bytes of destination bytes are as many, at the same distance. -/
theorem sourceRange_plain {c : CopyCmd} (kind : c.kind = .cpy) (i n : Nat) : sourceRange none c i n = (c.src.toNat + i, n) := by
  simp [sourceRange, kind]
theorem dstLen_plain {c : CopyCmd} (kind : c.kind = .cpy) (conv : s.convOf c = none) : s.dstLen c = c.count.toNat := by
  simp [State.dstLen, kind, conv]

/-- An address that is found without filling a TLB is found alike wherever that TLB is the same (R161). -/
theorem translateEngine_same {u : State} {core : Nat} {space va : Word} {sup : Bool} {k : Kind} (sound : s.wordErrors = [])
    (tlb : (u.cluster (clusterOf core)).tlb = (s.cluster (clusterOf core)).tlb)
    (found : s.translateEngine core space sup k va = (.ok p, s)) : u.translateEngine core space sup k va = (.ok p, u) := by
  unfold State.translateEngine at found ⊢
  dsimp only at found ⊢
  by_cases top : fld va 63 56 ≠ 0
  · rw [if_pos top] at found
    cases congrArg Prod.fst found
  rw [if_neg top] at found ⊢
  by_cases near : va.toNat < nearEnd
  · rw [if_pos near] at found ⊢
    cases place : nearPa core va.toNat with
    | none =>
      rw [place] at found
      cases congrArg Prod.fst found
    | some q =>
      rw [place] at found
      exact congrArg (fun x => (x, u)) (congrArg Prod.fst found)
  rw [if_neg near] at found ⊢
  by_cases root : fld space 39 0 = 0
  · rw [if_pos root] at found
    cases congrArg Prod.fst found
  rw [if_neg root] at found ⊢
  rw [tlb]
  cases hit : tlbFind (s.cluster (clusterOf core)).tlb none space va.toNat with
  | some l =>
    rw [hit] at found
    exact congrArg (fun x => (x, u)) (congrArg Prod.fst found)
  | none =>
    rw [hit, touchWalk_sound sound] at found
    dsimp only at found
    cases walk : s.walk space va.toNat with
    | error f =>
      rw [walk] at found
      cases congrArg Prod.fst found
    | ok l =>
      rw [walk] at found
      have bumped : s.fresh + 1 = s.fresh := congrArg (fun x => x.2.fresh) found
      omega
theorem copyAddress_same {u : State} {c : CopyCmd} {k : Kind} {va start : Word} {base : Nat} (sound : s.wordErrors = [])
    (clusters : u.clusters = s.clusters) (snuffs : u.snuffs = s.snuffs) (ports : u.ports = s.ports)
    (found : s.copyAddress c k va start base = (.ok p, s)) : u.copyAddress c k va start base = (.ok p, u) := by
  have tlb (cl : Nat) : (u.cluster cl).tlb = (s.cluster cl).tlb := by rw [State.cluster, State.cluster, clusters]
  have fault (pa : Nat) : u.engineFault pa = s.engineFault pa := by
    unfold State.engineFault State.addrFenced
    rw [snuffs, ports]
  unfold State.copyAddress at found ⊢
  cases translated : s.translateEngine c.name.core c.space c.sup k va with
  | mk result t =>
    rw [translated] at found
    cases result with
    | error f => cases congrArg Prod.fst found
    | ok q =>
      dsimp only at found
      split at found
      · rename_i inside
        cases blocked : t.engineFault q with
        | some cause =>
          rw [blocked] at found
          split at found
          · cases congrArg Prod.fst found
          · cases congrArg Prod.fst found
          · rename_i absent
            cases absent
        | none =>
          rw [blocked] at found
          obtain ⟨rfl, rfl⟩ : q = p ∧ t = s := by simpa using found
          rw [translateEngine_same sound (tlb _) translated]
          dsimp only
          rw [if_pos inside, fault, blocked]
      · cases congrArg Prod.fst found

theorem destAddress_plain {c : CopyCmd} (kind : c.kind = .cpy) (i : Nat) :
    s.destAddress c i = s.copyAddress c .store (c.dest + BitVec.ofNat 64 i) c.dest c.dpa := by
  simp [State.destAddress, kind]
theorem destBytes_plain (kind : r.cmd.kind = .cpy) (i n : Nat) :
    destBytes s none r i n = (srcBytes r (r.cmd.src.toNat + i) n, 0) := by
  simp [destBytes, sourceRange_plain kind]

/-- The state after a word has been read, its write posted and the run moved on. -/
theorem copyWord_read {t : State} {x : Nat} {run : CopyRun} {v : Word} {f poison : Bool} (kind : r.cmd.kind = .cpy)
    (conv : s.convOf r.cmd = none) (left : r.done + 8 ≤ r.cmd.count.toNat)
    (source : (r.cmd.src.toNat + r.done) % 8 = 0) (dest : (r.cmd.dest.toNat + r.done) % 8 = 0)
    (read : fetchWord eng (r.cmd.src.toNat + r.done) (none, s, r) = (none, t, run)) (cmd : run.cmd = r.cmd) (done : run.done = r.done)
    (word : mget run.srcw (r.cmd.src.toNat + r.done) = some (v, f, poison))
    (address : t.copyAddress r.cmd .store (r.cmd.dest + BitVec.ofNat 64 r.done) r.cmd.dest r.cmd.dpa = (.ok x, t)) :
    ∃ run', s.copyWord eng r = (t.sendEngine eng (copyAccess (.engine eng) r.cmd.sup r.cmd.launch r.cmd.pc r.cmd.mode
        (r.cmd.dest + BitVec.ofNat 64 r.done) x 8 v.toNat f poison) none).setCopyRun eng run' ∧
      run'.done = r.done + 8 ∧ run'.cmd = r.cmd := by
  have length := dstLen_plain kind conv
  have bytes := srcBytes_word source word
  have state := srcMeta_word source word
  have size : min (8 - (r.cmd.dest.toNat + r.done) % 8) (r.cmd.count.toNat - r.done) = 8 := by omega
  unfold State.copyWord
  dsimp only
  rw [length, conv, if_neg (by omega), if_neg (by rw [kind]; decide), size, sourceRange_plain kind]
  dsimp only
  rw [fetchBytes_word source, read]
  dsimp only
  rw [cmd, done, destAddress_plain kind, address]
  dsimp only
  rw [destBytes_plain (by rw [cmd, kind]), cmd, bytes, state, if_neg (by rw [kind]; decide)]
  exact ⟨_, rfl, rfl, rfl⟩
/-- The running command moves by a word (R164). -/
theorem execCopyStart_running (unit : eng < 2048) (running : (s.cluster eng).copy.run = some r) (kind : r.cmd.kind = .cpy)
    (held : r.held = none) (parked : r.parked = none) (moved : r.moved = false) :
    execCopyStart eng s = .next (s.copyWord eng r) := by
  rw [execCopyStart, if_neg (by omega)]
  dsimp only
  rw [running]
  simp [held, parked, moved, kind]
/-- A posted word is on its way, alone, through the gateway of its die when its bank lies off it (R207, R209). -/
theorem sendEngine_word {a : Access} (unit : eng < 2048) : ∃ f ∈ (s.sendEngine eng a none).flight,
    f.msg = if offDie (eng / 256) a.pa then .toBridge (eng / 256) a none else a.msg := by
  rw [State.sendEngine, Nat.mod_eq_of_lt unit]
  exact ⟨_, List.mem_append_right _ (List.mem_singleton_self _), rfl⟩
theorem setCopyRun_run (run : CopyRun) : ((s.setCopyRun eng run).cluster eng).copy.run = some run := by
  rw [State.setCopyRun, State.modCopy, State.modCluster, State.cluster_setCluster, if_pos rfl]

end Word

/-- Settles O33: the read of a word, then its write at the bank. -/
theorem copyMovesWords : Obligations.CopyMovesWords := by
  unfold Obligations.CopyMovesWords
  refine ⟨?_, ?_⟩
  · intro s cl p x r unit running kind conv held parked moved fresh left source dest _ found address h aligned sound full
    let t := s.engineSees (cl / 256) p
    have links : OnLinks s t := onLinks_engineSees ..
    unfold OnLinks at links
    have place : t.copyAddress r.cmd .store (r.cmd.dest + BitVec.ofNat 64 r.done) r.cmd.dest r.cmd.dpa = (.ok x, t) :=
      copyAddress_same sound (by rw [links]) (by rw [links]) (by rw [links]) (address s.flight s.openReads s.threads s.nextId)
    obtain ⟨run, word, done, cmd⟩ := copyWord_read kind conv left source dest (fetchWord_read fresh found h aligned sound full) rfl rfl
      (if_pos rfl) place
    obtain ⟨f, flying, msg⟩ := sendEngine_word (s := t) (a := copyAccess (.engine cl) r.cmd.sup r.cmd.launch r.cmd.pc r.cmd.mode
      (r.cmd.dest + BitVec.ofNat 64 r.done) x 8 (s.readWord p).toNat (s.wordMeta p).full (s.wordMeta p).poison) unit
    have starts := execCopyStart_running unit running kind held parked moved
    rw [word] at starts
    refine ⟨_, run, f, _, starts, ?_, ?_, flying, msg, rfl, rfl, rfl, ?_, rfl, rfl, rfl, setCopyRun_run run, done, cmd⟩
    · change t.mem = s.mem
      rw [links]
    · change t.marks = s.marks
      rw [links]
    · exact BitVec.ofNat_toNat ..
  · intro s id a mode full sent open' form whole aligned h kick posted sound idle
    have word : wordOfAddr a.pa = a.pa := wordOfAddr_of_aligned aligned
    have p := apply_performed (s := s.take id) h (by simp [form])
    refine ⟨((s.take id).apply a).1, ?_, ?_, ?_, fun y hy => p.others y (by rwa [word])⟩
    · rw [execBankAccessArrival_perform sent open' h (by rwa [word]), perform_copy form h posted (by rw [word]; exact idle)]
    · rw [p.bytes, form, Form.storesWhen, if_pos rfl, busWrite_mem _ _ _ h, word, kick, whole]
      rfl
    · have here := p.here
      rw [State.afterForm, form, word] at here
      rw [here]
      simp only [copyMeta, whole]
      cases mode <;> rfl

end Sys2Proof.Machine

namespace Sys2Proof.Machine

/-! ## Memory instructions as they issue (R170 to R190) -/

/-- A true guard, and operands present and clean: the body runs (R91, R18, R401). -/
theorem guarded_clean {s : State} {g : PReg} {rs : List Reg} {ops : List (Reg × Nat)} {f : State → State}
    (h : s.readyClean g rs) (operands : ∀ p ∈ ops, p.1 ∈ rs) : guarded g (needs rs (clean ops f)) s = f s :=
  (guarded_ready h.1).trans (needs_clean h operands)

section
variable {s : State} {f : Form} {size pa : Nat} {va : Word} {body : Nat → State → State}

/-- An access that reaches memory is made, at its physical address (R170, R171). -/
theorem accessAt_reaches (h : s.reaches f va size pa) : accessAt f size va body s = body pa s := by
  obtain ⟨idle, aligned, there, mapped⟩ := h
  refine (notBusy_idle idle).trans ((if_neg (not_not.mpr aligned)).trans ((withAddress_ok mapped).trans ?_))
  unfold State.exists at there
  cases region : regionOf pa with
  | absent => simp only [region] at there
  | peer p =>
    simp only [region] at there ⊢
    obtain ⟨plain, up⟩ := there
    simp only [plain, up, Bool.not_true, Bool.false_eq_true, if_false]
  | hbm | lpddr | host | sram | scratch | tcm | districtCtl | clusterCtl =>
    simp only [region] at there ⊢
    refine if_neg ?_
    cases full : isFullEmpty f with
    | false => exact Bool.false_ne_true
    | true => simp [there full]
/-- A misaligned address traps before anything is looked up (R456). -/
theorem accessAt_misaligned (idle : s.iss.snap.relaxed = none) (misaligned : va.toNat % size ≠ 0) :
    accessAt f size va body s = trap { cause := 0x23, va := va } s :=
  (notBusy_idle idle).trans (if_pos misaligned)

end

/-- An access of a thread goes to its bank alone, through the gateway of its die when the bank lies off it (R175, R207). -/
theorem sendAccess_word (s : State) (n : TName) (a : Access) : ∃ m, (s.sendAccess n a).flight = s.flight ++ [m] ∧
    m.msg = if offDie (dieOf n.core) a.pa then .toBridge (dieOf n.core) a none else a.msg := by
  obtain ⟨due, sent⟩ := State.send_flight s (requestPath n a.pa)
    (if offDie (dieOf n.core) a.pa then .toBridge (dieOf n.core) a none else a.msg)
  exact ⟨_, sent, rfl⟩

/-! ### The forms on a whole word (R179) -/

section
variable {s : State} {d a : Reg} {o : MemOrd} {sc : Scope} {off : Imm 3} {g : PReg} {f : Form} {dest : Dest} {use pa : Nat}

theorem wordForm_waits (h : s.readyClean g [a]) (reached : s.reaches f (s.iss.snap.reg a + immOff off * 8) 8 pa) :
    wordForm f a o sc off dest g s =
      detach (.access f (s.iss.snap.reg a + immOff off * 8) pa 8 0 o sc dest) .drain s :=
  (guarded_clean h (by simp)).trans (accessAt_reaches reached)
theorem wordStore_waits (h : s.readyClean g [a, d]) (reached : s.reaches f (s.iss.snap.reg a + immOff off * 8) 8 pa) :
    wordStore f use d a o sc off dest g s =
      detach (.access f (s.iss.snap.reg a + immOff off * 8) pa 8 (s.iss.snap.reg d) o sc dest) .drain s :=
  (guarded_clean h (by simp)).trans (accessAt_reaches reached)
theorem wordForm_misaligned (h : s.readyClean g [a]) (idle : s.iss.snap.relaxed = none)
    (misaligned : (s.iss.snap.reg a + immOff off * 8).toNat % 8 ≠ 0) :
    wordForm f a o sc off dest g s = trap { cause := 0x23, va := s.iss.snap.reg a + immOff off * 8 } s :=
  (guarded_clean h (by simp)).trans (accessAt_misaligned idle misaligned)
theorem wordStore_misaligned (h : s.readyClean g [a, d]) (idle : s.iss.snap.relaxed = none)
    (misaligned : (s.iss.snap.reg a + immOff off * 8).toNat % 8 ≠ 0) :
    wordStore f use d a o sc off dest g s = trap { cause := 0x23, va := s.iss.snap.reg a + immOff off * 8 } s :=
  (guarded_clean h (by simp)).trans (accessAt_misaligned idle misaligned)

end

/-! ### LD and ST (R177, R178) -/

section
variable {s : State} {d a : Reg} {t : Ity} {o : MemOrd} {sc : Scope} {off : Imm 3} {g : PReg} {pa : Nat}

/-- The relaxed load that a thread has outstanding once an LD has issued (R20, R178). -/
def issRelaxed (d : Reg) (t : Ity) (va : Word) (pa : Nat) (sc : Scope) (s : State) : Relaxed :=
  ⟨s.iss.instr, d, t, va, pa, t.size, sc, s.iss.pc, s.iss.word, none, false, s.iss.snap.isPresent d⟩

theorem execLd_waits (h : s.readyClean g [a]) (reached : s.reaches .ld (amAddress s.iss.snap a t off) t.size pa)
    (ordered : o ≠ .rx) : exec (.ld d a t o sc off g) s =
      .next (detach (.access .ld (amAddress s.iss.snap a t off) pa t.size 0 o sc (.reg d t)) .drain s) := by
  refine congrArg _ ((guarded_clean h (by simp)).trans ?_)
  exact (accessAt_reaches reached).trans (if_neg ordered)
theorem execLd_relaxed (h : s.readyClean g [a]) (reached : s.reaches .ld (amAddress s.iss.snap a t off) t.size pa) :
    exec (.ld d a t .rx sc off g) s =
      .next ((live (fun th => { th with relaxed := some (issRelaxed d t (amAddress s.iss.snap a t off) pa sc s)
                                        present := setBit th.present d.val false }) s).sendAccess s.issName
        (issAccess s .ld (amAddress s.iss.snap a t off) pa t.size 0 .rx sc false)) := by
  refine congrArg _ ((guarded_clean h (by simp)).trans ?_)
  exact (accessAt_reaches reached).trans (if_pos rfl)
theorem execSt_waits (h : s.readyClean g [a, d]) (reached : s.reaches .st (amAddress s.iss.snap a t off) t.size pa)
    (ordered : o ≠ .rx) : exec (.st d a t o sc off g) s =
      .next (detach (.access .st (amAddress s.iss.snap a t off) pa t.size (s.iss.snap.reg d) o sc .none) .drain s) := by
  refine congrArg _ ((guarded_clean h (by simp)).trans ?_)
  exact (accessAt_reaches reached).trans (if_neg ordered)
theorem execSt_relaxed (h : s.readyClean g [a, d]) (reached : s.reaches .st (amAddress s.iss.snap a t off) t.size pa) :
    exec (.st d a t .rx sc off g) s = .next (s.sendAccess s.issName
      (issAccess s .st (amAddress s.iss.snap a t off) pa t.size (s.iss.snap.reg d) .rx sc true)) := by
  refine congrArg _ ((guarded_clean h (by simp)).trans ?_)
  exact (accessAt_reaches reached).trans (if_pos rfl)
theorem execLd_misaligned (h : s.readyClean g [a]) (idle : s.iss.snap.relaxed = none)
    (misaligned : (amAddress s.iss.snap a t off).toNat % t.size ≠ 0) :
    exec (.ld d a t o sc off g) s = .next (trap { cause := 0x23, va := amAddress s.iss.snap a t off } s) := by
  refine congrArg _ ((guarded_clean h (by simp)).trans ?_)
  exact accessAt_misaligned idle misaligned
theorem execSt_misaligned (h : s.readyClean g [a, d]) (idle : s.iss.snap.relaxed = none)
    (misaligned : (amAddress s.iss.snap a t off).toNat % t.size ≠ 0) :
    exec (.st d a t o sc off g) s = .next (trap { cause := 0x23, va := amAddress s.iss.snap a t off } s) := by
  refine congrArg _ ((guarded_clean h (by simp)).trans ?_)
  exact accessAt_misaligned idle misaligned

end

/-- A register made absent is not present (R20, R190). -/
theorem getLsbD_setBit_false {n : Nat} (m : BitVec n) (i : Nat) : (setBit m i false).getLsbD i = false := by
  rw [setBit_get]
  split
  next => rfl
  next out => exact BitVec.getLsbD_of_ge m i (by omega)

/-- Settles O18: a form that reaches memory makes its access; LD and ST by whether they are relaxed, the others by the one shape of
the word forms, with or without a value to store. -/
theorem memoryInstructionIssue : Obligations.MemoryInstructionIssue := by
  unfold Obligations.MemoryInstructionIssue
  intro s d a pd full t o sc off g pa store th va wa v waits
  have load : s.readyClean g [a] := store.mono (by simp)
  have reads {f : Form} {dest : Dest} (reached : s.reaches f wa 8 pa) :
      (.next (wordForm f a o sc off dest g s) : Out) = waits f wa 8 0 dest := congrArg _ (wordForm_waits load reached)
  have writes {f : Form} {dest : Dest} {use : Nat} (reached : s.reaches f wa 8 pa) :
      (.next (wordStore f use d a o sc off dest g s) : Out) = waits f wa 8 v dest := congrArg _ (wordStore_waits store reached)
  refine ⟨fun reached => ⟨execLd_waits load reached, ?_⟩, fun reached => ⟨execSt_waits store reached, ?_⟩,
    reads, reads, writes, writes, reads, reads, reads, writes, reads⟩
  · rintro rfl
    exact ⟨_, _, execLd_relaxed load reached, rfl, rfl, rfl, rfl, rfl, getLsbD_setBit_false .., rfl, rfl⟩
  · rintro rfl
    obtain ⟨m, sent, msg⟩ := sendAccess_word s s.issName (issAccess s .st va pa t.size v .rx sc true)
    exact ⟨_, execSt_relaxed store reached, rfl, m, sent, _, rfl, rfl, rfl, rfl, rfl, msg⟩

/-- Settles O19: alignment is looked at before the address is translated, in each shape of access. -/
theorem misalignedAccessTraps : Obligations.MisalignedAccessTraps := by
  unfold Obligations.MisalignedAccessTraps
  intro s d a pd full t o sc off g store idle va wa trapped
  have load : s.readyClean g [a] := store.mono (by simp)
  refine ⟨fun misaligned => ⟨execLd_misaligned load idle misaligned, execSt_misaligned store idle misaligned⟩, fun misaligned => ?_⟩
  have reads {f : Form} {dest : Dest} : (.next (wordForm f a o sc off dest g s) : Out) = trapped wa :=
    congrArg _ (wordForm_misaligned load idle misaligned)
  have writes {f : Form} {dest : Dest} {use : Nat} : (.next (wordStore f use d a o sc off dest g s) : Out) = trapped wa :=
    congrArg _ (wordStore_misaligned store idle misaligned)
  exact ⟨reads, reads, writes, writes, reads, writes, reads, reads, reads⟩

/-! ## FENCE, PUT and ARM (R187, R188, R190) -/

/-- A value that names a thread is sent to it, with its poison (R188, R189). -/
theorem execPut_waits {s : State} {a idx b : Reg} {g : PReg} (h : s.readyClean g [a]) (value : s.iss.snap.isPresent b = true)
    (short : (s.iss.snap.reg a).toNat < 2 ^ 29) (slot : (s.iss.snap.reg a).toNat % 8 ≠ 7) (idle : s.iss.snap.relaxed = none) :
    exec (.put a idx b g) s =
      .next (detach (.put (s.iss.snap.reg a) idx (s.iss.snap.reg b) (s.iss.snap.isPoisoned b)) .drain s) := by
  have both : ∀ r ∈ [a, b], s.iss.snap.isPresent r = true := by simp [h.1.2 a (by simp), value]
  have unpoisoned : ∀ p ∈ [(a, 7)], s.iss.snap.isPoisoned p.1 = false := by simp [h.2 a (by simp)]
  have names : ¬ (fld (s.iss.snap.reg a) 63 29 ≠ 0 ∨ fld (s.iss.snap.reg a) 2 0 = 7) := by
    rw [fld_high_zero short, fld_low (n := 3) rfl]
    simpa using slot
  refine congrArg _ ((guarded_ready h.1).trans ((needs_present both).trans ((clean_clean unpoisoned).trans ?_)))
  exact (if_neg names).trans (notBusy_idle idle)

/-- Settles O21: FENCE and ARM read no register but the guard, PUT by its own equation. -/
theorem fencePutArm : Obligations.FencePutArm := by
  unfold Obligations.FencePutArm
  intro s sc a idx b d g h value th
  exact ⟨congrArg _ (guarded_ready h.1), execPut_waits h value, congrArg _ (guarded_ready h.1)⟩

/-! ## Copies and tags as they issue (R191, R199) -/

section
variable {s : State} {a : Reg} {g : PReg}

/-- A copy drains and sends its kick (R191). -/
theorem copyIssue_waits {k : CopyKind} {m : CopyMode} {d b : Reg} {useD useB : Nat} {tag : Fin 64} (h : s.readyClean g [d, a, b])
    (idle : s.iss.snap.relaxed = none) :
    copyIssue k m d a b useD useB tag g s = detach (.copy (issCopy k m d a b tag s)) .drain s :=
  (guarded_clean h (by simp)).trans (notBusy_idle idle)

variable {all : Bool} {first : Option Reg}

/-- A wait whose condition TAGS meets ends as it issues (R199). -/
theorem tagWait_met (h : s.readyClean g [a]) (met : tagsMet all (s.core s.iss.core).tags (s.iss.snap.reg a) = true) :
    tagWait all first a g s = live (tagsResult (s.core s.iss.core).tags (s.iss.snap.reg a) first) s :=
  (guarded_clean h (by simp)).trans (if_pos met)
/-- Any other waits for a change of TAGS (R199, R200). -/
theorem tagWait_unmet (h : s.readyClean g [a]) (unmet : ¬ tagsMet all (s.core s.iss.core).tags (s.iss.snap.reg a) = true) :
    tagWait all first a g s = detach (.tags all (s.iss.snap.reg a) first) .waiting s :=
  (guarded_clean h (by simp)).trans (if_neg unmet)

theorem tagsMet_all {tags mask : Word} : tagsMet true tags mask = true ↔ tags &&& mask = mask := beq_iff_eq
theorem tagsMet_any {tags mask : Word} : tagsMet false tags mask = true ↔ mask = 0 ∨ tags &&& mask ≠ 0 := by
  simp [tagsMet]

theorem bit_eq_getLsbD (w : Word) (n : Nat) : bit w n = w.getLsbD n := Nat.testBit_eq_decide_div_mod_eq.symm
/-- A mask of 0 gives 64 (R199). -/
theorem firstTag_zero (tags : Word) : firstTag tags 0 = 64 := by
  have empty : lowest 64 (fun i => bit (tags &&& 0) i) = none := lowest_none.mpr fun i _ => by simp [bit_eq_getLsbD]
  rw [firstTag, empty]
  rfl
/-- A mask that TAGS meets gives the lowest tag set (R199). -/
theorem firstTag_lowest {tags mask : Word} (meets : tags &&& mask ≠ 0) : ∃ n, n < 64 ∧ firstTag tags mask = BitVec.ofNat 64 n ∧
    (tags &&& mask).getLsbD n = true ∧ ∀ i, i < n → (tags &&& mask).getLsbD i = false := by
  simp only [firstTag, bit_eq_getLsbD]
  cases found : lowest 64 (tags &&& mask).getLsbD with
  | none => exact absurd (BitVec.eq_of_getLsbD_eq fun i small => (lowest_none.mp found i small).trans (by simp)) meets
  | some n =>
    obtain ⟨small, tagged, least⟩ := lowest_some found
    exact ⟨n, small, rfl, tagged, least⟩

end

/-- Settles O31: copies by their one shape; the tag waits by whether TAGS meets the mask, and TFIRST by its index as well. -/
theorem copiesAndTagsIssue : Obligations.CopiesAndTagsIssue := by
  unfold Obligations.CopiesAndTagsIssue
  intro s m d a b tag g h th tags mask cmd waits
  have source : s.readyClean g [a] := h.mono (by simp)
  have unmet {all : Bool} {first : Option Reg} (not : ¬ tagsMet all tags mask = true) :
      (.next (tagWait all first a g s) : Out) = waits (.tags all mask first) .waiting := congrArg _ (tagWait_unmet source not)
  have met {all : Bool} {first : Option Reg} (now : tagsMet all tags mask = true) :
      (.next (tagWait all first a g s) : Out) = .next (live (tagsResult tags mask first) s) := congrArg _ (tagWait_met source now)
  refine ⟨fun idle => ?_, ?_, ?_, ?_, congrArg _ (guarded_clean source (by simp))⟩
  · have command (k : CopyKind) : issCopy k m d a b tag s = cmd k := by
      rw [issCopy, place_zero_toNat s.iss.word rfl]
      rfl
    have kicks {k : CopyKind} {useD useB : Nat} :
        (.next (copyIssue k m d a b useD useB tag g s) : Out) = waits (.copy (cmd k)) .drain :=
      congrArg _ ((copyIssue_waits h idle).trans (by rw [command]))
    exact ⟨kicks, kicks, kicks⟩
  · split
    next held => exact met (tagsMet_all.mpr held)
    next missing => exact unmet (mt tagsMet_all.mp missing)
  · split
    next held => exact met (tagsMet_any.mpr held)
    next missing => exact unmet (mt tagsMet_any.mp missing)
  · split
    next zero =>
      refine (met (tagsMet_any.mpr (.inl zero))).trans ?_
      rw [zero, ← firstTag_zero tags]
      rfl
    next nonzero =>
      split
      next clear => exact unmet (mt tagsMet_any.mp (not_or.mpr ⟨nonzero, not_not.mpr clear⟩))
      next meets =>
        obtain ⟨n, small, index, tagged, least⟩ := firstTag_lowest meets
        refine ⟨n, small, (met (tagsMet_any.mpr (.inr meets))).trans ?_, tagged, least⟩
        rw [← index]
        rfl

end Sys2Proof.Machine

namespace Sys2Proof.Machine

/-! ## A remote access through a window that is open for reading alone (R149, R384, R386) -/

section
variable {s t : State} {p : Fin 8} {q : Port} {sender o cause : Nat}

/-- The state in which a remote access is tested: entries of the holder table that name no HOLD any more are gone. -/
def State.pruned (s : State) : State := { s with holders := s.holders.filter s.holderLive }
@[simp] theorem State.peerAnswer_flight (s : State) (p sender : Nat) (posted : Bool) (l : List Reply) :
    (s.peerAnswer p sender posted l).flight = s.flight := by
  unfold State.peerAnswer
  dsimp only
  split <;> rfl

/-- A remote access that fails a test of its window is answered with the test's reason, cause and address (R386). -/
theorem execPeerAccessArrival_refused {req : PeerReq} {view size reason pa : Nat} {store posted : Bool} {value : Word × Word}
    (parts : reqParts req = (sender, view * 2 ^ 44 + o, size, store, value, posted)) (port : s.ports.toList[p.val]? = some q)
    (up : q.up = true) (on : s.power = .glow ∨ s.power = .dim) (sized : 1 ≤ size ∧ size ≤ 8 ∨ size = 16) (viewed : view < 4)
    (small : o < 2 ^ 44) (test : s.pruned.peerTest q view size store (q.pwbase + BitVec.ofNat 64 o) = (.error (reason, cause, pa), t)) :
    exec (.peerAccessArrival p req) s =
      .next (t.peerAnswer p.val sender posted [peerRefusal reason cause (q.pwbase + BitVec.ofNat 64 o) pa]) := by
  have linked : s.portUp p.val = true := by
    rw [State.portUp, port]
    exact up
  have taken : ¬ ((!s.portUp p.val) = true ∨ (s.power ≠ .glow ∧ s.power ≠ .dim) ∨ ¬ (1 ≤ size ∧ size ≤ 8 ∨ size = 16) ∨
      2 ^ 46 ≤ view * 2 ^ 44 + o) := by
    rintro (down | ⟨notGlow, notDim⟩ | odd | far)
    · rw [linked] at down
      cases down
    · exact on.elim notGlow notDim
    · exact odd sized
    · omega
  change execPeerAccessArrival p req s = _
  unfold execPeerAccessArrival
  rw [parts]
  dsimp only
  rw [if_neg taken, port]
  dsimp only
  rw [show (view * 2 ^ 44 + o) / 2 ^ 44 = view by omega, show (view * 2 ^ 44 + o) % 2 ^ 44 = o by omega]
  unfold State.pruned at test
  rw [test]

/-- A view-01 load performs as LDW, a form that needs the store right (R149): where no word errs and the window's translation denies
that right, the tests of the access end in reason 6 with the translation's cause. -/
theorem peerTest_ldw_denied {va : Word} (sound : s.wordErrors = []) (enabled : bit q.pwctl 0 = true)
    (inside : va.toNat / 65536 ≤ fld q.pwlim 55 16) (views : bit q.pwctl 2 = true) (denied : s.windowAddr q .store va = .error cause) :
    s.peerTest q 1 8 false va = (.error (6, cause, 0), s) := by
  have right : formKind (viewForm 1 false) = .store := rfl
  unfold State.peerTest
  dsimp only
  rw [enabled, views, touchWalk_sound sound, right, denied, if_neg (Nat.not_lt.mpr inside)]
  rfl

end

/-- A window of one page that allows every view, in the space whose root table stands at address 0x1000. -/
def readOnlyPort : Port := ⟨true, 0x40000000, 0x40000000, 1, 0xF, [], none⟩
/-- Port 0 has that window, and its page maps to address 0x80000000 with the user's right (bit 59) and without W (bit 61). -/
def readOnlyWindow : State :=
  { ((State.reset.writeWord 0x1000 0x4000000000002000).writeWord 0x2000 0x4000000000003000).writeWord 0x3008 0x8800000080000000 with
    ports := State.reset.ports.set 0 readOnlyPort }

/-- Through the window the page is open to a load, and a form that needs the store right meets cause 0x21 (R160). -/
theorem readOnlyWindow_load : readOnlyWindow.windowAddr readOnlyPort .load 0x40000000 = .ok 0x80000000 := rfl
theorem readOnlyWindow_store : readOnlyWindow.windowAddr readOnlyPort .store 0x40000000 = .error 0x21 := rfl

/-- Refutes O47: its clause for a view-01 load asks only that the window translate the address for a load, but the load performs as LDW,
which needs the store right (R149, R384); the clauses for the other views' full/empty forms do ask for that right. In `readOnlyWindow`
the page is readable and not writable, and the load of its full word, which the statement says is performed, is refused with reason 6
and cause 0x21, so that no bank's reply sets out. -/
theorem not_linksAndPeers : ¬ Obligations.LinksAndPeers := by
  unfold Obligations.LinksAndPeers
  intro h
  obtain ⟨-, -, -, -, -, -, window⟩ := h readOnlyWindow 0 readOnlyPort 0 (firstAccess .ld) 0 0 0 0 0x80000000 0 0
  obtain ⟨-, -, admits⟩ := window (by rfl) rfl (.inl rfl) (by decide) rfl
  obtain ⟨-, -, -, -, -, idle⟩ := admits (by decide) (by decide)
  obtain ⟨loads, -⟩ := idle (by decide) (by decide) (by decide) (by decide) (by decide) (by decide) (by decide) (by decide)
  obtain ⟨-, byLdw⟩ := loads readOnlyWindow_load
  obtain ⟨t, performs, -, -, -, f, n, sent, -⟩ := byLdw (by decide) (by decide)
  have test : readOnlyWindow.pruned.peerTest readOnlyPort 1 8 false 0x40000000 = (.error (6, 0x21, 0), readOnlyWindow.pruned) :=
    peerTest_ldw_denied rfl (by decide) (by decide) (by decide) readOnlyWindow_store
  have refused := execPeerAccessArrival_refused (s := readOnlyWindow) (p := 0) (sender := 0) (o := 0) (req := .load 0 (1 * 2 ^ 44 + 0) 8)
    rfl rfl rfl (.inl rfl) (.inl ⟨by decide, by decide⟩) (by decide) (by decide) test
  have silent : t.flight = [] := by
    rw [Host.Outcome.next.inj (performs.symm.trans refused), State.peerAnswer_flight]
    rfl
  rw [silent] at sent
  exact absurd sent List.not_mem_nil

end Sys2Proof.Machine

namespace Sys2Proof.Machine

/-! ## Live launches and their flags (R57, R255, R399) -/

/-- Every live launch stays live, and its flag word keeps the flags it holds. -/
structure KeepsLaunches (s t : State) : Prop where
  live : ∀ w l, s.launchOf w = some l → ∃ m, t.launchOf w = some m ∧ m.lflags ||| l.lflags = m.lflags
theorem KeepsLaunches.trans {s t u : State} (h : KeepsLaunches s t) (k : KeepsLaunches t u) : KeepsLaunches s u := by
  refine ⟨fun w l live => ?_⟩
  obtain ⟨m, later, flags⟩ := h.live w l live
  obtain ⟨n, last, more⟩ := k.live w m later
  exact ⟨n, last, by rw [← more, BitVec.or_assoc, flags]⟩
/-- A change outside the launches. -/
theorem KeepsLaunches.beside {s t : State} (h : t.launches = s.launches) : KeepsLaunches s t :=
  ⟨fun w l live => ⟨l, by rwa [State.launchOf, State.launch, h], BitVec.or_self⟩⟩
theorem KeepsLaunches.rfl {s : State} : KeepsLaunches s s := .beside (Eq.refl _)
theorem KeepsLaunches.ite {s t u : State} {p : Prop} [Decidable p] (h : KeepsLaunches s t) (k : KeepsLaunches s u) :
    KeepsLaunches s (if p then t else u) := by
  split
  · exact h
  · exact k
theorem keepsLaunches_foldl {α : Type} {f : State → α → State} (h : ∀ s x, KeepsLaunches s (f s x)) (l : List α) (s : State) :
    KeepsLaunches s (l.foldl f s) := by
  induction l generalizing s with
  | nil => exact .rfl
  | cons x l ih => exact (h s x).trans (ih _)

theorem State.launchOf_some {s : State} {w : Word} {l : Launch} :
    s.launchOf w = some l ↔ mget s.launches (lidOf w) = some l ∧ l.lgen.toNat = fld w 35 24 := by
  unfold State.launchOf State.launch
  cases mget s.launches (lidOf w) with
  | none => simp
  | some m =>
    dsimp only
    split
    next gen => simp only [Option.some.injEq, iff_self_and]; rintro rfl; exact gen
    next gen => simp only [reduceCtorEq, Option.some.injEq, false_iff, not_and]; rintro rfl; exact gen
/-- A change of a launch that keeps its generation and the flags it holds. -/
theorem keepsLaunches_modLaunch {s : State} {lid : Nat} {f : Launch → Launch} (gen : ∀ l, (f l).lgen = l.lgen)
    (flags : ∀ l, (f l).lflags ||| l.lflags = (f l).lflags) : KeepsLaunches s (s.modLaunch lid f) := by
  unfold State.modLaunch
  split
  next x found =>
    refine ⟨fun w l live => ?_⟩
    obtain ⟨here, lgen⟩ := State.launchOf_some.mp live
    by_cases same : lid = lidOf w
    · obtain rfl : x = l := Option.some.inj (found.symm.trans (same ▸ here))
      exact ⟨f x, State.launchOf_some.mpr ⟨by simp [same], by rw [gen, lgen]⟩, flags x⟩
    · exact ⟨l, State.launchOf_some.mpr ⟨by simp [mget_mset, same, here], lgen⟩, BitVec.or_self⟩
  next => exact .rfl
theorem keepsLaunches_launchFlags (s : State) (w : Word) (f : FlagBits) : KeepsLaunches s (s.launchFlags w f) := by
  unfold State.launchFlags
  split
  · exact keepsLaunches_modLaunch (fun _ => rfl) fun l => by rw [BitVec.or_assoc, BitVec.or_comm f, ← BitVec.or_assoc, BitVec.or_self]
  · exact .rfl
/-- A live launch takes the flags (R399). -/
theorem launchOf_launchFlags {s : State} {w : Word} {l : Launch} (f : FlagBits) (live : s.launchOf w = some l) :
    (s.launchFlags w f).launchOf w = some { l with lflags := l.lflags ||| f } := by
  obtain ⟨here, lgen⟩ := State.launchOf_some.mp live
  rw [State.launchFlags, live]
  refine State.launchOf_some.mpr ⟨?_, lgen⟩
  simp [State.modLaunch, State.launch, here]

theorem keepsLaunches_modThread (s : State) (t : Nat) (f : Thread → Thread) : KeepsLaunches s (s.modThread t f) := by
  unfold State.modThread
  split
  · exact .beside rfl
  · exact .rfl
theorem keepsLaunches_popPend (s : State) (t : Nat) (f : Thread → Thread) : KeepsLaunches s (s.popPend t f) :=
  keepsLaunches_modThread ..
theorem keepsLaunches_release (s : State) (n : TName) : KeepsLaunches s (s.release n) := by
  unfold State.release
  split
  · split
    · exact keepsLaunches_popPend ..
    · exact .rfl
  · exact .rfl
theorem keepsLaunches_episodes (s : State) (lid : Nat) (p : Episode → Bool) :
    KeepsLaunches s (s.modLaunch lid (fun l => { l with episodes := l.episodes.filter p })) :=
  keepsLaunches_modLaunch (fun _ => rfl) fun _ => BitVec.or_self
theorem keepsLaunches_settleBars (s : State) (launch : Word) : KeepsLaunches s (s.settleBars launch) := by
  unfold State.settleBars
  split
  · exact .rfl
  · refine .ite .rfl (.trans ?_ (keepsLaunches_foldl (fun s (e : Episode) => keepsLaunches_foldl keepsLaunches_release e.arrived s) _ _))
    exact (keepsLaunches_episodes s _ _).trans (.beside rfl)
theorem keepsLaunches_settlePops (s : State) (launch : Word) : KeepsLaunches s (s.settlePops launch) := by
  unfold State.settlePops
  refine .ite (keepsLaunches_foldl (fun s p => ?_) _ _) .rfl
  split
  · exact keepsLaunches_popPend ..
  · exact .rfl
theorem keepsLaunches_slotFreed (s : State) (core slot : Nat) : KeepsLaunches s (s.slotFreed core slot) := by
  simp only [State.slotFreed]
  split
  · exact .rfl
  · exact .beside rfl
theorem keepsLaunches_modCore (s : State) (c : Nat) (f : Core → Core) : KeepsLaunches s (s.modCore c f) := .beside rfl
theorem keepsLaunches_dropThread (s : State) (t : Nat) : KeepsLaunches s (s.dropThread t) := .beside rfl
theorem keepsLaunches_afterLeaving (s : State) (core slot : Nat) (launch : Word) : KeepsLaunches s (s.afterLeaving core slot launch) :=
  (keepsLaunches_modCore ..).trans ((keepsLaunches_slotFreed _ core slot).trans
    ((keepsLaunches_settleBars _ launch).trans (keepsLaunches_settlePops _ launch)))
theorem keepsLaunches_endThread (s : State) (core slot : Nat) : KeepsLaunches s (s.endThread core slot) := by
  unfold State.endThread
  split
  next => exact .rfl
  next =>
    exact (keepsLaunches_launchFlags ..).trans ((keepsLaunches_dropThread ..).trans (keepsLaunches_afterLeaving ..))
theorem keepsLaunches_finish (s : State) (t : Nat) (f : Thread → Thread) : KeepsLaunches s (s.finish t f) := by
  refine (keepsLaunches_popPend s t f).trans ?_
  rw [State.finish]
  split
  · exact .ite (keepsLaunches_endThread ..) .rfl
  · exact .rfl
theorem keepsLaunches_setTags (s : State) (core : Nat) (mask : Word) : KeepsLaunches s (s.setTags core mask) := by
  refine (keepsLaunches_modCore ..).trans (keepsLaunches_foldl (fun s slot => ?_) _ _)
  split
  · split
    · exact .ite (keepsLaunches_finish ..) .rfl
    · exact .rfl
  · exact .rfl

/-! ## The waits on a cluster's tiles (R243, R247) -/

/-- A change of OWNERS lets threads rejoin and ends their waits, and does nothing else. -/
theorem checkTiles_by {R : State → State → Prop} (same : ∀ s, R s s) (trans : ∀ {s t u}, R s t → R t u → R s u)
    (rejoin : ∀ s t th, R s (State.setThread s t th)) (finish : ∀ s t, R s (State.finish s t id)) (s : State) (cl : Nat) :
    R s (s.checkTiles cl) := by
  have fold {α : Type} {f : State → α → State} (h : ∀ s x, R s (f s x)) (l : List α) (s : State) : R s (l.foldl f s) := by
    induction l generalizing s with
    | nil => exact same s
    | cons x l ih => exact trans (h s x) (ih _)
  have ite {p : Prop} [Decidable p] {s t u : State} (h : R s t) (k : R s u) : R s (if p then t else u) := by
    split
    · exact h
    · exact k
  refine fold (fun s core => fold (fun s slot => ?_) _ s) _ s
  split
  · exact same s
  next th found =>
    generalize th.run = state
    generalize th.pend = pend
    cases state with
    | run =>
      cases pend with
      | nil => exact same s
      | cons p l =>
        obtain ⟨_, op, phase, _⟩ := p
        cases op with
        | mwait mask =>
          cases phase with
          | waiting => exact ite (same s) (finish ..)
          | _ => exact same s
        | _ => exact same s
    | detached n mask =>
      match n with
      | 7 => exact ite (same s) (rejoin ..)
      | 0 | 1 | 2 | 3 | 4 | 5 | 6 | _ + 8 => exact same s
    | _ => exact same s
theorem keepsUnits_checkTiles (s : State) (cl : Nat) : KeepsUnits s (s.checkTiles cl) :=
  checkTiles_by (fun _ => .rfl) .trans (fun _ _ _ => .beside ⟨rfl, rfl, rfl, rfl⟩) (fun s t => keepsUnits_finish s t id) s cl
theorem keepsLaunches_checkTiles (s : State) (cl : Nat) : KeepsLaunches s (s.checkTiles cl) :=
  checkTiles_by (fun _ => .rfl) .trans (fun _ _ _ => .beside rfl) (fun s t => keepsLaunches_finish s t id) s cl

/-! ## The matrix unit and its tiles (R224, R227) -/

/-- A cluster has four tiles, so one that a command names is one of them. -/
theorem Cluster.tile_eq (k : Cluster) (i : Tile) : k.tile i.val = k.mat.tiles[i.val] := by
  rw [Cluster.tile, List.getD_eq_getElem _ _ (by simp)]
  exact Vector.getElem_toList ..
/-- Another unit with the same tiles. -/
theorem Cluster.tile_congr {k l : Cluster} (h : k.mat.tiles = l.mat.tiles) (i : Nat) : k.tile i = l.tile i := by
  rw [Cluster.tile, h, ← Cluster.tile]

section
variable (s : State) (cl : Nat)

@[simp] theorem State.mat_modMat (f : MatUnit → MatUnit) : ((s.modMat cl f).cluster cl).mat = f (s.cluster cl).mat := by
  simp [State.modMat, State.modCluster]
@[simp] theorem State.mat_setMatRun (r : MatRun) : ((s.setMatRun cl r).cluster cl).mat = { (s.cluster cl).mat with run := some r } :=
  State.mat_modMat ..
@[simp] theorem State.tile_setMatRun (r : MatRun) (i : Nat) : ((s.setMatRun cl r).cluster cl).tile i = (s.cluster cl).tile i :=
  Cluster.tile_congr (by simp) i
/-- What a change of a tile leaves of its unit. -/
@[simp] theorem State.mat_modTile (t : Tile) (f : TileState → TileState) : ((s.modTile cl t f).cluster cl).mat =
    { (s.cluster cl).mat with tiles := (s.cluster cl).mat.tiles.set t.val (f ((s.cluster cl).tile t.val)) } := by
  rw [State.modTile, State.mat_modMat, Cluster.tile_eq]
/-- A change of a tile changes that tile alone. -/
@[simp] theorem State.tile_modTile (t i : Tile) (f : TileState → TileState) : ((s.modTile cl t f).cluster cl).tile i.val =
    if t = i then f ((s.cluster cl).tile t.val) else (s.cluster cl).tile i.val := by
  simp only [Cluster.tile_eq, State.mat_modTile, Vector.getElem_set, Fin.ext_iff]

end

/-! ## Tags set (R163, R200) -/

/-- Setting tags changes neither a cluster nor memory. -/
theorem setTags_frame (s : State) (core : Nat) (mask : Word) :
    (s.setTags core mask).clusters = s.clusters ∧ (s.setTags core mask).mem = s.mem :=
  ⟨(keepsUnits_checkTags (s.modCore core _) core).clusters, (keepsUnits_checkTags (s.modCore core _) core).mem⟩
theorem setTags_tagged (s : State) (core : Nat) {t : Nat} (h : t < 64) :
    ((s.setTags core (BitVec.twoPow 64 t)).core core).tags.getLsbD t = true := by
  rw [tags_setTags]
  simp [h]

/-! ## Words in error (R409) -/

/-- An access to a word in error changes no byte, no core and no cluster. -/
theorem wordError_frame (s : State) (w : Nat) (who : Word) :
    (s.wordError w who).mem = s.mem ∧ (s.wordError w who).cores = s.cores ∧ (s.wordError w who).clusters = s.clusters := by
  unfold State.wordError
  split
  · exact ⟨rfl, rfl, rfl⟩
  · dsimp only
    split
    · exact ⟨rfl, rfl, rfl⟩
    · split
      · exact ⟨rfl, rfl, rfl⟩
      · exact ⟨rfl, rfl, rfl⟩
theorem wordErrors_frame (who : Word) (l : List Nat) (s : State) :
    let t := l.foldl (fun s w => s.wordError w who) s
    t.mem = s.mem ∧ t.cores = s.cores ∧ t.clusters = s.clusters := by
  induction l generalizing s with
  | nil => exact ⟨rfl, rfl, rfl⟩
  | cons w l ih =>
    obtain ⟨mem, cores, clusters⟩ := wordError_frame s w who
    obtain ⟨mem', cores', clusters'⟩ := ih (s.wordError w who)
    exact ⟨mem'.trans mem, cores'.trans cores, clusters'.trans clusters⟩
/-- Taking the operands changes no byte, no core and no cluster, and of the run only what it holds of them (R233). -/
theorem consume_frame (s : State) (cl : Nat) (r : MatRun) :
    (s.consume cl r).1.mem = s.mem ∧ (s.consume cl r).1.cores = s.cores ∧ (s.consume cl r).1.clusters = s.clusters ∧
      ∃ bytes marks, (s.consume cl r).2 = { r with consumed := true, operands := bytes, poisoned := marks } := by
  obtain ⟨mem, cores, clusters⟩ := wordErrors_frame (place (matEngine cl) 0)
    ((s.wordErrors.filter (fun p => operandCell (r.cmd.operandClusters cl) p.1)).map (fun p => p.1)) s
  exact ⟨mem, cores, clusters, _, _, rfl⟩

/-! ## The end of a command (R57, R227, R238) -/

/-- What a tile is left with when a command of it ends. -/
def TileState.unlock (t : TileState) : TileState := { t with owners := t.owners - 1 }
/-- The unit runs no command, and its tile has one owner less; memory stays. -/
theorem endMat_frame (s : State) (cl : Nat) (r : MatRun) (tags : List Nat) :
    (s.endMat cl r tags).clusters = ((s.modMat cl (fun u => { u with run := none })).modTile cl r.cmd.tile TileState.unlock).clusters ∧
      (s.endMat cl r tags).mem = s.mem := by
  unfold State.endMat
  dsimp only
  rw [(keepsUnits_checkTiles _ _).clusters, (keepsUnits_checkTiles _ _).mem]
  split
  · exact ⟨(keepsUnits_launchFlags ..).clusters, (keepsUnits_launchFlags ..).mem⟩
  · rw [(setTags_frame ..).1, (setTags_frame ..).2]
    exact ⟨(keepsUnits_launchFlags ..).clusters, (keepsUnits_launchFlags ..).mem⟩
theorem endMat_run (s : State) (cl : Nat) (r : MatRun) (tags : List Nat) : ((s.endMat cl r tags).cluster cl).mat.run = none := by
  rw [State.cluster_eq (endMat_frame ..).1, State.mat_modTile, State.mat_modMat]
theorem endMat_tile (s : State) (cl : Nat) (r : MatRun) (tags : List Nat) :
    ((s.endMat cl r tags).cluster cl).tile r.cmd.tile.val = ((s.cluster cl).tile r.cmd.tile.val).unlock := by
  rw [State.cluster_eq (endMat_frame ..).1, State.tile_modTile, if_pos rfl, Cluster.tile_congr (l := s.cluster cl) (by simp)]
theorem endMat_tagged (s : State) (cl : Nat) (r : MatRun) {t : Nat} (h : t < 64) :
    ((s.endMat cl r [t]).core r.cmd.name.core).tags.getLsbD t = true := by
  change ((State.checkTiles (State.setTags _ _ (0 ||| BitVec.twoPow 64 t)) cl).core _).tags.getLsbD t = true
  rw [(keepsUnits_checkTiles _ _).tags, show 0 ||| BitVec.twoPow 64 t = BitVec.twoPow 64 t from BitVec.zero_or, setTags_tagged _ _ h]
/-- The launch of the command, when it lives, holds the command's flags. -/
theorem endMat_flags {s : State} (cl : Nat) (r : MatRun) (tags : List Nat) {l : Launch} (live : s.launchOf r.cmd.launch = some l) :
    ∃ m, (s.endMat cl r tags).launchOf r.cmd.launch = some m ∧ m.lflags ||| (l.lflags ||| r.flags) = m.lflags := by
  have ended : ((s.modMat cl (fun u => { u with run := none })).modTile cl r.cmd.tile TileState.unlock).launchOf r.cmd.launch = some l :=
    live
  refine KeepsLaunches.live (.trans ?_ (keepsLaunches_checkTiles _ cl)) _ _ (launchOf_launchFlags r.flags ended)
  exact .ite .rfl (keepsLaunches_setTags ..)

/-! ## Acceptance (R226 to R228, R246) -/

/-- A command joins the queue of its unit, and its tile has one owner more. -/
def State.queueMat (s : State) (id cl : Nat) (c : MatCmd) : State :=
  ((s.take id).modMat cl (fun u => { u with queue := u.queue ++ [c] })).modTile cl c.tile (fun t => { t with owners := t.owners + 1 })
theorem State.queueMat_queue (s : State) (id cl : Nat) (c : MatCmd) :
    ((s.queueMat id cl c).cluster cl).mat.queue = (s.cluster cl).mat.queue ++ [c] := by
  rw [State.queueMat, State.mat_modTile, State.mat_modMat]
  rfl
theorem State.queueMat_owners (s : State) (id cl : Nat) (c : MatCmd) :
    ((s.queueMat id cl c).cluster cl).tile c.tile.val =
      { (s.cluster cl).tile c.tile.val with owners := ((s.cluster cl).tile c.tile.val).owners + 1 } := by
  have same : (((s.take id).modMat cl (fun u => { u with queue := u.queue ++ [c] })).cluster cl).tile c.tile.val =
      (s.cluster cl).tile c.tile.val := Cluster.tile_congr (by rw [State.mat_modMat]; rfl) _
  rw [State.queueMat, State.tile_modTile, if_pos rfl, same]

/-- The oldest command that reaches a unit with a place free is accepted when it breaks no limit, its window translates, no store
waits for a segment it names, and the capability of a sent one is good. -/
theorem acceptMat_free {s : State} {id cl : Nat} {c : MatCmd} {pa : Nat} (home : c.target = cl) (first : s.firstMat cl = some id)
    (unfenced : s.isFenced cl = false) (sound : (s.cluster cl).mat.marked = false)
    (room : (s.cluster cl).mat.queue.length + b2n (s.cluster cl).mat.run.isSome < 16)
    (drained : s.inFlightStores c.name .system = false) (limits : matLimit c = none)
    (window : if c.fn = 4 then s.translateEngine c.name.core c.space c.sup .store c.a = (.ok pa, s) else pa = 0)
    (settled : ∀ p ∈ ({ c with pa := pa } : MatCmd).segs cl, ∀ x ∈ (s.cluster p.1).segWait, x.seg ≠ p.2)
    (admitted : ∀ cap, c.cap = some cap → s.capRefused cl c cap = none) :
    ∃ old oldX, s.acceptMat id c =
      .next ((s.queueMat id cl { c with pa := pa, old := old, oldX := oldX }).accepted c.name) := by
  have good : c.cap.bind (fun cap => (s.capRefused cl c cap).map (fun r => (cap, r))) = none := by
    cases cap : c.cap with
    | none => rfl
    | some v => simp [admitted v cap]
  have placed : (if c.fn = 4 then s.translateEngine c.name.core c.space c.sup .store c.a else (.ok 0, s)) = (.ok pa, s) := by
    split
    next mst => rwa [if_pos mst] at window
    next other => rw [if_neg other] at window; rw [window]
  have free : (decide (16 ≤ (s.cluster cl).mat.queue.length + b2n (s.cluster cl).mat.run.isSome) ||
      s.inFlightStores c.name .system) = false := by simp [drained, room]
  have waits : (({ c with pa := pa } : MatCmd).segs cl).any
      (fun p => (s.cluster p.1).segWait.any (fun w => w.seg == p.2)) = false := by simpa using settled
  refine ⟨s.operandBytes (c.operandClusters cl), s.operandPoison (c.operandClusters cl), ?_⟩
  simp only [State.acceptMat, home]
  refine (if_neg (not_not_intro first)).trans ?_
  simp only [unfenced, good, sound, free, limits, placed, waits, Bool.false_eq_true, if_false]
  rfl

/-! ## Start, operands and completion (R227, R228, R238) -/

/-- The formats of the segments are none of the matrix unit's state. -/
@[simp] theorem State.segWord_modMat (s : State) (cl c n : Nat) (f : MatUnit → MatUnit) : (s.modMat cl f).segWord c n = s.segWord c n := by
  simp only [State.segWord, State.modMat, State.modCluster, State.cluster_setCluster]
  split
  next same => rw [same]
  next => rfl
theorem State.operandStart_modMat (s : State) (k : Nat) (f : MatUnit → MatUnit) (pa fmt len : Nat) :
    (s.modMat k f).operandStart pa fmt len = s.operandStart pa fmt len := by
  unfold State.operandStart
  cases segOf pa with
  | none => rfl
  | some p => dsimp only; rw [State.segWord_modMat]
theorem State.mmaOk_modMat (s : State) (cl k : Nat) (f : MatUnit → MatUnit) (c : MatCmd) (t : TileState) (g : Pairing) :
    (s.modMat k f).mmaOk cl c t g = s.mmaOk cl c t g := by
  unfold State.mmaOk
  dsimp only
  rw [State.operandStart_modMat, State.operandStart_modMat]
theorem State.mstOk_modMat (s : State) (k : Nat) (f : MatUnit → MatUnit) (c : MatCmd) (g : Target) (pa : Nat) :
    (s.modMat k f).mstOk c g pa = s.mstOk c g pa := by
  simp only [State.mstOk, State.segWord_modMat]

/-- The oldest command of a unit that runs none is taken from its queue. -/
def State.startMat (s : State) (cl : Nat) (c : MatCmd) (q : List MatCmd) : State :=
  s.modMat cl (fun u => { u with queue := q, run := some ⟨c, 0, false, false, [], [], 0, none⟩ })

section
variable {s : State} {cl : Nat} {c : MatCmd} {q : List MatCmd} {r : MatRun} (unit : cl < 2048)
include unit

section
variable (idle : (s.cluster cl).mat.run = none) (queue : (s.cluster cl).mat.queue = c :: q)
include idle queue

theorem execMatrixCommandStart_other (mma : c.fn ≠ 0) (mst : c.fn ≠ 4) :
    exec (.matrixCommandStart cl) s = .next (s.startMat cl c q) := by
  have fn0 : c.fn.toNat ≠ 0 := fun h => mma (BitVec.eq_of_toNat_eq h)
  have fn4 : c.fn.toNat ≠ 4 := fun h => mst (BitVec.eq_of_toNat_eq h)
  change execMatrixCommandStart cl s = _
  simp only [execMatrixCommandStart, if_neg (show ¬ 2048 ≤ cl by omega), idle, queue]
  rfl
theorem execMatrixCommandStart_mma {f : Pairing} (mma : c.fn = 0) (pairing : Pairing.ofCode c.fmt.toNat = some f)
    (ok : s.mmaOk cl c ((s.cluster cl).tile c.tile.val) f = true) :
    exec (.matrixCommandStart cl) s = .next (s.startMat cl c q) := by
  have fn : c.fn.toNat = 0 := congrArg BitVec.toNat mma
  change execMatrixCommandStart cl s = _
  simp only [execMatrixCommandStart, if_neg (show ¬ 2048 ≤ cl by omega), idle, queue, fn, pairing, State.mmaOk_modMat, ok, if_true]
  rfl
theorem execMatrixCommandStart_mst {f : Target} (mst : c.fn = 4) (target : Target.ofCode c.fmt.toNat = some f)
    (ok : s.mstOk c f c.pa = true) :
    exec (.matrixCommandStart cl) s = .next (s.startMat cl c q) := by
  have fn : c.fn.toNat = 4 := congrArg BitVec.toNat mst
  change execMatrixCommandStart cl s = _
  simp only [execMatrixCommandStart, if_neg (show ¬ 2048 ≤ cl by omega), idle, queue, fn, target, State.mstOk_modMat, ok, if_true]
  rfl

end

variable (run : (s.cluster cl).mat.run = some r)
include run

section
variable (going : r.finished = false) (held : r.held = none)
include going held

/-- A running MMA whose operands are consumed takes its next block. -/
theorem execMatrixCommandStart_block {f : Pairing} (mma : r.cmd.fn = 0) (consumed : r.consumed = true)
    (pairing : Pairing.ofCode r.cmd.fmt.toNat = some f) : exec (.matrixCommandStart cl) s = .next (s.mmaBlock cl r f) := by
  have fn : r.cmd.fn.toNat = 0 := congrArg BitVec.toNat mma
  change execMatrixCommandStart cl s = _
  simp only [execMatrixCommandStart, if_neg (show ¬ 2048 ≤ cl by omega), run, going, held, fn, pairing, consumed, Option.isSome_none,
    Bool.or_self, Bool.false_eq_true, if_false, if_true]
/-- A running MST takes its next store. -/
theorem execMatrixCommandStart_store {f : Target} (mst : r.cmd.fn = 4) (target : Target.ofCode r.cmd.fmt.toNat = some f) :
    exec (.matrixCommandStart cl) s = .next (s.mstStep cl r f) := by
  have fn : r.cmd.fn.toNat = 4 := congrArg BitVec.toNat mst
  change execMatrixCommandStart cl s = _
  simp only [execMatrixCommandStart, if_neg (show ¬ 2048 ≤ cl by omega), run, going, held, fn, target, Option.isSome_none,
    Bool.or_self, Bool.false_eq_true, if_false]
/-- A running RMAP takes its bytes and sets its tile's map. -/
theorem execMatrixCommandStart_map (rmap : r.cmd.fn = 10) : exec (.matrixCommandStart cl) s =
    .next (((s.consume cl r).1.tileEffect cl (s.consume cl r).2).setMatRun cl { (s.consume cl r).2 with finished := true }) := by
  have fn : r.cmd.fn.toNat = 10 := congrArg BitVec.toNat rmap
  change execMatrixCommandStart cl s = _
  simp only [execMatrixCommandStart, if_neg (show ¬ 2048 ≤ cl by omega), run, going, held, fn, Option.isSome_none,
    Bool.or_self, Bool.false_eq_true, if_false]
/-- Any other running command has its whole effect on its tile. -/
theorem execMatrixCommandStart_effect (other : r.cmd.fn ≠ 0 ∧ r.cmd.fn ≠ 4 ∧ r.cmd.fn ≠ 10) :
    exec (.matrixCommandStart cl) s = .next ((s.tileEffect cl r).setMatRun cl { r with finished := true }) := by
  obtain ⟨mma, mst, rmap⟩ := other
  have fn0 : r.cmd.fn.toNat ≠ 0 := fun h => mma (BitVec.eq_of_toNat_eq h)
  have fn4 : r.cmd.fn.toNat ≠ 4 := fun h => mst (BitVec.eq_of_toNat_eq h)
  have fn10 : r.cmd.fn.toNat ≠ 10 := fun h => rmap (BitVec.eq_of_toNat_eq h)
  change execMatrixCommandStart cl s = _
  simp only [execMatrixCommandStart, if_neg (show ¬ 2048 ≤ cl by omega), run, going, held, Option.isSome_none,
    Bool.or_self, Bool.false_eq_true, if_false]

end

/-- A running MMA takes its operands and sets the tag it enables for that (R238). -/
theorem execOperandsConsumed_running (mma : r.cmd.fn = 0) (needed : r.consumed = false) : exec (.operandsConsumed cl) s =
    .next (r.cmd.otag.foldl (fun s t => s.setTags r.cmd.name.core (BitVec.twoPow 64 t))
      ((s.consume cl r).1.setMatRun cl (s.consume cl r).2)) := by
  change execOperandsConsumed cl s = _
  simp only [execOperandsConsumed, if_neg (show ¬ 2048 ≤ cl by omega), run, mma, needed, ne_eq, not_true_eq_false, Bool.false_eq_true,
    or_self, if_false]
  rfl
/-- A command with nothing left to do ends once the unit's posted stores have performed (R227, R238). -/
theorem execMatrixCommandComplete_finished (finished : r.finished = true) (held : r.held = none)
    (performed : s.postedBy (.engine (2048 + cl)) (fun _ => true) = false) :
    exec (.matrixCommandComplete cl) s = .next (s.endMat cl r r.cmd.ctag) := by
  change execMatrixCommandComplete cl s = _
  simp [execMatrixCommandComplete, show ¬ 2048 ≤ cl by omega, run, finished, held, matEngine, performed]

end

/-! ## Elements of a tile (R58, R224) -/

@[simp] theorem TileState.elem_setElem (t : TileState) (i j : Nat) (e : Acc) :
    (t.setElem i e).elem j = if i = j then e else t.elem j := mget_mput ..
/-- An element whose every new value is one and the same takes it; one with no new value stays. -/
theorem TileState.elem_foldl_setElem {α : Type} {new : List (Nat × (Acc × α))} {t : TileState} {i : Nat} {e : Acc}
    (one : ∀ p ∈ new, p.1 = i → p.2.1 = e) (some' : t.elem i = e ∨ ∃ p ∈ new, p.1 = i) :
    (new.foldl (fun t p => t.setElem p.1 p.2.1) t).elem i = e := by
  induction new generalizing t with
  | nil => simpa using some'
  | cons p new ih =>
    refine ih (fun q later => one q (List.mem_cons_of_mem _ later)) ?_
    rw [TileState.elem_setElem]
    by_cases here : p.1 = i
    · exact .inl (by rw [if_pos here, one p List.mem_cons_self here])
    · rw [if_neg here]
      simpa [here] using some'

/-! ## Contributions that cannot saturate (R60, R61) -/

/-- A finite contribution that keeps a number within the accumulator adds its floored value (R60). -/
theorem accadd_within {el : Acc} {n : Bool} {m : Nat} {e ref : Int} (number : el.nan = false) (below : el.ovf = false)
    (low : satmax true ≤ el.x + flooredQ (.fin n m e) ref) (high : el.x + flooredQ (.fin n m e) ref ≤ satmax false) :
    (accadd el (.fin n m e) ref).1 = { el with x := el.x + flooredQ (.fin n m e) ref } := by
  simp only [flooredQ] at low high
  simp only [accadd, number, below, Bool.or_self, Bool.false_eq_true, if_false, flooredQ, if_neg (not_lt.mpr high),
    if_neg (not_lt.mpr low)]
/-- The sum of the positive, and of the negative, floored values of some contributions. -/
def rises (cs : List (Val × FlagBits)) (ref : Int) : Int := ((cs.map (fun c => flooredQ c.1 ref)).filter (fun x => decide (0 < x))).sum
def falls (cs : List (Val × FlagBits)) (ref : Int) : Int := ((cs.map (fun c => flooredQ c.1 ref)).filter (fun x => decide (x < 0))).sum
theorem rises_cons (c : Val × FlagBits) (cs : List (Val × FlagBits)) (ref : Int) :
    rises (c :: cs) ref = max 0 (flooredQ c.1 ref) + rises cs ref := by
  simp only [rises, List.map_cons, List.filter_cons, decide_eq_true_eq]
  split
  · rw [List.sum_cons]; omega
  · omega
theorem falls_cons (c : Val × FlagBits) (cs : List (Val × FlagBits)) (ref : Int) :
    falls (c :: cs) ref = min 0 (flooredQ c.1 ref) + falls cs ref := by
  simp only [falls, List.map_cons, List.filter_cons, decide_eq_true_eq]
  split
  · rw [List.sum_cons]; omega
  · omega
theorem rises_nonneg (cs : List (Val × FlagBits)) (ref : Int) : 0 ≤ rises cs ref := by
  induction cs with
  | nil => exact le_rfl
  | cons c cs ih => rw [rises_cons]; omega
theorem falls_nonpos (cs : List (Val × FlagBits)) (ref : Int) : falls cs ref ≤ 0 := by
  induction cs with
  | nil => exact le_rfl
  | cons c cs ih => rw [falls_cons]; omega

/-- One contribution to an element, with the flags it raises. -/
def accStep (ref : Int) (p : Acc × FlagBits) (c : Val × FlagBits) : Acc × FlagBits :=
  ((accadd p.1 c.1 ref).1, p.2 ||| (accadd p.1 c.1 ref).2 ||| c.2)
/-- Finite contributions of which no sum on the way saturates add up (R61). -/
theorem foldl_accStep {cs : List (Val × FlagBits)} {ref : Int} {el : Acc} {fl : FlagBits} (number : el.nan = false)
    (below : el.ovf = false) (finite : ∀ c ∈ cs, ∃ n m e, c.1 = .fin n m e) (high : el.x + rises cs ref ≤ satmax false)
    (low : satmax true ≤ el.x + falls cs ref) :
    (cs.foldl (accStep ref) (el, fl)).1 = { el with x := el.x + (cs.map (fun c => flooredQ c.1 ref)).sum } := by
  induction cs generalizing el fl with
  | nil => simp
  | cons c cs ih =>
    have up := rises_nonneg cs ref
    have down := falls_nonpos cs ref
    rw [rises_cons] at high
    rw [falls_cons] at low
    obtain ⟨n, m, e, value⟩ := finite c List.mem_cons_self
    have step : (accadd el c.1 ref).1 = { el with x := el.x + flooredQ c.1 ref } := by
      rw [value] at high low ⊢
      exact accadd_within number below (by omega) (by omega)
    rw [List.foldl_cons, accStep, step]
    refine (ih (el := { el with x := el.x + flooredQ c.1 ref }) number below (fun d later => finite d (List.mem_cons_of_mem _ later))
      ?_ ?_).trans ?_
    · change el.x + flooredQ c.1 ref + rises cs ref ≤ _
      omega
    · change _ ≤ el.x + flooredQ c.1 ref + falls cs ref
      omega
    · rw [List.map_cons, List.sum_cons, Int.add_assoc]
/-- A block whose contributions are finite and give one result in every order gives an element their sum (R61, R235). -/
theorem accBlock_orderFree {fresh : Nat} {el : Acc} {cs : List (Val × FlagBits)} {ref : Int} (free : orderFree el cs ref = true)
    (number : el.nan = false) (below : el.ovf = false) (finite : ∀ c ∈ cs, ∃ n m e, c.1 = .fin n m e) :
    (accBlock fresh el cs ref).1.x = el.x + (cs.map (fun c => flooredQ c.1 ref)).sum ∧ (accBlock fresh el cs ref).1.nan = false ∧
      (accBlock fresh el cs ref).1.ovf = false := by
  have bounds := free
  simp only [orderFree, Bool.and_eq_true, decide_eq_true_eq] at bounds
  obtain ⟨⟨high, low⟩, -⟩ := bounds
  have sum := foldl_accStep (fl := 0) number below finite high low
  unfold accBlock
  dsimp only
  rw [if_pos free]
  change (cs.foldl (accStep ref) (el, 0)).1.x = _ ∧ (cs.foldl (accStep ref) (el, 0)).1.nan = _ ∧
    (cs.foldl (accStep ref) (el, 0)).1.ovf = _
  rw [sum]
  exact ⟨rfl, number, below⟩

/-! ## The elements of a block (R231, R235, R242) -/

/-- The A row of an active output row is the one that its map byte names. -/
theorem TileState.mem_activeRows {t : TileState} {p : Nat × Nat} (h : p ∈ t.activeRows) :
    p.2 = (t.rowMap.toList.getD p.1 0).toNat % 64 := by
  simp only [TileState.activeRows, List.mem_filterMap] at h
  obtain ⟨row, -, active⟩ := h
  split at active
  · obtain rfl := Option.some.inj active
    rfl
  · cases active
/-- No more than 64 columns are in use (R242). -/
theorem or64_le {n : Nat} (h : n < 64) : or64 n ≤ 64 := by unfold or64; split <;> omega
theorem TileState.bcols_le (t : TileState) : t.bcols ≤ 64 := or64_le (fld_lt t.tshape 13 8)

/-- Each element of a block has one entry, at its own place. -/
theorem mem_blockElems {s : State} {cl : Nat} {r : MatRun} {f : Pairing} {fresh : Nat} {q : Nat × (Acc × FlagBits × Bool)} :
    let t := (s.cluster cl).tile r.cmd.tile.val
    q ∈ s.blockElems cl r f fresh ↔ ∃ p ∈ t.activeRows, ∃ col < t.bcols, q = (p.1 * 64 + col,
      accBlock (fresh + (p.1 * 64 + col)) (t.elem (p.1 * 64 + col)) (blockContribs s cl r t f r.block p.2 col) t.ref) := by
  simp only [State.blockElems, List.mem_flatMap, List.mem_map, List.mem_range, eq_comm (a := q)]
/-- An element of an active row and a column in use takes the block's value for it. -/
theorem elem_blockElems {s : State} {cl : Nat} {r : MatRun} {f : Pairing} {fresh : Nat} {u : TileState} {p : Nat × Nat} {col : Nat}
    (row : p ∈ ((s.cluster cl).tile r.cmd.tile.val).activeRows) (column : col < ((s.cluster cl).tile r.cmd.tile.val).bcols) :
    let t := (s.cluster cl).tile r.cmd.tile.val
    ((s.blockElems cl r f fresh).foldl (fun t p => t.setElem p.1 p.2.1) u).elem (p.1 * 64 + col) =
      (accBlock (fresh + (p.1 * 64 + col)) (t.elem (p.1 * 64 + col)) (blockContribs s cl r t f r.block p.2 col) t.ref).1 := by
  intro t
  refine TileState.elem_foldl_setElem (fun q member place => ?_) (.inr ⟨_, mem_blockElems.mpr ⟨p, row, col, column, rfl⟩, rfl⟩)
  obtain ⟨p', row', col', column', rfl⟩ := mem_blockElems.mp member
  have wide := t.bcols_le
  change col < t.bcols at column
  change col' < t.bcols at column'
  change p'.1 * 64 + col' = p.1 * 64 + col at place
  have same : p'.1 = p.1 := by omega
  obtain rfl : col' = col := by omega
  obtain rfl : p' = p := Prod.ext same (by rw [TileState.mem_activeRows row, TileState.mem_activeRows row', same])
  rfl

/-! ## Asynchronous messages and flares (R398, R407) -/

theorem keepsUnits_sendRecord (s : State) (core : Nat) (r : Record) : KeepsUnits s (s.sendRecord core r) := keepsUnits_send ..
theorem keepsUnits_sendAsync (s : State) (issuer : TName) (launch : Word) (f : RecordFields) :
    KeepsUnits s (s.sendAsync issuer launch f) := by
  unfold State.sendAsync
  split
  · refine (keepsUnits_markFault s launch).trans (.ite (.beside ⟨rfl, rfl, rfl, rfl⟩) (keepsUnits_sendRecord ..))
  · exact .ite (.beside ⟨rfl, rfl, rfl, rfl⟩) (.beside ⟨rfl, rfl, rfl, rfl⟩)
theorem keepsUnits_markUnit (s : State) (locn : Nat) : KeepsUnits s (s.markUnit locn).2 := by
  unfold State.markUnit
  split
  · exact .beside ⟨rfl, rfl, rfl, rfl⟩
  · exact .rfl
theorem keepsUnits_logEntry (s : State) (sev : Nat) (repair : Bool) (cause loc : Nat) (who what : Word) :
    KeepsUnits s (s.logEntry sev repair cause loc who what) := .beside ⟨rfl, rfl, rfl, rfl⟩
theorem keepsUnits_flare (s : State) (hop : Nat) (issuer : TName) (eng : Option Nat) (launch pc w2 w3 : Word) (rowp locn : Nat)
    (w7 : Word) : KeepsUnits s (s.flare hop issuer eng launch pc w2 w3 rowp locn w7) := by
  have unit := keepsUnits_markUnit s locn
  unfold State.flare
  generalize s.markUnit locn = marked at unit ⊢
  obtain ⟨room, u⟩ := marked
  have told (who : Word) : KeepsUnits s ((u.logEntry 2 room 0x19 locn who w2).markFault launch) :=
    unit.trans ((keepsUnits_logEntry ..).trans (keepsUnits_markFault ..))
  dsimp only
  split
  · exact (told _).trans (.ite (.beside ⟨rfl, rfl, rfl, rfl⟩) (.beside ⟨rfl, rfl, rfl, rfl⟩))
  · exact (told _).trans (keepsUnits_sendAsync ..)

/-! ## K-blocks of an MMA (R235 to R237) -/

/-- The elements of a block taken into the tile, with its row poison, and the run moved on by a block. -/
def State.takeBlock (s : State) (cl : Nat) (r : MatRun) (poison : BitVec 64) (new : List (Nat × (Acc × FlagBits × Bool))) : State :=
  (s.modTile cl r.cmd.tile (fun t => new.foldl (fun t p => t.setElem p.1 p.2.1) { t with rowPoison := poison })).setMatRun cl
    { r with
      block := r.block + 1
      flags := new.foldl (fun fl p => fl ||| p.2.2.1) r.flags
      finished := decide (fld r.cmd.c 11 0 ≤ r.block + 1) }
/-- A block whose residues agree is taken. -/
theorem mmaBlock_agrees {s : State} {cl : Nat} {r : MatRun} {f : Pairing} (agrees : mismatchOf (s.blockElems cl r f s.fresh) = none) :
    ∃ poison, s.mmaBlock cl r f =
      State.takeBlock { s with fresh := s.fresh + 4096 } cl r poison (s.blockElems cl r f s.fresh) := by
  unfold State.mmaBlock
  dsimp only
  rw [agrees]
  exact ⟨_, rfl⟩

/-- The second state has the memory of the first, and but for one tile its tiles. -/
structure OneTile (cl : Nat) (t : Tile) (s u : State) : Prop where
  mem : u.mem = s.mem
  tiles : ∀ i : Tile, i ≠ t → (u.cluster cl).tile i.val = (s.cluster cl).tile i.val
theorem OneTile.trans {cl : Nat} {t : Tile} {s u v : State} (h : OneTile cl t s u) (k : OneTile cl t u v) : OneTile cl t s v :=
  ⟨k.mem.trans h.mem, fun i other => (k.tiles i other).trans (h.tiles i other)⟩
theorem OneTile.of_keepsUnits {cl : Nat} {t : Tile} {s u : State} (h : KeepsUnits s u) : OneTile cl t s u :=
  ⟨h.mem, fun _ _ => by rw [State.cluster_eq h.clusters]⟩
theorem oneTile_modTile (s : State) (cl : Nat) (t : Tile) (f : TileState → TileState) : OneTile cl t s (s.modTile cl t f) :=
  ⟨rfl, fun i other => by rw [State.tile_modTile, if_neg (Ne.symm other)]⟩
theorem oneTile_setMatRun (s : State) (cl : Nat) (t : Tile) (r : MatRun) : OneTile cl t s (s.setMatRun cl r) :=
  ⟨rfl, fun _ _ => State.tile_setMatRun ..⟩
/-- A change of the unit beside its tiles. -/
theorem oneTile_modMat (s : State) (cl : Nat) (t : Tile) {f : MatUnit → MatUnit} (tiles : ∀ u, (f u).tiles = u.tiles) :
    OneTile cl t s (s.modMat cl f) := ⟨rfl, fun i _ => Cluster.tile_congr (by rw [State.mat_modMat, tiles]) i⟩
theorem oneTile_endMat (s : State) (cl : Nat) (r : MatRun) (tags : List Nat) : OneTile cl r.cmd.tile s (s.endMat cl r tags) := by
  obtain ⟨clusters, mem⟩ := endMat_frame s cl r tags
  have ended := (oneTile_modMat s cl r.cmd.tile (f := fun u => { u with run := none }) fun _ => rfl).trans
    (oneTile_modTile _ cl r.cmd.tile TileState.unlock)
  exact ⟨mem, fun i other => by rw [State.cluster_eq clusters, ended.tiles i other]⟩
theorem oneTile_residueFail (s : State) (cl : Nat) (r : MatRun) (active : List Nat) (row col : Nat) :
    OneTile cl r.cmd.tile s (s.residueFail cl r active row col) := by
  unfold State.residueFail
  exact (oneTile_modTile ..).trans ((OneTile.of_keepsUnits (keepsUnits_flare ..)).trans
    (OneTile.trans (oneTile_modMat _ cl r.cmd.tile (f := fun u => { u with marked := true }) fun _ => rfl) (oneTile_endMat ..)))
theorem oneTile_takeBlock (s : State) (cl : Nat) (r : MatRun) (poison : BitVec 64) (new : List (Nat × (Acc × FlagBits × Bool))) :
    OneTile cl r.cmd.tile s (s.takeBlock cl r poison new) := (oneTile_modTile ..).trans (oneTile_setMatRun ..)
/-- A block touches its own tile alone, whether its residues agree at once, agree when it is computed again, or do not. -/
theorem oneTile_mmaBlock (s : State) (cl : Nat) (r : MatRun) (f : Pairing) : OneTile cl r.cmd.tile s (s.mmaBlock cl r f) := by
  have fresh (n : Nat) : OneTile cl r.cmd.tile s { s with fresh := n } := .of_keepsUnits (.beside ⟨rfl, rfl, rfl, rfl⟩)
  unfold State.mmaBlock
  dsimp only
  split
  · exact (fresh _).trans (oneTile_takeBlock ..)
  · split
    · exact (fresh _).trans ((oneTile_takeBlock ..).trans (.of_keepsUnits (keepsUnits_logEntry ..)))
    · exact (fresh _).trans (oneTile_residueFail ..)

theorem takeBlock_block (s : State) (cl : Nat) (r : MatRun) (poison : BitVec 64) (new : List (Nat × (Acc × FlagBits × Bool))) :
    ((s.takeBlock cl r poison new).cluster cl).mat.run.map (fun x => x.block) = some (r.block + 1) := by
  rw [State.takeBlock, State.mat_setMatRun]
  rfl
theorem takeBlock_tile (s : State) (cl : Nat) (r : MatRun) (poison : BitVec 64) (new : List (Nat × (Acc × FlagBits × Bool))) :
    ((s.takeBlock cl r poison new).cluster cl).tile r.cmd.tile.val =
      new.foldl (fun t p => t.setElem p.1 p.2.1) { (s.cluster cl).tile r.cmd.tile.val with rowPoison := poison } := by
  rw [State.takeBlock, State.tile_setMatRun, State.tile_modTile, if_pos rfl]

/-! ## Commands that set a tile whole (R241, R242) -/

theorem oneTile_tileEffect (s : State) (cl : Nat) (r : MatRun) : OneTile cl r.cmd.tile s (s.tileEffect cl r) := by
  unfold State.tileEffect
  exact oneTile_modTile ..
/-- MMAZ, MCLR, MFMT and MSCALE give their tile its new state. -/
theorem tileEffect_tile (s : State) (cl : Nat) {r : MatRun} (fn : r.cmd.fn = 1 ∨ r.cmd.fn = 2 ∨ r.cmd.fn = 5 ∨ r.cmd.fn = 6) :
    let x := (s.cluster cl).tile r.cmd.tile.val
    ((s.tileEffect cl r).cluster cl).tile r.cmd.tile.val =
      if r.cmd.fn = 1 then { x with elems := [], rowPoison := 0, ref := r.cmd.a.toInt }
      else if r.cmd.fn = 2 then { x with elems := [], rowPoison := 0 }
      else if r.cmd.fn = 5 then { x with tshape := r.cmd.a }
      else { x with ua := BitVec.ofNat 8 r.cmd.a.toNat, ub := BitVec.ofNat 8 r.cmd.b.toNat } := by
  rw [State.tileEffect, State.tile_modTile, if_pos rfl]
  rcases fn with mmaz | mclr | mfmt | mscale
  · rw [mmaz]; rfl
  · rw [mclr]; rfl
  · rw [mfmt]; rfl
  · rw [mscale]; rfl

/-! ## The bytes of a row map (R234, R242) -/

theorem mget_append {α : Type} (l m : List (Nat × α)) (k : Nat) : mget (l ++ m) k = (mget l k).or (mget m k) := by
  induction l with
  | nil => rfl
  | cons p l ih =>
    obtain ⟨j, v⟩ := p
    by_cases here : j = k
    · simp [mget, here]
    · simpa [mget, here] using ih
/-- A map without the keys that fail a test. -/
theorem mget_filter {α : Type} (p : Nat → Bool) (l : List (Nat × α)) (k : Nat) :
    mget (l.filter (fun x => p x.1)) k = if p k then mget l k else none := by
  induction l with
  | nil => simp [mget]
  | cons x l ih =>
    obtain ⟨j, v⟩ := x
    rw [List.filter_cons]
    by_cases here : j = k
    · subst here
      split
      next kept => simp [mget]
      next dropped => rw [ih, if_neg dropped]
    · split
      · simpa [mget, here] using ih
      · simpa [mget, here] using ih
/-- Where the old and the new entries are the same, it does not matter which of them a flit shows (R234). -/
theorem mget_mixed {α : Type} (old : Nat → Bool) (l : List (Nat × α)) (k : Nat) :
    mget (l.filter (fun x => old x.1) ++ l.filter (fun x => !old x.1)) k = mget l k := by
  rw [mget_append, mget_filter old, mget_filter (fun x => !old x)]
  cases old k <;> simp
theorem contains_mixed (old : Nat → Bool) (l : List Nat) (k : Nat) :
    (l.filter old ++ l.filter (fun x => !old x)).contains k = l.contains k := by
  rw [Bool.eq_iff_iff]
  simp only [List.contains_iff_mem, List.mem_append, List.mem_filter]
  cases old k <;> simp

/-- Where no word is in error, taking the operands uses one free value and no more. -/
theorem consume_sound {s : State} (sound : s.wordErrors = []) (cl : Nat) (r : MatRun) :
    let old (pa : Nat) : Bool := Config.flitOld s.fresh (pa / 16)
    let cls := r.cmd.operandClusters cl
    s.consume cl r = (s.bump, { r with
      consumed := true
      operands := r.cmd.old.filter (fun p => old p.1) ++ (s.operandBytes cls).filter (fun p => !old p.1)
      poisoned := r.cmd.oldX.filter old ++ (s.operandPoison cls).filter (fun w => !old w) }) := by
  unfold State.consume
  rw [sound]
  rfl
theorem foldl_setBit {f : Nat → Bool} {n i : Nat} (l : List Nat) (m : BitVec n) (h : i < n) :
    (l.foldl (fun b j => setBit b j (f j)) m).getLsbD i = if i ∈ l then f i else m.getLsbD i := by
  induction l generalizing m with
  | nil => simp
  | cons j l ih =>
    rw [List.foldl_cons, ih, setBit_get]
    by_cases later : i ∈ l
    · simp [later]
    · by_cases here : j = i
      · simp [here, h]
      · simp [later, here, Ne.symm here]
/-- RMAP gives its tile the bytes and the poison marks that its run holds (R242). -/
theorem tileEffect_map {s : State} {cl : Nat} {r : MatRun} (rmap : r.cmd.fn = 10) (i : Nat) (h : i < 64) :
    let t := ((s.tileEffect cl r).cluster cl).tile r.cmd.tile.val
    t.rowMap[i] = (mget r.operands (operandPa cl r.cmd.a + i)).getD 0 ∧
      t.mapPoison.getLsbD i = r.poisoned.contains ((operandPa cl r.cmd.a + i) / 8 * 8) := by
  rw [State.tileEffect, State.tile_modTile, if_pos rfl, rmap]
  refine ⟨vecOf_get _ i h, ?_⟩
  exact (foldl_setBit (List.range 64) 0 h).trans (if_pos (List.mem_range.mpr h))
/-- Where no store fell between its acceptance and its start, RMAP takes the bytes and the poison of memory. -/
theorem map_taken {s : State} {cl : Nat} {r : MatRun} (rmap : r.cmd.fn = 10) (sound : s.wordErrors = [])
    (bytes : r.cmd.old = s.operandBytes (r.cmd.operandClusters cl)) (marks : r.cmd.oldX = s.operandPoison (r.cmd.operandClusters cl))
    (i : Nat) (h : i < 64) (cell : operandCell (r.cmd.operandClusters cl) (operandPa cl r.cmd.a + i) = true) :
    let t := (((s.consume cl r).1.tileEffect cl (s.consume cl r).2).cluster cl).tile r.cmd.tile.val
    t.rowMap[i] = Memory.read s.mem (operandPa cl r.cmd.a + i) ∧
      t.mapPoison.getLsbD i = (s.operandPoison (r.cmd.operandClusters cl)).contains ((operandPa cl r.cmd.a + i) / 8 * 8) := by
  rw [consume_sound sound, bytes, marks]
  obtain ⟨map, poison⟩ := tileEffect_map (s := s.bump) (cl := cl) (r := { r with
    consumed := true
    operands := (s.operandBytes (r.cmd.operandClusters cl)).filter (fun p => Config.flitOld s.fresh (p.1 / 16)) ++
      (s.operandBytes (r.cmd.operandClusters cl)).filter (fun p => !Config.flitOld s.fresh (p.1 / 16))
    poisoned := (s.operandPoison (r.cmd.operandClusters cl)).filter (fun w => Config.flitOld s.fresh (w / 16)) ++
      (s.operandPoison (r.cmd.operandClusters cl)).filter (fun w => !Config.flitOld s.fresh (w / 16)) }) rmap i h
  refine ⟨map.trans ?_, poison.trans (contains_mixed (fun w => Config.flitOld s.fresh (w / 16)) _ _)⟩
  dsimp only
  rw [mget_mixed (fun pa => Config.flitOld s.fresh (pa / 16)), State.operandBytes, mget_filter, if_pos cell]
  rfl

/-! ## Stores of an MST (R209, R244) -/

section
variable {s : State} {cl : Nat} {r : MatRun} {f : Target}

/-- After its last store an MST has only its completion left. -/
theorem mstStep_last (done : (mstStores ((s.cluster cl).tile r.cmd.tile.val) r.cmd f)[r.block]? = none) :
    s.mstStep cl r f = s.setMatRun cl { r with finished := true } := by
  unfold State.mstStep
  dsimp only
  rw [done]
/-- A store that is no whole flit is posted alone, to the address its window translates to. -/
theorem mstStep_store {st : MstStore} {pa : Nat}
    (next : (mstStores ((s.cluster cl).tile r.cmd.tile.val) r.cmd f)[r.block]? = some (st, none))
    (address : s.translateEngine r.cmd.name.core r.cmd.space r.cmd.sup .store st.va = (.ok pa, s)) (reached : s.engineFault pa = none) :
    ∃ flags, s.mstStep cl r f = (s.sendEngine (matEngine cl) (mstAccess cl r.cmd st pa) none).setMatRun cl
      { r with block := r.block + 1, flags := flags } := by
  unfold State.mstStep
  dsimp only
  rw [next]
  dsimp only
  rw [address]
  dsimp only
  rw [reached]
  exact ⟨_, rfl⟩
end

/-- A posted store of a matrix unit is one message, through the gateway of its die when its bank lies off it (R207). -/
theorem sendEngine_mat (s : State) {cl : Nat} (unit : cl < 2048) (a : Access) :
    ∃ m, (s.sendEngine (matEngine cl) a none).flight = s.flight ++ [m] ∧
      m.msg = if offDie (cl / 256) a.pa then .toBridge (cl / 256) a none else a.msg := by
  have die : matEngine cl % 2048 / 256 = cl / 256 := by unfold matEngine; omega
  unfold State.sendEngine
  rw [die]
  obtain ⟨due, sent⟩ := State.send_flight s (path 3 (bankOf a.pa) (2 ^ 20 + matEngine cl))
    (if offDie (cl / 256) a.pa then .toBridge (cl / 256) a none else a.msg)
  exact ⟨_, sent, rfl⟩

/-- A single aligned element of a word is one store of its own bytes. -/
theorem wordStores_single {es w p v : Nat} {x : Bool} (whole : es = 8 → w = p ∧ p % 8 = 0) :
    wordStores es w [(p, v, x)] = [⟨BitVec.ofNat 64 p, es, v, x⟩] := by
  unfold wordStores
  by_cases eight : es = 8
  · obtain ⟨rfl, aligned⟩ := whole eight
    simp [eight, aligned]
  · simp [eight]
theorem wordStores_nil (es w : Nat) : wordStores es w [] = [] := by simp [wordStores]
/-- A single aligned element is stored alone. -/
theorem flitStores_single {es p v : Nat} {x : Bool} (aligned : es = 8 → p % 8 = 0) :
    flitStores es (p / 16 * 16, [(p, v, x)]) = [(⟨BitVec.ofNat 64 p, es, v, x⟩, none)] := by
  unfold flitStores
  by_cases low : p % 16 < 8
  · have lo := wordStores_single (w := p / 16 * 16) (v := v) (x := x) (fun eight => ⟨by have := aligned eight; omega, aligned eight⟩)
    simp [low, lo, wordStores_nil]
  · have hi := wordStores_single (w := p / 16 * 16 + 8) (v := v) (x := x) (fun eight => ⟨by have := aligned eight; omega, aligned eight⟩)
    simp [low, hi, wordStores_nil, show 8 ≤ p % 16 by omega]
/-- An MST of one element stores its readout, with its row's poison. -/
theorem mstStores_single {t : TileState} {c : MatCmd} {f : Target} (rows : mstRows c.b = 1) (cols : mstCols c.b = 1)
    (aligned : c.a.toNat % f.bytes = 0) : mstStores t c f = [(⟨c.a, f.bytes,
      (readout (t.elem (mstRow0 c.b * 64 + mstCol0 c.b)) t.ref f).1, t.rowPoison.getLsbD (mstRow0 c.b)⟩, none)] := by
  have whole : f.bytes = 8 → c.a.toNat % 8 = 0 := fun eight => eight ▸ aligned
  have place : c.a.toNat % 2 ^ 64 = c.a.toNat := Nat.mod_eq_of_lt c.a.isLt
  simp only [mstStores, mstElems, rows, cols, List.range_one, List.flatMap_cons, List.flatMap_nil, List.map_cons, List.map_nil,
    Nat.zero_mul, Nat.add_zero, List.append_nil, List.foldl_cons, List.foldl_nil, gatherFlit, place, flitStores_single whole,
    BitVec.ofNat_toNat, BitVec.setWidth_eq]

/-- A command in a queue shows what it names and the owners of its tile. -/
theorem queueMat_accepts (s : State) (id cl : Nat) (c : MatCmd) (pa : Nat) (old : List (Nat × BitVec 8)) (oldX : List Nat) :
    let u := s.queueMat id cl { c with pa := pa, old := old, oldX := oldX }
    (u.cluster cl).mat.queue.map (fun x => (x.fn, x.tile, x.a, x.b, x.c)) =
        (s.cluster cl).mat.queue.map (fun x => (x.fn, x.tile, x.a, x.b, x.c)) ++ [(c.fn, c.tile, c.a, c.b, c.c)] ∧
      ((u.cluster cl).tile c.tile.val).owners = ((s.cluster cl).tile c.tile.val).owners + 1 ∧ u.mem = s.mem := by
  refine ⟨?_, congrArg TileState.owners (s.queueMat_owners id cl { c with pa := pa, old := old, oldX := oldX }), rfl⟩
  rw [State.queueMat_queue, List.map_append]
  rfl

theorem oneTile_consume (s : State) (cl : Nat) (r : MatRun) (t : Tile) : OneTile cl t s (s.consume cl r).1 := by
  obtain ⟨mem, -, clusters, -⟩ := consume_frame s cl r
  exact ⟨mem, fun i _ => by rw [State.cluster_eq clusters]⟩
/-- A command that sets its tile whole has only its completion left, and touches no other tile. -/
theorem execMatrixCommandStart_sets {s : State} {cl : Nat} {r : MatRun} (unit : cl < 2048) (run : (s.cluster cl).mat.run = some r)
    (going : r.finished = false) (held : r.held = none)
    (fn : r.cmd.fn = 1 ∨ r.cmd.fn = 2 ∨ r.cmd.fn = 5 ∨ r.cmd.fn = 6 ∨ r.cmd.fn = 10) :
    ∃ t u, ∃ x : MatRun, exec (.matrixCommandStart cl) s = .next u ∧ u = (t.tileEffect cl x).setMatRun cl { x with finished := true } ∧
      x.cmd = r.cmd ∧ OneTile cl r.cmd.tile s u ∧ (r.cmd.fn ≠ 10 → t = s) := by
  have ends (t : State) (x : MatRun) : OneTile cl x.cmd.tile t ((t.tileEffect cl x).setMatRun cl { x with finished := true }) :=
    (oneTile_tileEffect t cl x).trans (oneTile_setMatRun ..)
  by_cases rmap : r.cmd.fn = 10
  · obtain ⟨-, -, -, bytes, marks, taken⟩ := consume_frame s cl r
    have cmd : (s.consume cl r).2.cmd = r.cmd := by rw [taken]
    exact ⟨_, _, _, execMatrixCommandStart_map unit run going held rmap, rfl, cmd,
      (oneTile_consume s cl r _).trans (cmd ▸ ends _ _), fun other => absurd rmap other⟩
  · have other : r.cmd.fn ≠ 0 ∧ r.cmd.fn ≠ 4 ∧ r.cmd.fn ≠ 10 := by
      refine ⟨?_, ?_, rmap⟩
      · rcases fn with h | h | h | h | h <;> rw [h] <;> decide
      · rcases fn with h | h | h | h | h <;> rw [h] <;> decide
    exact ⟨s, _, r, execMatrixCommandStart_effect unit run going held other, rfl, rfl, ends s r, fun _ => rfl⟩

/-- The run holds the operands, no tile changes, and the tag that the MMA enables for it is set (R238). -/
theorem operandsConsumed_frame (s : State) (cl : Nat) {r : MatRun} (mma : r.cmd.fn = 0) :
    let u := r.cmd.otag.foldl (fun s t => s.setTags r.cmd.name.core (BitVec.twoPow 64 t))
      ((s.consume cl r).1.setMatRun cl (s.consume cl r).2)
    (u.cluster cl).mat.run.map (fun x => x.consumed) = some true ∧ (u.cluster cl).mat.tiles = (s.cluster cl).mat.tiles ∧
      (bit r.cmd.c 23 = true → (u.core r.cmd.name.core).tags.getLsbD (fld r.cmd.c 21 16) = true) := by
  obtain ⟨-, -, clusters, bytes, marks, taken⟩ := consume_frame s cl r
  have unit : (((s.consume cl r).1.setMatRun cl (s.consume cl r).2).cluster cl).mat =
      { (s.cluster cl).mat with run := some { r with consumed := true, operands := bytes, poisoned := marks } } := by
    rw [State.mat_setMatRun, taken, State.cluster_eq clusters]
  cases tagged : bit r.cmd.c 23 with
  | true =>
    rw [MatCmd.otag, if_pos ⟨mma, tagged⟩, List.foldl_cons, List.foldl_nil]
    dsimp only
    rw [State.cluster_eq (setTags_frame ..).1, unit]
    exact ⟨rfl, rfl, fun _ => setTags_tagged _ _ (fld_lt r.cmd.c 21 16)⟩
  | false =>
    rw [MatCmd.otag, if_neg (by simp [tagged]), List.foldl_nil]
    dsimp only
    rw [unit]
    exact ⟨rfl, rfl, nofun⟩

/-- Settles O35: each step runs on the premises to one update of the unit or its tile, and what the steps do besides touches no other
tile, no byte and no launch's flags. -/
theorem matrixUnitSteps : Obligations.MatrixUnitSteps := by
  unfold Obligations.MatrixUnitSteps
  intro s id cl pa c r q unit k tile accepts
  refine ⟨fun home first unfenced sound room drained limits window settled => ?_, fun idle queue => ⟨?_, ?_, ?_⟩,
    fun run going held fn => ?_, fun f run mma going held consumed pairing => ?_, fun f run mst going held target => ⟨?_, ?_, ?_⟩,
    fun run rmap going held sound => ?_, fun run mma needed => ?_, fun run finished held performed owned => ?_⟩
  · have accepted (admitted : ∀ cap, c.cap = some cap → s.capRefused cl c cap = none) :
        ∃ u, s.acceptMat id c = .next (u.accepted c.name) ∧ accepts u := by
      obtain ⟨old, oldX, taken⟩ := acceptMat_free home first unfenced sound room drained limits window settled admitted
      exact ⟨_, taken, queueMat_accepts s id cl c pa old oldX⟩
    refine ⟨fun sent none => ?_, fun cap sent some' good => ?_⟩
    · change ∃ u, execMatrixCommandAccept id s = _ ∧ _
      rw [execMatrixCommandAccept, sent]
      exact accepted (by simp [none])
    · change ∃ u, execMsendArrival id s = _ ∧ _
      rw [execMsendArrival, sent]
      exact accepted (by simp [some', good])
  · exact execMatrixCommandStart_other unit idle queue
  · exact fun f => execMatrixCommandStart_mma unit idle queue
  · exact fun f => execMatrixCommandStart_mst unit idle queue
  · obtain ⟨t, u, x, starts, rfl, cmd, frame, same⟩ := execMatrixCommandStart_sets unit run going held fn
    refine ⟨_, _, starts, congrArg MatUnit.run (State.mat_setMatRun ..), rfl, cmd, frame.mem, frame.tiles, fun other => ?_⟩
    obtain rfl := same other
    rw [State.tile_setMatRun, ← cmd]
    exact tileEffect_tile t cl (by rw [cmd]; tauto)
  · refine ⟨_, execMatrixCommandStart_block unit run going held mma consumed pairing, (oneTile_mmaBlock ..).mem,
      (oneTile_mmaBlock ..).tiles, fun agrees => ?_⟩
    obtain ⟨poison, taken⟩ := mmaBlock_agrees agrees
    rw [taken]
    refine ⟨takeBlock_block .., fun p row col column => ?_⟩
    intro before after cs free number below finite
    have value : after = (accBlock (s.fresh + (p.1 * 64 + col)) before cs (tile r.cmd.tile.val).ref).1 :=
      (congrArg (TileState.elem · (p.1 * 64 + col)) (takeBlock_tile ..)).trans (elem_blockElems row column)
    rw [value]
    exact accBlock_orderFree free number below finite
  · intro done
    refine ⟨_, execMatrixCommandStart_store unit run going held mst target, ?_⟩
    rw [mstStep_last done, State.mat_setMatRun]
    exact ⟨rfl, rfl⟩
  · intro st next address reached
    obtain ⟨flags, stored⟩ := mstStep_store next address reached
    obtain ⟨m, sent, msg⟩ := sendEngine_mat s unit (mstAccess cl r.cmd st pa)
    refine ⟨_, m, mstAccess cl r.cmd st pa, execMatrixCommandStart_store unit run going held mst target, ?_⟩
    rw [stored, State.mat_setMatRun]
    exact ⟨sent, rfl, msg, rfl, rfl, rfl, rfl, rfl, rfl, rfl, rfl⟩
  · exact mstStores_single
  · intro cls bytes marks
    refine ⟨_, execMatrixCommandStart_map unit run going held rmap, fun i h cell => ?_⟩
    rw [State.tile_setMatRun]
    exact map_taken rmap sound bytes marks i h cell
  · exact ⟨_, execOperandsConsumed_running unit run mma needed, operandsConsumed_frame s cl mma⟩
  · refine ⟨_, execMatrixCommandComplete_finished unit run finished held performed, endMat_run .., ?_, ?_,
      fun l live => endMat_flags cl r _ live, fun mma tagged => ?_⟩
    · rw [endMat_tile]
      exact Nat.sub_add_cancel owned
    · rw [endMat_tile]
      rfl
    · rw [MatCmd.ctag, if_pos mma, if_pos tagged]
      exact endMat_tagged s cl r (fld_lt r.cmd.c 29 24)

/-! ## Matrix instructions as they issue (R226, R243 to R247) -/

section
variable {s : State} {t : Tile} {a b c : Reg} {x : Target}

/-- A command's operands present and clean, it drains and sends its kick (R226). -/
theorem matIssue_waits {g : PReg} {rs : List Reg} {fn fmt : Nat} {ops : List (Reg × Nat)} (h : s.readyClean g rs)
    (operands : ∀ p ∈ ops, p.1 ∈ rs) (idle : s.iss.snap.relaxed = none) :
    let v (i : Nat) : Word := ((ops[i]?).map (fun p => s.iss.snap.reg p.1)).getD 0
    matIssue fn fmt t ops s = detach (.matrix (issMat fn fmt t (v 0) (v 1) (v 2) s)) .drain s := by
  have present : ∀ r ∈ ops.map (fun p => p.1), s.iss.snap.isPresent r = true := by
    simp only [List.mem_map]
    rintro _ ⟨p, member, rfl⟩
    exact h.1.2 _ (operands p member)
  exact (needs_present present).trans ((clean_clean fun p member => h.2 _ (operands p member)).trans (notBusy_idle idle))

/-- MRD of an unlocked tile reads one element (R243). -/
theorem execMrd_reads (h : s.readyClean 0 [b]) (within : fld (s.iss.snap.reg b) 63 12 = 0)
    (unlocked : ((s.cluster (clusterOf s.iss.core)).tile t.val).owners = 0) :
    let tile := (s.cluster (clusterOf s.iss.core)).tile t.val
    let r := readout (tile.elem (fld (s.iss.snap.reg b) 11 0)) tile.ref x
    exec (.mrd t a b x) s = .next (raiseFlags r.2 (writeReg a (x.ty.extend r.1)
      (tile.rowPoison.getLsbD (fld (s.iss.snap.reg b) 11 6)) s)) := by
  refine congrArg _ ((needs_clean h (by simp)).trans ?_)
  exact (if_neg (not_not.mpr within)).trans (if_neg (not_not.mpr unlocked))
/-- MRD of a locked tile issues again when the tile is unlocked (R243). -/
theorem execMrd_retries (h : s.readyClean 0 [b]) (within : fld (s.iss.snap.reg b) 63 12 = 0)
    (locked : ((s.cluster (clusterOf s.iss.core)).tile t.val).owners ≠ 0) :
    exec (.mrd t a b x) s = .next (stopWait 7 (BitVec.twoPow 64 t.val) s) := by
  refine congrArg _ ((needs_clean h (by simp)).trans ?_)
  exact (if_neg (not_not.mpr within)).trans (if_pos locked)
/-- The row of an element is the upper part of its place. -/
theorem fld_row (w : Word) : fld w 11 6 = fld w 11 0 / 64 := by
  simp only [fld, bits]
  omega

/-- MWAIT waits while a tile of its mask is locked (R247). -/
theorem execMwait_within (h : s.readyClean 0 [a]) (within : fld (s.iss.snap.reg a) 63 4 = 0) : exec (.mwait a) s = .next (
    if (s.cluster (clusterOf s.iss.core)).locked (s.iss.snap.reg a) then
      detach (.mwait (BitVec.ofNat 4 (s.iss.snap.reg a).toNat)) .waiting s
    else s) := by
  refine congrArg _ ((needs_clean h (by simp)).trans ?_)
  exact if_neg (not_not.mpr within)
theorem Cluster.locked_eq (k : Cluster) (mask : Word) :
    k.locked mask = (List.range 4).any (fun i => mask.getLsbD i && decide ((k.tile i).owners ≠ 0)) := by
  unfold Cluster.locked
  congr 1
  funext i
  rw [bit_eq_getLsbD]
  by_cases free : (k.tile i).owners = 0
  · simp [free]
  · simp [free]

/-- The fields of a capability below its check (R245). -/
def capLow (stamp : BitVec 12) (target rights : Word) : Word :=
  place stamp.toNat 28 ||| place (fld rights 5 5) 25 ||| place (fld rights 4 4) 24 ||| place (fld rights 3 0) 20 |||
    place (fld target 10 0) 0
theorem execMcap_within (h : s.readyClean 0 [b, c]) (target : fld (s.iss.snap.reg b) 63 11 = 0)
    (rights : fld (s.iss.snap.reg c) 63 6 = 0) :
    let low := capLow (s.cluster (clusterOf s.iss.core)).mcstamp (s.iss.snap.reg b) (s.iss.snap.reg c)
    exec (.mcap a b c) s =
      .next (writeReg a (place (Config.capCheck s.capKey low.toNat).toNat 40 ||| low) false s) := by
  refine congrArg _ ((needs_clean h (by simp)).trans ?_)
  exact (if_neg (not_not.mpr target)).trans (if_neg (not_not.mpr rights))
/-- A word with no bit set from one up lies below that bit's power. -/
theorem toNat_lt_of_fld {w : Word} {n : Nat} (inside : n ≤ 64) (short : fld w 63 n = 0) : w.toNat < 2 ^ n := by
  have upper : w.toNat / 2 ^ n < 2 ^ (64 - n) := by
    rw [Nat.div_lt_iff_lt_mul (Nat.two_pow_pos n), ← Nat.pow_add, Nat.sub_add_cancel inside]
    exact w.isLt
  rw [fld, bits, Nat.mod_eq_of_lt upper] at short
  exact (Nat.div_eq_zero_iff.mp short).resolve_left (Nat.two_pow_pos n).ne'
/-- WR, RD and TILES stand together in bits 25:20. -/
theorem fld_rights : ∀ y < 64, fld (place (y / 32 % 2) 25 ||| place (y / 16 % 2) 24 ||| place (y % 16) 20) 25 20 = y := by decide
section
variable (stamp : BitVec 12) (target rights : Word)

theorem capLow_stamp : fld (capLow stamp target rights) 39 28 = stamp.toNat := by
  have hs := stamp.isLt
  have wr := fld_lt rights 5 5
  have rd := fld_lt rights 4 4
  have tiles := fld_lt rights 3 0
  have cl := fld_lt target 10 0
  rw [capLow, fld_or, fld_or, fld_or, fld_or, fld_place_self (by decide) (by decide) (by omega), fld_place_below (by omega),
    fld_place_below (by omega), fld_place_below (by omega), fld_place_below (by omega)]
  simp
theorem capLow_target (short : fld target 63 11 = 0) : fld (capLow stamp target rights) 10 0 = target.toNat := by
  have cl := toNat_lt_of_fld (by decide) short
  have whole : fld target 10 0 = target.toNat := (fld_low rfl).trans (Nat.mod_eq_of_lt cl)
  rw [capLow, fld_or, fld_or, fld_or, fld_or, whole, fld_place_self (by decide) (by decide) cl]
  iterate 4 rw [fld_place_above (by decide) (by decide) (by decide)]
  simp
theorem capLow_rights (short : fld rights 63 6 = 0) : fld (capLow stamp target rights) 25 20 = rights.toNat := by
  have fields : fld rights 5 5 = rights.toNat / 32 % 2 ∧ fld rights 4 4 = rights.toNat / 16 % 2 ∧
      fld rights 3 0 = rights.toNat % 16 := by
    simp [fld, bits]
  have cl := fld_lt target 10 0
  obtain ⟨wr, rd, tiles⟩ := fields
  have all := fld_rights rights.toNat (toNat_lt_of_fld (by decide) short)
  rw [fld_or, fld_or] at all
  rw [capLow, wr, rd, tiles, fld_or, fld_or, fld_or, fld_or, fld_place_above (n := stamp.toNat) (by decide) (by decide) (by decide),
    fld_place_below (n := fld target 10 0) (by omega), Nat.zero_or, Nat.or_zero, all]
/-- The check stands above every other field. -/
theorem capLow_check : fld (capLow stamp target rights) 63 40 = 0 := by
  have hs := stamp.isLt
  have wr := fld_lt rights 5 5
  have rd := fld_lt rights 4 4
  have tiles := fld_lt rights 3 0
  have cl := fld_lt target 10 0
  rw [capLow, fld_or, fld_or, fld_or, fld_or]
  iterate 5 rw [fld_place_below (by omega)]
  simp
end

/-- The record of an MSEND, of which no word is poisoned or in error, gives its command (R246). -/
theorem execMsend_waits (h : s.readyClean 0 [a, b]) (idle : s.iss.snap.relaxed = none) (place' : (s.iss.snap.reg b).toNat < 0x18000)
    (aligned : (s.iss.snap.reg b).toNat % 32 = 0)
    (allowed : s.iss.snap.priv = true ∨ guardAllows (s.core s.iss.core).guards .load (s.iss.snap.reg b).toNat = true)
    (sound : s.wordErrors = []) (clean : ∀ i, i < 4 → s.isPoisonAt (tcmBase s.iss.core + (s.iss.snap.reg b).toNat + 8 * i) = false) :
    let w (i : Nat) := s.readWord (tcmBase s.iss.core + (s.iss.snap.reg b).toNat + 8 * i)
    exec (.msend a b) s = .next (detach (.matrix { issMat (fld (w 0) 3 0) (fld (w 0) 6 4) (Fin.ofNat 4 (fld (w 0) 9 8)) (w 1) (w 2) (w 3) s
      with cap := some (s.iss.snap.reg a), word := w 0 }) .drain s) := by
  have may : (!s.iss.snap.priv && !guardAllows (s.core s.iss.core).guards .load (s.iss.snap.reg b).toNat) = false := by
    rcases allowed with priv | guard
    · simp [priv]
    · simp [guard]
  have limits : ¬ (0x18000 ≤ (s.iss.snap.reg b).toNat ∨ (s.iss.snap.reg b).toNat % 32 ≠ 0) := by omega
  have same : (List.range 4).foldl (fun t i => t.wordError (tcmBase s.iss.core + (s.iss.snap.reg b).toNat + 8 * i) t.issName.word) s = s := by
    simp [List.range_succ, State.wordError_none, sound, mget]
  have unpoisoned : (List.range 4).any (fun i => s.isPoisonAt (tcmBase s.iss.core + (s.iss.snap.reg b).toNat + 8 * i)) = false := by
    simpa using clean
  refine congrArg _ ((needs_clean h (by simp)).trans ((notBusy_idle idle).trans ?_))
  dsimp only
  rw [if_neg limits, may, if_neg Bool.false_ne_true, same, unpoisoned, if_neg Bool.false_ne_true]

/-- A capability holds its stamp, its cluster, its rights and tiles, and the check over them (R245). -/
theorem capability_fields (stamp : BitVec 12) {target rights : Word} (key : Nat) (cluster : fld target 63 11 = 0)
    (granted : fld rights 63 6 = 0) :
    let low := capLow stamp target rights
    let v := place (Config.capCheck key low.toNat).toNat 40 ||| low
    fld v 39 28 = stamp.toNat ∧ fld v 10 0 = target.toNat ∧ fld v 25 20 = rights.toNat ∧
      fld v 63 40 = (Config.capCheck key (fld v 39 0)).toNat := by
  intro low v
  have below {hi lo : Nat} (field : lo ≤ hi) (under : hi < 40) : fld v hi lo = fld low hi lo := by
    rw [fld_or, fld_place_above field (by omega) under, Nat.zero_or]
  have covered : fld v 39 0 = low.toNat := by
    rw [below (by decide) (by decide), fld_low (n := 40) rfl]
    exact Nat.mod_eq_of_lt (toNat_lt_of_fld (by decide) (capLow_check stamp target rights))
  refine ⟨?_, ?_, ?_, ?_⟩
  · rw [below (by decide) (by decide), capLow_stamp]
  · rw [below (by decide) (by decide), capLow_target _ _ _ cluster]
  · rw [below (by decide) (by decide), capLow_rights _ _ _ granted]
  · rw [covered, fld_or, capLow_check, Nat.or_zero]
    exact fld_place_self (by decide) (by decide) (Config.capCheck key low.toNat).isLt

end

/-- Settles O34: the commands by their one shape, MRD and MWAIT by whether a tile is locked, MCAP and MSEND by their own equations. -/
theorem matrixInstructionsIssue : Obligations.MatrixInstructionsIssue := by
  unfold Obligations.MatrixInstructionsIssue
  intro s t a b c f x h idle th cl cmd sends
  have first : s.readyClean 0 [a] := h.mono (by simp)
  have second : s.readyClean 0 [b] := h.mono (by simp)
  have command (fn fmt : Nat) (u : Tile) (va vb vc : Word) : issMat fn fmt u va vb vc s = { cmd fn fmt va vb vc with tile := u } := by
    rw [issMat, place_zero_toNat s.iss.word rfl]
    rfl
  have waits {fn fmt : Nat} {ops : List (Reg × Nat)} (operands : ∀ p ∈ ops, p.1 ∈ [a, b, c]) :
      let v (i : Nat) : Word := ((ops[i]?).map (fun p => th.reg p.1)).getD 0
      (.next (matIssue fn fmt t ops s) : Out) = sends (cmd fn fmt (v 0) (v 1) (v 2)) :=
    congrArg _ ((matIssue_waits h operands idle).trans (by rw [command]))
  refine ⟨waits (by simp), waits (by simp), waits (by simp), waits (by simp), waits (by simp), waits (by simp), waits (by simp),
    fun within unlocked => ?_, fun within locked => execMrd_retries second within locked, fun within => ?_, fun target rights => ?_,
    fun place' aligned allowed sound clean => ?_⟩
  · dsimp only
    rw [execMrd_reads second within unlocked, fld_row]
  · rw [execMwait_within first within, Cluster.locked_eq]
    split
    · rfl
    · rfl
  · exact ⟨_, execMcap_within (h.mono (by simp)) target rights, capability_fields cl.mcstamp s.capKey target rights⟩
  · intro w
    refine (execMsend_waits (h.mono (by simp)) idle place' aligned allowed sound clean).trans ?_
    rw [command]

end Sys2Proof.Machine

namespace Sys2Proof.Machine

/-! ## The launch unit (R252 to R255, R271) -/

theorem lowest_of_first {n j : Nat} {p : Nat → Bool} (below : j < n) (meets : p j = true) (first : ∀ i, i < j → p i = false) :
    lowest n p = some j := by
  match found : lowest n p with
  | none => exact absurd (lowest_none.mp found j below) (by simp [meets])
  | some k =>
    obtain ⟨-, kept, least⟩ := lowest_some found
    have notAbove : ¬ k < j := fun h => by simp [first k h] at kept
    have notBelow : ¬ j < k := fun h => by simp [least j h] at meets
    exact congrArg some (by omega)

/-! ### A record that arrives (R252, R271) -/

/-- Whether a message is a record of a class that no word or shape refuses. -/
def State.isGoodRecord (s : State) (cls : Nat) : Msg → Bool
  | .launch x _ => decide (x.asked = cls) && (s.recordBad x.words x.priv).isNone
  | _ => false
/-- A record as it enters its class's queue: with SPACE of its own when word 3 is 0 (R250). -/
def LaunchRec.queued (r : LaunchRec) : LaunchRec :=
  { r with cls := r.asked, space := if wordAt r.words 3 = 0 then r.space else wordAt r.words 3 &&& spaceMask }
theorem execLaunchRecordArrival_accepted {s : State} {id : Nat} {r : LaunchRec} {addr : Word}
    (sent : s.msg? id = some (.launch r addr)) (first : s.firstArrived (s.isGoodRecord r.asked) = some id)
    (good : s.recordBad r.words r.priv = none) (room : (s.queue r.asked).length < 256) :
    exec (.launchRecordArrival id) s = .next (((s.take id).enqueue r.queued).accepted r.issuer) := by
  change execLaunchRecordArrival id s = _
  unfold execLaunchRecordArrival
  rw [sent]
  dsimp only
  rw [good]
  exact (if_neg (not_not.mpr first)).trans (if_neg (Nat.not_le.mpr room))

/-! ### Clusters taken and released (R253, R255) -/

/-- Clusters given a holder, or none. -/
def State.setHolders (s : State) (cls : List Nat) (h : Option Nat) : State :=
  cls.foldl (fun s c => s.modCluster c (fun k => { k with holder := h })) s
theorem State.holder_setHolders (s : State) (cls : List Nat) (h : Option Nat) (c : Nat) :
    ((s.setHolders cls h).cluster c).holder = if c ∈ cls then h else (s.cluster c).holder := by
  induction cls generalizing s with
  | nil => rfl
  | cons d cls ih =>
    refine (ih _).trans ?_
    by_cases same : d = c
    · simp [State.modCluster, same]
    · simp [State.modCluster, same, Ne.symm same]
/-- Nothing but clusters changes. -/
theorem State.setHolders_beside (s : State) (cls : List Nat) (h : Option Nat) :
    ∃ k, s.setHolders cls h = { s with clusters := k } := by
  induction cls generalizing s with
  | nil => exact ⟨s.clusters, rfl⟩
  | cons d cls ih => exact ih _

/-! ### Preparation (R254) -/

/-- The holders, the queues and a launch stay as they were, but for the clusters that the launch still waits for. -/
structure Prepares (lid : Nat) (s t : State) : Prop where
  holder : ∀ c, (t.cluster c).holder = (s.cluster c).holder
  queues : t.queues = s.queues
  launch : ∀ l, s.launch lid = some l → ∃ p, t.launch lid = some { l with pendingShape := p }

section
variable {lid : Nat} {s t u : State}

theorem Prepares.beside (h : t.clusters = s.clusters ∧ t.queues = s.queues ∧ t.launches = s.launches) : Prepares lid s t := by
  obtain ⟨clusters, queues, launches⟩ := h
  exact ⟨fun c => by rw [State.cluster, clusters, ← State.cluster], queues,
    fun l live => ⟨l.pendingShape, by rw [State.launch, launches]; exact live⟩⟩
theorem Prepares.rfl : Prepares lid s s := .beside ⟨by rfl, by rfl, by rfl⟩
theorem Prepares.trans (h : Prepares lid s t) (k : Prepares lid t u) : Prepares lid s u := by
  refine ⟨fun c => (k.holder c).trans (h.holder c), k.queues.trans h.queues, fun l live => ?_⟩
  obtain ⟨p, mid⟩ := h.launch l live
  obtain ⟨q, last⟩ := k.launch _ mid
  exact ⟨q, last⟩
theorem prepares_foldl {α : Type} {f : State → α → State} (h : ∀ s x, Prepares lid s (f s x)) (l : List α) (s : State) :
    Prepares lid s (l.foldl f s) := by
  induction l generalizing s with
  | nil => exact .rfl
  | cons x l ih => exact (h s x).trans (ih _)
theorem prepares_modCluster {c : Nat} {f : Cluster → Cluster} (same : ∀ k, (f k).holder = k.holder) :
    Prepares lid s (s.modCluster c f) := by
  refine ⟨fun d => ?_, by rfl, fun l live => ⟨l.pendingShape, live⟩⟩
  rw [State.modCluster, State.cluster_setCluster]
  split
  next e => rw [same, e]
  next => rfl
theorem prepares_pendingShape (n : Nat) (f : Launch → List (Nat × Nat)) :
    Prepares lid s (s.modLaunch n (fun l => { l with pendingShape := f l })) := by
  unfold State.modLaunch
  split
  next x found =>
    refine ⟨fun _ => rfl, rfl, fun l live => ?_⟩
    by_cases same : n = lid
    · obtain rfl : x = l := Option.some.inj (found.symm.trans (same ▸ live))
      exact ⟨f x, by simp [State.launch, same]⟩
    · exact ⟨l.pendingShape, by simpa [State.launch, mget_mset, same] using live⟩
  next => exact .rfl
theorem prepares_allocate (core slot : Nat) (launch space : Word) (priv : Bool) (pc : Word) (f : Thread → Thread) :
    Prepares lid s (s.allocate core slot launch space priv pc f) := .beside ⟨rfl, rfl, rfl⟩
theorem prepares_loadSlots (n : Nat) (l : Launch) (cl rank : Nat) : Prepares lid s (s.loadSlots n l cl rank) :=
  (prepares_foldl (fun s _ => prepares_foldl (fun _ _ => prepares_allocate ..) _ s) _ s).trans (prepares_pendingShape n _)
theorem prepares_resetCluster (cl : Nat) (stamp : BitVec 12) : Prepares lid s (s.resetCluster cl stamp) :=
  .trans (prepares_modCluster fun _ => by rfl) (prepares_foldl (fun _ _ => .beside ⟨by rfl, by rfl, by rfl⟩) (coresOf cl) _)
theorem prepares_prepare (n cl rank : Nat) : Prepares lid s (s.prepare n cl rank) := by
  unfold State.prepare
  split
  · exact .rfl
  · split
    · exact .rfl
    · have stamped (l : Launch) : Prepares lid s (if (s.cluster cl).mcstamp = l.stamp then s else s.resetCluster cl l.stamp) := by
        split
        · exact .rfl
        · exact prepares_resetCluster ..
      dsimp only
      split
      · exact (stamped _).trans (prepares_loadSlots ..)
      · exact stamped _
end

/-! ### Placement (R252, R253) -/

theorem State.queue_modQueue (s : State) {cls : Nat} (f : List LaunchRec → List LaunchRec) (h : cls < 4) :
    (s.modQueue cls f).queue cls = f (s.queue cls) := by
  rw [State.queue, List.getD_eq_getElem _ _ (by simpa using h)]
  simp [State.modQueue, vecOf_get _ cls h]

/-- The launch that a record becomes (R253, R257). -/
def State.newLaunch (s : State) (r : LaunchRec) (lid : Nat) (cls : List Nat) : Launch where
  lgen := (mget s.lgens lid).getD 0 + 1
  stamp := s.newStamp cls
  words := r.words
  space := r.space
  cls := r.cls
  priv := r.priv
  issuer := r.issuer
  pc := r.pc
  slotw := r.slotw
  lflags := 0
  clusters := cls.zipIdx
  faulted := false
  killed := false
  step := r.step
  pendingShape := cls.map (fun c => (c, 0))
  shapeHeld := []
  episodes := []
/-- A record taken from its queue, with its entry and its clusters, before their preparation. -/
def State.placed (s : State) (turn : Nat) (r : LaunchRec) (lid : Nat) (cls : List Nat) : State :=
  (({ s with
    turn := Fin.ofNat 15 (turn + 1)
    launches := mset s.launches lid (s.newLaunch r lid cls)
    lgens := mset s.lgens lid ((mget s.lgens lid).getD 0 + 1)
    stamp := s.newStamp cls } : State).modQueue r.cls (fun q => q.drop 1)).setHolders cls (some lid)

section
variable {s : State} {turn lid : Nat} {r : LaunchRec} {cls : List Nat}

theorem execLaunchPlacement_places (next : s.nextTurn = some (turn, r)) (idle : s.cwords = []) (plain : r.step = none)
    (picked : pickClusters s.isFreeCluster r.words = some cls) (free : s.launch lid = none)
    (lower : ∀ n, n < lid → (s.launch n).isSome = true) (below : lid < 4096) :
    exec .launchPlacement s = .next (cls.zipIdx.foldl (fun s p => s.prepare lid p.1 p.2) (s.placed turn r lid cls)) := by
  have entry : lowest 4096 (fun n => (mget s.launches n).isNone) = some lid :=
    lowest_of_first below (Option.isNone_iff_eq_none.mpr free) fun n h => Option.isNone_eq_false_iff.mpr (lower n h)
  change execLaunchPlacement s = _
  unfold execLaunchPlacement
  rw [next, idle]
  dsimp only
  rw [picked, entry, plain]
  simp only [State.placed, State.newLaunch, plain, idle]
  rfl
theorem State.launch_placed : (s.placed turn r lid cls).launch lid = some (s.newLaunch r lid cls) := by
  obtain ⟨k, eq⟩ := State.setHolders_beside _ cls (some lid)
  rw [State.placed, eq]
  exact mget_mset_self ..
theorem State.queue_placed (within : r.cls < 4) : (s.placed turn r lid cls).queue r.cls = (s.queue r.cls).drop 1 := by
  obtain ⟨k, eq⟩ := State.setHolders_beside _ cls (some lid)
  rw [State.placed, eq]
  exact State.queue_modQueue _ (fun q => q.drop 1) within
theorem State.holder_placed {c : Nat} (member : c ∈ cls) : ((s.placed turn r lid cls).cluster c).holder = some lid :=
  (State.holder_setHolders ..).trans (if_pos member)
end

/-! ### The shape broadcast (R254) -/

section
variable {s : State} {cl lid rank done : Nat} {l : Launch}

/-- A cluster whose stamp is already its launch's gets what is left of the broadcast. -/
theorem execShapeBroadcastComplete_pending (inside : cl < 2048) (held : (s.cluster cl).holder = some lid)
    (live : s.launch lid = some l) (pending : l.pendingShape.find? (fun p => p.1 == cl) = some (cl, done))
    (ranked : l.clusters.find? (fun p => p.1 == cl) = some (cl, rank)) (sound : l.shapeHeld = []) (going : l.killed = false)
    (idle : (s.cluster cl).mat.idle = true) (stamped : (s.cluster cl).mcstamp = l.stamp) :
    exec (.shapeBroadcastComplete cl) s = .next (s.broadcast lid l cl rank done ((recShlen l.words - done) / 8)) := by
  change execShapeBroadcastComplete cl s = _
  unfold execShapeBroadcastComplete
  rw [if_neg (Nat.not_le.mpr inside), held]
  dsimp only
  rw [live]
  dsimp only
  rw [pending, ranked]
  dsimp only
  rw [sound, going, idle, if_pos stamped]
  rfl
end

/-! ### The end of a launch (R255) -/

section
variable {s : State} {lid : Nat} {l : Launch}

/-- Cores whose work lists are emptied. -/
def State.clearLists (s : State) (cores : List Nat) : State :=
  cores.foldl (fun s c => if (s.core c).worklist.isEmpty then s else s.modCore c (fun k => { k with worklist := [] })) s
/-- Nothing but cores changes. -/
theorem State.clearLists_beside (s : State) (cores : List Nat) : ∃ k, s.clearLists cores = { s with cores := k } := by
  induction cores generalizing s with
  | nil => exact ⟨s.cores, rfl⟩
  | cons c cores ih =>
    rw [State.clearLists, List.foldl_cons]
    split
    · exact ih s
    · exact ih _
/-- The clusters that a launch still holds. -/
def State.heldBy (s : State) (lid : Nat) (l : Launch) : List Nat :=
  (l.clusters.map (fun p => p.1)).filter (fun c => decide ((s.cluster c).holder = some lid))
/-- With no step and no completion word, a launch releases its clusters and its entry. -/
theorem State.endLaunch_quiet (plain : l.step = none) (silent : wordAt l.words 4 = 0) :
    s.endLaunch lid l =
      ((s.clearLists ((s.heldBy lid l).flatMap coresOf)).setHolders (s.heldBy lid l) none).freeEntry (some lid) := by
  unfold State.endLaunch State.addCword
  rw [plain]
  exact if_pos silent
theorem execLaunchEnd_over (live : s.launch lid = some l) (idle : s.cwords = []) (ended : s.launchOver lid l = true) :
    exec (.launchEnd lid) s = .next (s.endLaunch lid l) := by
  change execLaunchEnd lid s = _
  unfold execLaunchEnd
  rw [live]
  dsimp only
  rw [idle, ended]
  rfl
/-- A launch that ends leaves its entry free, none of its clusters held, and memory as it was. -/
theorem endLaunch_quiet_leaves (plain : l.step = none) (silent : wordAt l.words 4 = 0) :
    (∀ n, (s.endLaunch lid l).launch n = if n = lid then none else s.launch n) ∧ (s.endLaunch lid l).mem = s.mem ∧
      ∀ c ∈ l.clusters, ((s.endLaunch lid l).cluster c.1).holder ≠ some lid := by
  rw [State.endLaunch_quiet plain silent]
  obtain ⟨cores, cleared⟩ := s.clearLists_beside ((s.heldBy lid l).flatMap coresOf)
  rw [cleared]
  obtain ⟨clusters, released⟩ := State.setHolders_beside { s with cores := cores } (s.heldBy lid l) none
  refine ⟨fun n => ?_, ?_, fun c member => ?_⟩
  · rw [released]
    exact (mget_mdel ..).trans (by simp only [eq_comm]; rfl)
  · rw [released]
    rfl
  · have after : (((({ s with cores := cores } : State).setHolders (s.heldBy lid l) none).freeEntry (some lid)).cluster c.1).holder =
        if c.1 ∈ s.heldBy lid l then none else (s.cluster c.1).holder := State.holder_setHolders ..
    rw [after]
    split
    next => exact nofun
    next other =>
      intro still
      exact other (List.mem_filter.mpr ⟨List.mem_map_of_mem member, decide_eq_true still⟩)
end

/-- Settles O37: the launch unit's steps by their own equations, then what preparation and the end leave. -/
theorem launchUnitSteps : Obligations.LaunchUnitSteps := by
  unfold Obligations.LaunchUnitSteps
  intro s id lid cl turn rank r l addr cls
  refine ⟨fun sent first good room => execLaunchRecordArrival_accepted sent first good room,
    fun next idle plain picked free lower below within => ?_,
    fun inside held live pending ranked sound going idle stamped => ?_,
    fun done inside held live pending ranked sound going idle stamped =>
      execShapeBroadcastComplete_pending inside held live pending ranked sound going idle stamped,
    fun live idle ended plain silent => ⟨_, execLaunchEnd_over live idle ended, endLaunch_quiet_leaves plain silent⟩⟩
  · have prepared := prepares_foldl (lid := lid) (fun s p => prepares_prepare lid p.1 p.2) cls.zipIdx (s.placed turn r lid cls)
    obtain ⟨p, live⟩ := prepared.launch _ State.launch_placed
    refine ⟨_, _, execLaunchPlacement_places next idle plain picked free lower below, live, rfl, rfl, rfl, rfl, fun c member => ?_, ?_⟩
    · rw [prepared.holder, State.holder_placed member]
    · rw [State.queue, prepared.queues, ← State.queue, State.queue_placed within]
  · rw [execShapeBroadcastComplete_pending inside held live pending ranked sound going idle stamped, Nat.sub_self]
    rfl

end Sys2Proof.Machine

namespace Sys2Proof.Machine

/-! ## Spawn messages and slot-free notices (R261, R270) -/

section
variable {s : State} {id sender seq slot target : Nat} {c : Carried}

/-- A spawn message whose target's cluster is open, prepared and held by its launch starts in a free slot, or its sender is
noted (R261). -/
theorem execSpawnMessageArrival_held (sent : s.msg? id = some (.spawn sender seq))
    (buffered : mget (s.core sender).spawnBuf seq = some c) (spawn : c.mig = false)
    (opened : s.isFenced (clusterOf c.target) = false) (held : (s.cluster (clusterOf c.target)).holder = some (lidOf c.launch))
    (live : (s.launchOf c.launch).isSome = true) (prepared : s.unprepared c.launch (clusterOf c.target) = false) :
    exec (.spawnMessageArrival id) s =
      match s.freeSlot c.target (some sender) with
      | some slot => .next ((((s.take id).dropSpawn sender seq).writeCarry c).startCarried slot c)
      | none =>
        if (s.core c.target).notices.length < 32 then
          .next ((s.take id).modCore c.target (fun k => { k with notices := k.notices ++ [sender] }))
        else .next ((s.take id).modCore sender (fun k => { k with spawnBuf := mset k.spawnBuf seq { c with resend := true } })) := by
  change execSpawnMessageArrival id s = _
  unfold execSpawnMessageArrival
  rw [sent]
  dsimp only
  rw [show mget ((s.take id).core sender).spawnBuf seq = some c from buffered]
  dsimp only
  rw [show (s.take id).isFenced (clusterOf c.target) = false from opened,
    show ((s.take id).cluster (clusterOf c.target)).holder = some (lidOf c.launch) from held,
    show ((s.take id).launchOf c.launch).isSome = true from live,
    show (s.take id).unprepared c.launch (clusterOf c.target) = false from prepared, spawn]
  exact (if_neg Bool.false_ne_true).trans ((if_neg (by simp)).trans (if_neg Bool.false_ne_true))
theorem State.writeCarry_nil (plain : c.words = []) : s.writeCarry c = s := by
  rw [State.writeCarry, plain]
  rfl

theorem execSlotFreeNotice_waiting (sent : s.msg? id = some (.slotFree sender target slot))
    (oldest : ((s.core sender).spawnBuf.filter (fun p => p.2.target == target)).find?
      (fun p => !(s.take id).spawnInFlight sender p.1) = some (seq, c)) :
    exec (.slotFreeNotice id) s = .next (((s.take id).modCore sender (fun k =>
      { k with spawnBuf := mset k.spawnBuf seq { c with resend := false } })).sendSpawn sender (seq, c)) := by
  change execSlotFreeNotice id s = _
  unfold execSlotFreeNotice
  rw [sent]
  dsimp only
  rw [show (((s.take id).core sender).spawnBuf.filter (fun p => p.2.target == target)).find?
    (fun p => !(s.take id).spawnInFlight sender p.1) = some (seq, c) from oldest]

theorem execSpawnResendTick_one (tick : s.cycle % 4096 = 0) (only : s.cores = [(sender, s.core sender)])
    (buffer : (s.core sender).spawnBuf = [(seq, { c with resend := true })]) :
    exec .spawnResendTick s = .next ((s.modCore sender (fun k =>
      { k with spawnBuf := mset k.spawnBuf seq { c with resend := false } })).sendSpawn sender (seq, { c with resend := true })) := by
  have waiting : s.cores.flatMap (fun p => (p.2.spawnBuf.filter (fun q => q.2.resend)).map (fun q => (p.1, q))) =
      [(sender, seq, { c with resend := true })] := by
    rw [only]
    simp [buffer]
  change execSpawnResendTick s = _
  unfold execSpawnResendTick
  rw [waiting]
  exact if_neg (by simp [tick])

/-- A message put back into its buffer and sent again. -/
theorem sendSpawn_modCore_flight (f : Core → Core) :
    ((s.modCore sender f).sendSpawn sender (seq, c)).flight.length = s.flight.length + 1 :=
  List.length_append
theorem sendSpawn_modCore_core (f : Core → Core) :
    ((s.modCore sender f).sendSpawn sender (seq, c)).core sender = f (s.core sender) := s.core_modCore_self sender f
end

/-! ## Load levelling (R266) -/

theorem keepsUnits_modCore {s : State} {c : Nat} {f : Core → Core} (same : ∀ k, (f k).tags = k.tags) : KeepsUnits s (s.modCore c f) :=
  keepsUnits_setCore (same _)
/-- WLPOP's waiters take entries; nothing else changes. -/
theorem keepsUnits_servePops (s : State) (core n : Nat) : KeepsUnits s (s.servePops core n) := by
  induction n generalizing s with
  | zero => exact .rfl
  | succ n ih =>
    unfold State.servePops
    dsimp only
    split
    · split
      · exact .trans (keepsUnits_modCore fun _ => by rfl) (.trans (keepsUnits_popPend ..) (ih _))
      · exact .rfl
    · exact .rfl
/-- With nothing pending in a core's slots no WLPOP takes an entry. -/
theorem State.servePops_idle {s : State} {core : Nat} (idle : ∀ i x, i < 7 → s.thread (tid core i) = some x → x.pend = [])
    (n : Nat) : s.servePops core n = s := by
  cases n with
  | zero => rfl
  | succ n =>
    have nobody : (s.slotsOf core).find? (fun p => match p.2.pend with
        | { op := .wlpop _, phase := .waiting, .. } :: _ => true
        | _ => false) = none := by
      rw [List.find?_eq_none]
      intro p member
      simp only [State.slotsOf, List.mem_filterMap, List.mem_range, Option.map_eq_some_iff] at member
      obtain ⟨i, inside, x, here, rfl⟩ := member
      simp [idle i x inside here]
    unfold State.servePops
    dsimp only
    split
    next slot th _ _ _ found _ => exact absurd (nobody.symm.trans found) nofun
    next => rfl

theorem leastLoaded_mem {count : Nat → Nat} {d : Nat} : ∀ {l : List Nat}, leastLoaded count l = some d → d ∈ l
  | c :: r, h => by
    rw [leastLoaded] at h
    split at h
    next => simp_all
    next e found =>
      have member := leastLoaded_mem found
      split at h
      · simp_all
      · simp_all
/-- The least-loaded core of an ascending list is the lowest of those whose count no other's is below. -/
theorem leastLoaded_lowest {count : Nat → Nat} {m : Nat} : ∀ {l : List Nat}, l.Pairwise (· ≤ ·) → m ∈ l →
    (∀ c ∈ l, count m ≤ count c ∧ (count c = count m → m ≤ c)) → leastLoaded count l = some m
  | c :: r, sorted, member, least => by
    obtain ⟨before, rest⟩ := List.pairwise_cons.mp sorted
    obtain ⟨low, tie⟩ := least c List.mem_cons_self
    rw [leastLoaded]
    by_cases later : m ∈ r
    · rw [leastLoaded_lowest rest later fun d h => least d (List.mem_cons_of_mem _ h)]
      dsimp only
      split
      next => rfl
      next same => rw [Nat.le_antisymm (before m later) (tie (by omega))]
    · obtain rfl : m = c := (List.mem_cons.mp member).resolve_right later
      split
      next => rfl
      next d found =>
        exact if_neg (Nat.not_lt.mpr (least d (List.mem_cons_of_mem _ (leastLoaded_mem found))).1)
theorem State.adjacent_sorted (s : State) (core : Nat) : (s.adjacent core).Pairwise (· ≤ ·) := by
  unfold State.adjacent
  split
  · exact .nil
  · exact List.pairwise_insertionSort _ _

/-- What the cores that hold entries give (R266). -/
def State.levelMoves (s : State) : List (Nat × Nat × Nat) :=
  (s.cores.filter (fun p => !p.2.worklist.isEmpty)).filterMap (fun p => (s.levelMove p.1).map (fun m => (p.1, m.1, m.2)))
/-- Entries taken from the bottom of each giver's list. -/
def State.takeMoves (s : State) (moves : List (Nat × Nat × Nat)) : State :=
  moves.foldl (fun s m => s.modCore m.1 (fun k => { k with worklist := k.worklist.take (k.worklist.length - m.2.2) })) s
/-- Entries put at the bottom of a target's list as far as it has room, the others back at the bottom of their giver's. -/
def State.giveMoves (s : State) (given : List ((Nat × Nat × Nat) × List (Word × Bool))) : State :=
  given.foldl (fun s p =>
    let (core, tgt, _) := p.1
    let room := 1024 - (s.core tgt).worklist.length
    let s := s.modCore core (fun k => { k with worklist := k.worklist ++ p.2.drop room })
    s.modCore tgt (fun k => { k with worklist := k.worklist ++ p.2.take room })) s
/-- What each move takes, by the sampled lists. -/
def State.givenBy (s : State) (moves : List (Nat × Nat × Nat)) : List ((Nat × Nat × Nat) × List (Word × Bool)) :=
  moves.map (fun m => (m, (s.core m.1).worklist.drop ((s.core m.1).worklist.length - m.2.2)))
theorem execLoadLevelling_moves {s : State} (tick : s.cycle % 4096 = 0) (moves : s.levelMoves ≠ []) :
    exec .loadLevelling s = .next (s.levelMoves.foldl (fun s m => s.servePops m.2.1 7)
      ((s.takeMoves s.levelMoves).giveMoves (s.givenBy s.levelMoves))) :=
  if_neg (not_or.mpr ⟨not_not.mpr tick, moves⟩)
theorem keepsUnits_takeMoves (s : State) (moves : List (Nat × Nat × Nat)) : KeepsUnits s (s.takeMoves moves) :=
  keepsUnits_foldl (fun _ _ => keepsUnits_modCore fun _ => by rfl) ..
theorem keepsUnits_giveMoves (s : State) (given : List ((Nat × Nat × Nat) × List (Word × Bool))) : KeepsUnits s (s.giveMoves given) :=
  keepsUnits_foldl (fun _ _ => .trans (keepsUnits_modCore fun _ => by rfl) (keepsUnits_modCore fun _ => by rfl)) ..
theorem keepsUnits_levelled (s : State) (moves : List (Nat × Nat × Nat)) (given : List ((Nat × Nat × Nat) × List (Word × Bool))) :
    KeepsUnits s (moves.foldl (fun s m => s.servePops m.2.1 7) ((s.takeMoves moves).giveMoves given)) :=
  (keepsUnits_takeMoves s moves).trans ((keepsUnits_giveMoves _ given).trans
    (keepsUnits_foldl (fun _ _ => keepsUnits_servePops ..) moves _))
theorem levelMoves_ne_nil {s : State} (gives : s.cores.any (fun p => !p.2.worklist.isEmpty && (s.levelMove p.1).isSome) = true) :
    s.levelMoves ≠ [] := by
  simp only [List.any_eq_true, Bool.and_eq_true, Option.isSome_iff_exists] at gives
  obtain ⟨p, member, full, m, move⟩ := gives
  exact List.ne_nil_of_mem (List.mem_filterMap.mpr ⟨p, List.mem_filter.mpr ⟨member, full⟩, by rw [move]; rfl⟩)

section
variable {s : State} {giver taker n : Nat}

/-- One core that holds entries and gives some makes one move. -/
theorem levelMoves_one (only : s.cores.filter (fun p => !p.2.worklist.isEmpty) = [(giver, s.core giver)])
    (gives : s.levelMove giver = some (taker, n)) : s.levelMoves = [(giver, taker, n)] := by
  rw [State.levelMoves, only]
  simp [gives]
theorem levelMove_least {least : Nat} (member : least ∈ s.adjacent giver)
    (lowest : ∀ c ∈ s.adjacent giver, (s.core least).worklist.length ≤ (s.core c).worklist.length ∧
      ((s.core c).worklist.length = (s.core least).worklist.length → least ≤ c))
    (above : (s.core least).worklist.length + 2 ≤ (s.core giver).worklist.length) :
    s.levelMove giver = some (least, ((s.core giver).worklist.length - (s.core least).worklist.length) / 2) := by
  unfold State.levelMove
  dsimp only
  rw [leastLoaded_lowest (s.adjacent_sorted giver) member lowest]
  exact if_pos above

/-- A single move whose target has room for all of it. -/
theorem State.oneMove_leaves (other : giver ≠ taker) (room : n + (s.core taker).worklist.length ≤ 1024) :
    let l := (s.core giver).worklist
    let t := (s.takeMoves [(giver, taker, n)]).giveMoves (s.givenBy [(giver, taker, n)])
    (t.core giver).worklist = l.take (l.length - n) ∧
      (t.core taker).worklist = (s.core taker).worklist ++ l.drop (l.length - n) ∧
      ∀ c, c ≠ giver → c ≠ taker → t.core c = s.core c := by
  dsimp only
  generalize moved : (s.core giver).worklist.drop ((s.core giver).worklist.length - n) = d
  have few : d.length ≤ 1024 - (s.core taker).worklist.length := by
    rw [← moved, List.length_drop]
    omega
  have noneBack := List.drop_eq_nil_of_le few
  have allGiven := List.take_of_length_le few
  simp only [State.takeMoves, State.giveMoves, State.givenBy, List.map_cons, List.map_nil, List.foldl_cons, List.foldl_nil,
    State.modCore, State.core_setCore, moved, if_neg other, if_neg other.symm, noneBack, allGiven, List.append_nil, if_pos, true_and]
  exact fun c notGiver notTaker => by rw [if_neg notTaker.symm, if_neg notGiver.symm, if_neg notGiver.symm]
theorem execLoadLevelling_one (tick : s.cycle % 4096 = 0) (one : s.levelMoves = [(giver, taker, n)])
    (idle : ∀ i x, i < 7 → s.thread (tid taker i) = some x → x.pend = []) :
    exec .loadLevelling s = .next ((s.takeMoves [(giver, taker, n)]).giveMoves (s.givenBy [(giver, taker, n)])) := by
  rw [execLoadLevelling_moves tick (by simp [one]), one]
  exact congrArg Host.Outcome.next (State.servePops_idle
    (s := (s.takeMoves [(giver, taker, n)]).giveMoves (s.givenBy [(giver, taker, n)])) idle 7)
end

/-! ## Reductions (R267, R268) -/

section
variable {pv pi qv qi : Word}

theorem combineFirst_nan_first (p : (Fty.f64.val pv.toNat).isNan = true) (q : (Fty.f64.val qv.toNat).isNan = false) :
    combineFirst pv pi qv qi = true := by
  simp [combineFirst, p, q]
theorem combineFirst_nan_second (p : (Fty.f64.val pv.toNat).isNan = false) (q : (Fty.f64.val qv.toNat).isNan = true) :
    combineFirst pv pi qv qi = false := by
  simp [combineFirst, p, q]
theorem combineFirst_greater (p : (Fty.f64.val pv.toNat).isNan = false) (q : (Fty.f64.val qv.toNat).isNan = false)
    (h : (Fty.f64.val qv.toNat).rank < (Fty.f64.val pv.toNat).rank) : combineFirst pv pi qv qi = true := by
  simp [combineFirst, p, q, (cmpVal_pos_iff p q).mpr h]
theorem combineFirst_less (p : (Fty.f64.val pv.toNat).isNan = false) (q : (Fty.f64.val qv.toNat).isNan = false)
    (h : (Fty.f64.val pv.toNat).rank < (Fty.f64.val qv.toNat).rank) : combineFirst pv pi qv qi = false := by
  have less := (cmpVal_neg_iff p q).mpr h
  simp [combineFirst, p, q, less, less.le]
/-- Between two NaNs or two equal numbers the index decides (R268). -/
theorem combineFirst_tie (tie : (Fty.f64.val pv.toNat).isNan = true ∧ (Fty.f64.val qv.toNat).isNan = true ∨
    ((Fty.f64.val pv.toNat).isNan = false ∧ (Fty.f64.val qv.toNat).isNan = false) ∧
      (Fty.f64.val pv.toNat).rank = (Fty.f64.val qv.toNat).rank) : combineFirst pv pi qv qi = decide (pi.toNat < qi.toNat) := by
  rcases tie with ⟨p, q⟩ | ⟨⟨p, q⟩, equal⟩
  · simp [combineFirst, p, q]
  · simp [combineFirst, p, q, (cmpVal_zero_iff p q).mpr equal]
end

/-- Two packets merged hold the value and index of the one that combine keeps. -/
theorem NredEntry.merge_keeps {p q : NredEntry} {b : Bool} (h : combineFirst p.v p.i q.v q.i = b) :
    (p.merge q).v = (if b then p else q).v ∧ (p.merge q).i = (if b then p else q).i := by
  subst h
  unfold NredEntry.merge
  dsimp only
  split
  · exact ⟨rfl, rfl⟩
  · exact ⟨rfl, rfl⟩
theorem mergeInto_new {e : NredEntry} {l : List NredEntry} (new : ∀ x ∈ l, x.key ≠ e.key) : mergeInto e l = l ++ [e] := by
  induction l with
  | nil => rfl
  | cons x l ih =>
    obtain ⟨other, others⟩ := List.forall_mem_cons.mp new
    rw [mergeInto, ih others]
    simp [other]
theorem mergeInto_one {e x : NredEntry} (same : x.key = e.key) (fits : x.count + e.count ≤ keyCount e.key) :
    mergeInto e [x] = [x.merge e] := by
  simp [mergeInto, same, fits]

theorem mset_mset {α : Type} (m : List (Nat × α)) (n : Nat) (a b : α) : mset (mset m n a) n b = mset m n b := by
  induction m with
  | nil => simp [mset]
  | cons p r ih =>
    obtain ⟨k, v⟩ := p
    by_cases before : n < k
    · simp [mset, before]
    · by_cases here : n = k
      · simp [mset, here]
      · simp [mset, before, here, ih]
theorem State.setCore_setCore (s : State) (c : Nat) (k j : Core) : (s.setCore c k).setCore c j = s.setCore c j := by
  simp only [State.setCore, mset_mset]

/-- Whether a complete entry can be delivered now (R268). -/
def State.delivers (s : State) (x : NredEntry) : Bool := decide (keyCount x.key ≤ x.count) && !s.ownerHeld x
theorem State.delivers_false {s : State} {x : NredEntry} : s.delivers x = false ↔ x.count < keyCount x.key ∨ s.ownerHeld x = true := by
  rw [State.delivers, Bool.and_eq_false_iff, Bool.not_eq_false', decide_eq_false_iff_not, Nat.not_le]

/-- Entries none of which can be delivered now all stay. -/
theorem filter_delivers_none {s : State} {l : List NredEntry} (waits : ∀ y ∈ l, s.delivers y = false) :
    l.filter s.delivers = [] ∧ l.filter (fun y => !s.delivers y) = l :=
  ⟨List.filter_eq_nil_iff.mpr fun y h => by simp [waits y h], List.filter_eq_self.mpr fun y h => by simp [waits y h]⟩

section
variable {s : State} {id : Nat} {e : NredEntry}

/-- A packet that finds a place leaves its core with the entries that cannot be delivered yet; the others are delivered. -/
theorem execNredPacketArrival_placed (sent : s.msg? id = some (.nred e))
    (room : (mergeInto e (s.core (keyOwner e.key).core).nred).length ≤ 8) :
    let o := (keyOwner e.key).core
    let l := mergeInto e (s.core o).nred
    exec (.nredPacketArrival id) s = .next ((l.filter s.delivers).foldl State.deliverNred
      ((s.take id).setCore o { s.core o with nred := l.filter (fun x => !s.delivers x) })) := by
  intro o l
  change execNredPacketArrival id s = _
  unfold execNredPacketArrival
  rw [sent]
  dsimp only
  refine (if_neg (Nat.not_lt.mpr room)).trans (congrArg _ ?_)
  simp only [State.deliverFull, State.modCore, State.core_setCore, if_pos, State.setCore_setCore]
  rfl
theorem execNredPacketArrival_kept (sent : s.msg? id = some (.nred e))
    (room : (mergeInto e (s.core (keyOwner e.key).core).nred).length ≤ 8)
    (waits : ∀ y ∈ mergeInto e (s.core (keyOwner e.key).core).nred, s.delivers y = false) :
    exec (.nredPacketArrival id) s = .next ((s.take id).setCore (keyOwner e.key).core
      { s.core (keyOwner e.key).core with nred := mergeInto e (s.core (keyOwner e.key).core).nred }) := by
  refine (execNredPacketArrival_placed sent room).trans ?_
  obtain ⟨delivered, kept⟩ := filter_delivers_none waits
  rw [delivered, kept]
  rfl
/-- The packet that completes an entry of its own is delivered, and its core's entries are as before. -/
theorem execNredPacketArrival_complete (sent : s.msg? id = some (.nred e))
    (new : ∀ x ∈ (s.core (keyOwner e.key).core).nred, x.key ≠ e.key) (room : (s.core (keyOwner e.key).core).nred.length < 8)
    (others : ∀ x ∈ (s.core (keyOwner e.key).core).nred, s.delivers x = false) (complete : s.delivers e = true) :
    exec (.nredPacketArrival id) s =
      .next (((s.take id).setCore (keyOwner e.key).core (s.core (keyOwner e.key).core)).deliverNred e) := by
  have opened := mergeInto_new new
  refine (execNredPacketArrival_placed sent (by simpa [opened] using room)).trans ?_
  obtain ⟨delivered, kept⟩ := filter_delivers_none others
  rw [opened, List.filter_append, List.filter_append, delivered, kept, List.filter_cons_of_pos complete,
    List.filter_cons_of_neg (by simp [complete]), List.filter_nil, List.filter_nil, List.append_nil]
  rfl
theorem State.deliverNred_live {th : Thread} (live : s.named (keyOwner e.key) = some th) :
    s.deliverNred e = s.setThread (tid (keyOwner e.key).core (keyOwner e.key).slot) (e.deliver th) := by
  unfold State.deliverNred State.modNamed
  dsimp only
  rw [live]
end

/-- Settles O38: each step by its own equation; a packet by the entries it leaves, those that its core delivers and those it keeps. -/
theorem spawningAndReductions : Obligations.SpawningAndReductions := by
  unfold Obligations.SpawningAndReductions
  intro s id sender seq slot target c e th s0
  refine ⟨fun sent buffered spawn opened held live prepared => ?_, fun sent oldest => ?_, fun tick only buffer => ?_,
    fun tick gives => ?_, ?_, fun x sent one same fits waits => ?_, fun sent new room others => ?_⟩
  · have arrives := execSpawnMessageArrival_held sent buffered spawn opened held live prepared
    refine ⟨fun free plain => ?_, fun full room => ?_⟩
    · rw [arrives, free]
      dsimp only
      rw [State.writeCarry_nil plain]
    · rw [arrives, full]
      exact if_pos room
  · refine ⟨_, execSlotFreeNotice_waiting sent oldest, sendSpawn_modCore_flight _, ?_⟩
    rw [sendSpawn_modCore_core]
    exact mget_mset_self ..
  · refine ⟨_, execSpawnResendTick_one tick only buffer, ?_, sendSpawn_modCore_flight _⟩
    rw [sendSpawn_modCore_core, buffer]
    simp [mset]
  · have kept := keepsUnits_levelled s s.levelMoves (s.givenBy s.levelMoves)
    exact ⟨_, execLoadLevelling_moves tick (levelMoves_ne_nil gives), kept.mem, kept.marks⟩
  · intro giver taker count n tick only near least above few idle
    have one := levelMoves_one only (levelMove_least near least above)
    have other : giver ≠ taker := by
      rintro rfl
      omega
    have gap : (s.core taker).worklist.length + 2 ≤ (s.core giver).worklist.length := above
    have bound : (s.core giver).worklist.length ≤ 1024 := few
    exact ⟨_, execLoadLevelling_one tick one idle, State.oneMove_leaves other (by omega)⟩
  · have joins : mergeInto e (s.core (keyOwner e.key).core).nred = [x.merge e] := one ▸ mergeInto_one same fits
    have owner : s.ownerHeld (x.merge e) = s.ownerHeld e := congrArg (fun k => s.ownerHeld { e with key := k }) same
    have kept : s.delivers (x.merge e) = false := by
      rw [State.delivers_false, owner]
      exact same ▸ waits
    refine ⟨x.merge e, ?_, same, rfl, rfl, rfl, fun p q => ?_, fun q p => ?_, fun nums more => ?_, fun nums less => ?_, fun tie => ?_⟩
    · rw [execNredPacketArrival_kept sent (by simp [joins]) (by simp [joins, kept]), joins]
    · exact NredEntry.merge_keeps (combineFirst_nan_first p q)
    · exact NredEntry.merge_keeps (combineFirst_nan_second p q)
    · exact NredEntry.merge_keeps (combineFirst_greater nums.1 nums.2 more)
    · exact NredEntry.merge_keeps (combineFirst_less nums.1 nums.2 less)
    · simpa using NredEntry.merge_keeps (combineFirst_tie tie)
  · have opened := mergeInto_new new
    have rest : ∀ x ∈ (s.core (keyOwner e.key).core).nred, s.delivers x = false :=
      fun x member => State.delivers_false.mpr (.inl (others x member))
    refine ⟨fun waits => ?_, fun full live running _ => ?_⟩
    · have kept : ∀ y ∈ mergeInto e (s.core (keyOwner e.key).core).nred, s.delivers y = false := by
        rw [opened, List.forall_mem_append]
        exact ⟨rest, by simpa using State.delivers_false.mpr waits⟩
      rw [execNredPacketArrival_kept sent (by simpa [opened] using room) kept, opened]
    · have complete : s.delivers e = true := by
        simp [State.delivers, State.ownerHeld, full, live, running]
      rw [execNredPacketArrival_complete sent new room rest complete]
      exact congrArg _ (State.deliverNred_live live)

end Sys2Proof.Machine
